-- ==== Sys2Proof/Word.lean ====
section
/-! DEFINITION. The plain value types of the K9: register words, lanes, register numbers, and the small closed
types that the operands of an instruction or of an event carry. -/

namespace Sys2Proof

/-- A scalar register, an address or a control register: 64 bits (R30, R176). -/
abbrev Word := BitVec 64
/-- One lane of a vector register, one accumulator element (R246, R229). -/
abbrev Lane := BitVec 32
/-- A lane mask, bit i for lane i (R246). -/
abbrev Mask := BitVec 128
abbrev Byte := BitVec 8
/-- The number of a `g`, `v` or accumulator register. -/
abbrev Reg := BitVec 5
/-- The number of a predicate. -/
abbrev PReg := BitVec 3

/-- The three engines of a core (R10). -/
inductive Engine where
  | copy | matrix | vector
deriving DecidableEq, Repr

/-- The links whose failure the manual describes (R97, R299, R343). -/
inductive LinkKind where
  | memory | lomnik | fabric
deriving DecidableEq, Repr

/-- The two streams of a code image, and the two sequencers that run them (R128). -/
inductive Stream where
  | a | x
deriving DecidableEq, Repr

/-- The token syllable: WAIT, SIG, ITAG, MOD (R31, R134). -/
structure Tok where
  wait : BitVec 8
  sig : BitVec 8
  itag : BitVec 8
  mod : BitVec 8
deriving DecidableEq, Repr

/-- What every header syllable carries beside its operands: the stop bit S and the token syllable, present
when T is 1 (R133). -/
structure Hdr where
  stop : Bool
  tok : Option Tok
deriving DecidableEq, Repr

/-- The nine atomics (R182). -/
inductive AtomKind where
  | add | fadd | min | max | and | or | xor | swap | cas
deriving DecidableEq, Repr

/-- One atomic as a synchronisation engine receives it: the operation, its size in bytes, `.u`, the physical
module-memory address, the operand (or expected value) and the new value of a compare-and-swap (R183, R351). -/
structure AtomOp where
  kind : AtomKind
  size : Nat
  uns : Bool
  pa : Nat
  y : Word
  z : Word
deriving DecidableEq, Repr

/-- The replies of a home to a remote atomic (R351). -/
inductive AtomReply where
  | held | old (v : Word) | unknown
deriving DecidableEq, Repr

/-- One entry of an exchange calendar (R221). -/
structure CalEntry where
  phase : Nat
  src : Nat
  dst : Nat
  bytes : Nat
  start : Nat
  length : Nat
deriving DecidableEq, Repr

/-- The descriptor of an in-switch reduction (R225). -/
structure FredDesc where
  rid : Nat
  fmt : BitVec 4
  src : Word
  len : Nat
  dst : Word
  dpkg : Nat
  wait : Nat
  status : Word
  members : List Nat
deriving DecidableEq, Repr

/-- One mirrored save image, with the job card and record states that travel with it (R354): the package and
queue it comes from, the job's SEQ, its sixteen card fields, the records completed, the record the image is
of, and the image as 8-byte words of the save area. -/
structure BuddyImg where
  pkg : Nat
  queue : Nat
  seq : Nat
  card : List Word
  completed : List Nat
  record : Nat
  image : List (Nat × Word)
deriving DecidableEq, Repr

end Sys2Proof
end

