-- ==== Sys2Proof/Machine/Float.lean ====
section
/-! DEFINITION. Exact floating-point values and the rounding helpers (R73 to R77): FP32 and BF16, `RNE32`, `RNE16`,
`SatInt`, minimum and maximum. -/

namespace Sys2Proof.Machine

/-- An exact value: NaN, a signed infinity, or (-1)^neg × m × 2^e, zeros signed. -/
inductive Fp where
  | nan
  | inf (neg : Bool)
  | fin (neg : Bool) (m : Nat) (e : Int)
deriving DecidableEq, Repr

/-- `2^k` for an integer `k`, as a natural number: 1 below 0. -/
def pow2 (k : Int) : Nat := 2 ^ k.toNat

/-- The value of a pattern of a format with `f` fraction bits and an 8-bit exponent of bias 127 (R73). -/
def fpOf (f : Nat) (v : Nat) : Fp :=
  let neg := v / 2 ^ (f + 8) % 2 == 1
  let ex := v / 2 ^ f % 256
  let fr := v % 2 ^ f
  if ex = 255 then if fr = 0 then .inf neg else .nan
  else if ex = 0 then .fin neg fr (-126 - f)
  else .fin neg (fr + 2 ^ f) ((ex : Int) - 127 - f)

def fp32 (v : Nat) : Fp := fpOf 23 v
def fp16 (v : Nat) : Fp := fpOf 7 v

/-- A rounded result: its pattern, whether rounding changed the value, and whether a finite value became an infinity. -/
structure Rounded where
  bits : Nat
  inexact : Bool := false
  over_ : Bool := false
deriving DecidableEq, Repr

/-- The pattern of an infinity, and the canonical NaN (R74). -/
def infBits (f : Nat) (neg : Bool) : Nat := (if neg then 2 ^ (f + 8) else 0) + 255 * 2 ^ f
def nanBits (f : Nat) : Nat := 255 * 2 ^ f + 2 ^ (f - 1)

/-- A magnitude `m × 2^e` rounded to a multiple of `2^q`, to nearest, ties to even, with whether it was inexact. -/
def roundAt (m : Nat) (e q : Int) : Nat × Bool :=
  if q ≤ e then (m * pow2 (e - q), false)
  else
    let d := pow2 (q - e)
    let t := m / d
    let r := m % d
    (if d < 2 * r ∨ (2 * r = d ∧ t % 2 = 1) then t + 1 else t, r != 0)

/-- `RNE` to a format with `f` fraction bits (R75). -/
def rne (f : Nat) : Fp → Rounded
  | .nan => ⟨nanBits f, false, false⟩
  | .inf neg => ⟨infBits f neg, false, false⟩
  | .fin neg m e =>
    let sg := if neg then 2 ^ (f + 8) else 0
    if m = 0 then ⟨sg, false, false⟩
    else
      let q := max ((m.log2 : Int) + e - f) (-126 - f)
      let r := roundAt m e q
      let up := decide (2 ^ (f + 1) ≤ r.1)
      let mant := if up then r.1 / 2 else r.1
      let q := if up then q + 1 else q
      if 127 < q + f then ⟨infBits f neg, true, true⟩
      else if mant < 2 ^ f then ⟨sg + mant, r.2, false⟩
      else ⟨sg + (q + f + 127).toNat * 2 ^ f + (mant - 2 ^ f), r.2, false⟩

def rne32 (x : Fp) : Nat := (rne 23 x).bits
def rne16 (x : Fp) : Nat := (rne 7 x).bits

/-! ### Exact arithmetic (IEEE 754 on special values, R81) -/

def Fp.isNan : Fp → Bool
  | .nan => true
  | _ => false

def Fp.isFin : Fp → Bool
  | .fin .. => true
  | _ => false

def Fp.neg : Fp → Fp
  | .nan => .nan
  | .inf s => .inf (!s)
  | .fin s m e => .fin (!s) m e

def Fp.add : Fp → Fp → Fp
  | .nan, _ => .nan
  | _, .nan => .nan
  | .inf s, .inf t => if s = t then .inf s else .nan
  | .inf s, .fin .. => .inf s
  | .fin .., .inf t => .inf t
  | .fin s m e, .fin t n k =>
    let q := min e k
    let a := m * pow2 (e - q)
    let b := n * pow2 (k - q)
    if s = t then .fin s (a + b) q
    else if a = b then .fin false 0 q
    else if b < a then .fin s (a - b) q
    else .fin t (b - a) q

def Fp.mul : Fp → Fp → Fp
  | .nan, _ => .nan
  | _, .nan => .nan
  | .inf s, .inf t => .inf (s != t)
  | .inf s, .fin t n _ => if n = 0 then .nan else .inf (s != t)
  | .fin s m _, .inf t => if m = 0 then .nan else .inf (s != t)
  | .fin s m e, .fin t n k => .fin (s != t) (m * n) (e + k)

/-- The value as a comparison key: `a < b` of two numbers that are not NaN; −0 and +0 are equal. -/
def Fp.lt : Fp → Fp → Bool
  | .inf s, .inf t => s && !t
  | .inf s, .fin .. => s
  | .fin .., .inf t => !t
  | .fin s m e, .fin t n k =>
    let q := min e k
    let a : Int := if s then -(m * pow2 (e - q) : Nat) else (m * pow2 (e - q) : Nat)
    let b : Int := if t then -(n * pow2 (k - q) : Nat) else (n * pow2 (k - q) : Nat)
    decide (a < b)
  | _, _ => false

/-- IEEE equality of two numbers; false for NaN. -/
def Fp.eq (a b : Fp) : Bool := !a.isNan && !b.isNan && !Fp.lt a b && !Fp.lt b a

/-- The sign of a value. -/
def Fp.sign : Fp → Bool
  | .nan => false
  | .inf s => s
  | .fin s _ _ => s

/-- Minimum and maximum: −0 below +0, NaN if either argument is (R85). -/
def Fp.min (a b : Fp) : Fp :=
  if a.isNan || b.isNan then .nan
  else if Fp.lt a b then a else if Fp.lt b a then b else if a.sign then a else b

def Fp.max (a b : Fp) : Fp :=
  if a.isNan || b.isNan then .nan
  else if Fp.lt a b then b else if Fp.lt b a then a else if a.sign then b else a

/-- A patterned sum and product with one rounding. -/
def fadd32 (a b : Nat) : Nat := rne32 (Fp.add (fp32 a) (fp32 b))
def fadd16 (a b : Nat) : Nat := rne16 (Fp.add (fp16 a) (fp16 b))

/-! ### Conversions to integers (R75, R76) -/

/-- `RNI`: an exact finite value rounded to an integer. -/
def rni (neg : Bool) (m : Nat) (e : Int) : Int :=
  let r := (roundAt m e 0).1
  if neg then -(r : Int) else r

/-- `SatInt` for the range `[lo, hi]`, with whether `Clamp` changed the value or a NaN became an integer. -/
def satInt (x : Fp) (lo hi : Int) : Int × Bool :=
  match x with
  | .nan => (0, true)
  | .inf neg => (if neg then lo else hi, true)
  | .fin neg m e =>
    let l : Fp := .fin (decide (lo < 0)) lo.natAbs 0
    let u : Fp := .fin false hi.natAbs 0
    if Fp.lt x l then (lo, true) else if Fp.lt u x then (hi, true) else (rni neg m e, false)

/-- An integer as an exact value. -/
def fpInt (n : Int) : Fp := .fin (decide (n < 0)) n.natAbs 0

/-- `Clamp` to `[lo, hi]`, with whether it changed the value. -/
def clampInt (n lo hi : Int) : Int × Bool :=
  if n < lo then (lo, true) else if hi < n then (hi, true) else (n, false)

/-- A two's-complement pattern of `w` bits as an integer, and back. -/
def sgn (w v : Nat) : Int := if v % 2 ^ w < 2 ^ (w - 1) then (v % 2 ^ w : Nat) else (v % 2 ^ w : Nat) - (2 ^ w : Nat)
def pat (w : Nat) (n : Int) : Nat := (n % (2 ^ w : Nat)).toNat

end Sys2Proof.Machine
end

