-- ==== Sys2Proof/Syntax.lean ====
section
/-! DEFINITION. The syntax of the K9: one constructor of Instr per row of spec/opcode_table.json. An instruction
carries its header (S and the token syllable) and its operand fields; an event (a step of another part of the
machine) carries what comes to it from outside. -/

namespace Sys2Proof

/-- The instructions and steps of the K9. -/
inductive Instr where
  /-- ADD, R152. -/
  | add (h : Hdr) (d : Reg) (a : Reg) (b : Reg)
  /-- SUB, R152. -/
  | sub (h : Hdr) (d : Reg) (a : Reg) (b : Reg)
  /-- MUL, R152. -/
  | mul (h : Hdr) (d : Reg) (a : Reg) (b : Reg)
  /-- MULH, R152. -/
  | mulh (h : Hdr) (d : Reg) (a : Reg) (b : Reg)
  /-- MULHU, R152. -/
  | mulhu (h : Hdr) (d : Reg) (a : Reg) (b : Reg)
  /-- DIV, R152. -/
  | div (h : Hdr) (d : Reg) (a : Reg) (b : Reg)
  /-- DIVU, R152. -/
  | divu (h : Hdr) (d : Reg) (a : Reg) (b : Reg)
  /-- REM, R152. -/
  | rem (h : Hdr) (d : Reg) (a : Reg) (b : Reg)
  /-- REMU, R152. -/
  | remu (h : Hdr) (d : Reg) (a : Reg) (b : Reg)
  /-- AND, R152. -/
  | and (h : Hdr) (d : Reg) (a : Reg) (b : Reg)
  /-- OR, R152. -/
  | or (h : Hdr) (d : Reg) (a : Reg) (b : Reg)
  /-- XOR, R152. -/
  | xor (h : Hdr) (d : Reg) (a : Reg) (b : Reg)
  /-- ANDN, R152. -/
  | andn (h : Hdr) (d : Reg) (a : Reg) (b : Reg)
  /-- SHL, R152. -/
  | shl (h : Hdr) (d : Reg) (a : Reg) (b : Reg)
  /-- SHR, R152. -/
  | shr (h : Hdr) (d : Reg) (a : Reg) (b : Reg)
  /-- SAR, R152. -/
  | sar (h : Hdr) (d : Reg) (a : Reg) (b : Reg)
  /-- ROT, R152. -/
  | rot (h : Hdr) (d : Reg) (a : Reg) (b : Reg)
  /-- MIN, R152. -/
  | min (h : Hdr) (d : Reg) (a : Reg) (b : Reg)
  /-- MAX, R152. -/
  | max (h : Hdr) (d : Reg) (a : Reg) (b : Reg)
  /-- MINU, R152. -/
  | minu (h : Hdr) (d : Reg) (a : Reg) (b : Reg)
  /-- MAXU, R152. -/
  | maxu (h : Hdr) (d : Reg) (a : Reg) (b : Reg)
  /-- SEL, R152. -/
  | sel (h : Hdr) (d : Reg) (a : Reg) (b : Reg) (p : PReg)
  /-- ADDI, R153. -/
  | addi (h : Hdr) (d : Reg) (a : Reg) (i : BitVec 11)
  /-- ANDI, R153. -/
  | andi (h : Hdr) (d : Reg) (a : Reg) (i : BitVec 11)
  /-- ORI, R153. -/
  | ori (h : Hdr) (d : Reg) (a : Reg) (i : BitVec 11)
  /-- XORI, R153. -/
  | xori (h : Hdr) (d : Reg) (a : Reg) (i : BitVec 11)
  /-- SHLI, R154. -/
  | shli (h : Hdr) (d : Reg) (a : Reg) (n : BitVec 6)
  /-- SHRI, R154. -/
  | shri (h : Hdr) (d : Reg) (a : Reg) (n : BitVec 6)
  /-- SARI, R154. -/
  | sari (h : Hdr) (d : Reg) (a : Reg) (n : BitVec 6)
  /-- ROTI, R154. -/
  | roti (h : Hdr) (d : Reg) (a : Reg) (n : BitVec 6)
  /-- CMPI, R155. -/
  | cmpi (h : Hdr) (p : PReg) (a : Reg) (c : BitVec 4) (i : BitVec 7)
  /-- CLZ, R156. -/
  | clz (h : Hdr) (d : Reg) (a : Reg)
  /-- POPC, R156. -/
  | popc (h : Hdr) (d : Reg) (a : Reg)
  /-- SEXT, R156. -/
  | sext (h : Hdr) (d : Reg) (a : Reg) (k : BitVec 5)
  /-- ZEXT, R156. -/
  | zext (h : Hdr) (d : Reg) (a : Reg) (k : BitVec 5)
  /-- BFX, R156. -/
  | bfx (h : Hdr) (d : Reg) (a : Reg) (b : Reg)
  /-- BFI, R156. -/
  | bfi (h : Hdr) (d : Reg) (a : Reg) (b : Reg)
  /-- CMP, R155. -/
  | cmp (h : Hdr) (p : PReg) (c : BitVec 6) (a : Reg) (b : Reg)
  /-- PAND, R157. -/
  | pand (h : Hdr) (d : PReg) (a : PReg) (b : PReg)
  /-- POR, R157. -/
  | por (h : Hdr) (d : PReg) (a : PReg) (b : PReg)
  /-- PXOR, R157. -/
  | pxor (h : Hdr) (d : PReg) (a : PReg) (b : PReg)
  /-- PNOT, R157. -/
  | pnot (h : Hdr) (d : PReg) (a : PReg)
  /-- PMOV, R157. -/
  | pmov (h : Hdr) (d : PReg) (a : PReg)
  /-- LI, R158. -/
  | li (h : Hdr) (d : Reg) (lo : BitVec 32) (hi : BitVec 32)
  /-- BR, R159. -/
  | br (h : Hdr) (p : PReg) (neg : Bool) (off : BitVec 13) (syl : BitVec 4)
  /-- BRL, R159. -/
  | brl (h : Hdr) (p : PReg) (neg : Bool) (off : BitVec 13) (syl : BitVec 4)
  /-- JMPR, R160. -/
  | jmpr (h : Hdr) (a : Reg)
  /-- CALL, R160. -/
  | call (h : Hdr) (d : Reg) (a : Reg)
  /-- RET, R160. -/
  | ret (h : Hdr) (a : Reg)
  /-- LOOP, R161. -/
  | loop (h : Hdr) (c : Reg) (off : BitVec 13) (syl : BitVec 4)
  /-- DQPUSH, R162. -/
  | dqpush (h : Hdr) (a : Reg)
  /-- DQPOP, R162. -/
  | dqpop (h : Hdr) (d : Reg)
  /-- BQPUSH, R162. -/
  | bqpush (h : Hdr) (p : PReg)
  /-- BRQ, R163. -/
  | brq (h : Hdr) (p : PReg) (neg : Bool) (off : BitVec 13) (syl : BitVec 4)
  /-- FORK, R164. -/
  | fork (h : Hdr) (off : BitVec 13) (syl : BitVec 4)
  /-- RDV, R165. -/
  | rdv (h : Hdr)
  /-- EXIT, R165. -/
  | exit (h : Hdr)
  /-- YIELD, R166. -/
  | yield (h : Hdr) (dropt : Bool) (keep : BitVec 32)
  /-- AWAIT, R167. -/
  | await (h : Hdr) (kind : BitVec 4) (reg : Reg)
  /-- NOP, R168. -/
  | nop (h : Hdr)
  /-- QCANCEL, R169. -/
  | qcancel (h : Hdr) (d : Reg) (tag : BitVec 8)
  /-- TRAP, R171. -/
  | trap (h : Hdr) (code : BitVec 16)
  /-- ERET, R172. -/
  | eret (h : Hdr)
  /-- BREAK, R173. -/
  | brk (h : Hdr) (code : BitVec 16)
  /-- SYSRD, R174. -/
  | sysrd (h : Hdr) (d : Reg) (idx : BitVec 12)
  /-- SYSWR, R174. -/
  | syswr (h : Hdr) (a : Reg) (idx : BitVec 12)
  /-- SHAPE, R175. -/
  | shape (h : Hdr) (d : Reg) (a : Reg) (acc : BitVec 6)
  /-- LD, R180. -/
  | ld (h : Hdr) (d : Reg) (b : Reg) (z : BitVec 3) (o : BitVec 8)
  /-- ST, R180. -/
  | st (h : Hdr) (d : Reg) (b : Reg) (z : BitVec 3) (o : BitVec 8)
  /-- AADD, R183. -/
  | aadd (h : Hdr) (d : Reg) (a : Reg) (b : Reg) (sz : BitVec 2) (ord : BitVec 2) (scope : BitVec 3)
  /-- AFADD, R94. -/
  | afadd (h : Hdr) (d : Reg) (a : Reg) (b : Reg) (sz : BitVec 2) (ord : BitVec 2) (scope : BitVec 3)
  /-- AMIN, R183. -/
  | amin (h : Hdr) (d : Reg) (a : Reg) (b : Reg) (sz : BitVec 2) (ord : BitVec 2) (scope : BitVec 3) (u : Bool)
  /-- AMAX, R183. -/
  | amax (h : Hdr) (d : Reg) (a : Reg) (b : Reg) (sz : BitVec 2) (ord : BitVec 2) (scope : BitVec 3) (u : Bool)
  /-- AAND, R183. -/
  | aand (h : Hdr) (d : Reg) (a : Reg) (b : Reg) (sz : BitVec 2) (ord : BitVec 2) (scope : BitVec 3)
  /-- AOR, R183. -/
  | aor (h : Hdr) (d : Reg) (a : Reg) (b : Reg) (sz : BitVec 2) (ord : BitVec 2) (scope : BitVec 3)
  /-- AXOR, R183. -/
  | axor (h : Hdr) (d : Reg) (a : Reg) (b : Reg) (sz : BitVec 2) (ord : BitVec 2) (scope : BitVec 3)
  /-- ASWP, R183. -/
  | aswp (h : Hdr) (d : Reg) (a : Reg) (b : Reg) (sz : BitVec 2) (ord : BitVec 2) (scope : BitVec 3)
  /-- ACAS, R183. -/
  | acas (h : Hdr) (d : Reg) (a : Reg) (b : Reg) (sz : BitVec 2) (ord : BitVec 2) (scope : BitVec 3) (c : Reg)
  /-- SLDF, R123. -/
  | sldf (h : Hdr) (d : Reg) (a : Reg) (scope : BitVec 3)
  /-- SLDW, R123. -/
  | sldw (h : Hdr) (d : Reg) (a : Reg) (scope : BitVec 3)
  /-- SSTE, R123. -/
  | sste (h : Hdr) (d : Reg) (a : Reg) (scope : BitVec 3)
  /-- SSTF, R123. -/
  | sstf (h : Hdr) (d : Reg) (a : Reg) (scope : BitVec 3)
  /-- SECLR, R123. -/
  | seclr (h : Hdr) (a : Reg)
  /-- FENCE, R113. -/
  | fence (h : Hdr) (scope : BitVec 3)
  /-- FENCER, R116. -/
  | fencer (h : Hdr) (scope : BitVec 3) (mask : BitVec 16)
  /-- DRAIN, R118. -/
  | drain (h : Hdr) (eng : BitVec 3)
  /-- RNGBIND, R190. -/
  | rngbind (h : Hdr) (n : BitVec 4) (a : Reg) (kind : Bool) (lreg : Bool) (len : BitVec 31)
  /-- RNGFREE, R191. -/
  | rngfree (h : Hdr) (n : BitVec 4)
  /-- GJOIN, R193. -/
  | gjoin (h : Hdr) (d : Reg) (a : Reg)
  /-- GLEAVE, R193. -/
  | gleave (h : Hdr) (d : Reg) (a : Reg)
  /-- GBAR, R127. -/
  | gbar (h : Hdr) (d : Reg) (a : Reg) (scope : BitVec 3)
  /-- RRES, R125. -/
  | rres (h : Hdr) (d : Reg) (a : Reg) (b : Reg)
  /-- RPUB, R125. -/
  | rpub (h : Hdr) (e : Reg) (a : Reg) (b : Reg)
  /-- RTAKE, R125. -/
  | rtake (h : Hdr) (d : Reg) (a : Reg) (p : PReg)
  /-- RFREE, R125. -/
  | rfree (h : Hdr) (e : Reg) (a : Reg)
  /-- XROUTE, R197. -/
  | xroute (h : Hdr) (d : Reg) (a : Reg) (b : Reg)
  /-- XINV, R199. -/
  | xinv (h : Hdr) (d : Reg) (a : Reg) (b : Reg) (force : Bool)
  /-- XPIN, R199. -/
  | xpin (h : Hdr) (d : Reg) (a : Reg) (b : Reg)
  /-- XUNPIN, R199. -/
  | xunpin (h : Hdr) (d : Reg) (a : Reg) (b : Reg)
  /-- FETCH, R207. -/
  | fetch (h : Hdr) (d : Reg) (t : Reg) (r : Reg) (n : BitVec 16) (c : Reg) (s : Reg) (cg : BitVec 3) (cgv : Bool) (disc : Bool) (rcmd : Bool) (u : Reg)
  /-- FETCH_T, R207. -/
  | fetchT (h : Hdr) (d : Reg) (t : Reg) (r : Reg) (n : BitVec 16) (c : Reg) (s : Reg) (cg : BitVec 3) (cgv : Bool) (disc : Bool) (rcmd : Bool) (u : Reg)
  /-- FETCH_MC, R207. -/
  | fetchMc (h : Hdr) (d : Reg) (t : Reg) (r : Reg) (n : BitVec 16) (c : Reg) (s : Reg) (cg : BitVec 3) (cgv : Bool) (disc : Bool) (rcmd : Bool) (u : Reg) (mc : BitVec 4)
  /-- FETCH_RF, R208. -/
  | fetchRf (h : Hdr) (d : Reg) (t : Reg) (r : Reg) (c : Reg) (cg : BitVec 3) (cgv : Bool) (u : Reg)
  /-- TALLOC, R209. -/
  | talloc (h : Hdr) (d : Reg) (t : Reg) (s : Reg) (disc : Bool) (n : BitVec 16)
  /-- TSTORE, R210. -/
  | tstore (h : Hdr) (t : Reg) (r : Reg) (c : Reg) (hd : Reg) (u : Reg) (cg : BitVec 3) (cgv : Bool)
  /-- TCON, R212. -/
  | tcon (h : Hdr) (hd : Reg)
  /-- TREL, R212. -/
  | trel (h : Hdr) (hd : Reg)
  /-- TADJ, R212. -/
  | tadj (h : Hdr) (hd : Reg) (b : Reg)
  /-- TSETTLE, R212. -/
  | tsettle (h : Hdr) (hd : Reg) (k : BitVec 3)
  /-- TQUERY, R212. -/
  | tquery (h : Hdr) (d : Reg) (hd : Reg) (sel : BitVec 3)
  /-- PARK, R47. -/
  | park (h : Hdr) (d : Reg) (a : Reg) (cg : BitVec 3) (cgv : Bool)
  /-- UNPARK, R48. -/
  | unpark (h : Hdr) (d : Reg) (a : Reg) (cg : BitVec 3) (cgv : Bool)
  /-- CGRP, R214. -/
  | cgrp (h : Hdr) (cg : BitVec 3)
  /-- CWAIT, R55. -/
  | cwait (h : Hdr) (cg : BitVec 3)
  /-- CCOPY, R215. -/
  | ccopy (h : Hdr) (d : Reg) (a : Reg) (n : Reg) (cg : BitVec 3) (cgv : Bool)
  /-- CGATH, R217. -/
  | cgath (h : Hdr) (d : Reg) (t : Reg) (l : Reg) (n : BitVec 16) (r : Reg) (m : Reg) (cg : BitVec 3) (cgv : Bool)
  /-- CSCAT, R217. -/
  | cscat (h : Hdr) (d : Reg) (l : Reg) (r : Reg) (m : Reg) (cg : BitVec 3) (cgv : Bool)
  /-- BTNEXT, R219. -/
  | btnext (h : Hdr) (d : Reg) (k : Reg) (t : Reg)
  /-- DPOST, R222. -/
  | dpost (h : Hdr) (a : Reg)
  /-- DCAL, R222. -/
  | dcal (h : Hdr) (d : Reg) (a : Reg)
  /-- DRUN, R223. -/
  | drun (h : Hdr) (cg : BitVec 3) (cgv : Bool) (a : Reg) (b : Reg)
  /-- DSTAT, R224. -/
  | dstat (h : Hdr) (d : Reg) (a : Reg) (sel : BitVec 3)
  /-- FRED, R225. -/
  | fred (h : Hdr) (a : Reg) (cg : BitVec 3) (cgv : Bool)
  /-- JPOST, R226. -/
  | jpost (h : Hdr) (d : Reg) (a : Reg) (b : Reg)
  /-- JWAIT, R226. -/
  | jwait (h : Hdr) (d : Reg) (a : Reg) (b : Reg)
  /-- MSET, R235. -/
  | mset (h : Hdr) (fa : BitVec 4) (fb : BitVec 4) (sr : BitVec 3)
  /-- MZERO, R236. -/
  | mzero (h : Hdr) (n : Reg) (disc : Bool)
  /-- MSTART, R232. -/
  | mstart (h : Hdr)
  /-- MMUL, R237. -/
  | mmul (h : Hdr) (a : Reg) (b : Reg) (n : Reg) (tb : Bool)
  /-- MMULC, R238. -/
  | mmulc (h : Hdr) (d : Reg) (e : Reg) (b : Reg) (tb : Bool)
  /-- MROT, R238. -/
  | mrot (h : Hdr) (d : Reg) (e : Reg)
  /-- MDRAIN, R240. -/
  | mdrain (h : Hdr) (hd : Reg) (n : Reg) (fmt : BitVec 4) (part : BitVec 2) (sigma : BitVec 32)
  /-- MTOPK, R241. -/
  | mtopk (h : Hdr) (n : Reg) (c : Reg) (k : BitVec 3) (clr : Bool)
  /-- MTOPKRD, R242. -/
  | mtopkrd (h : Hdr) (d : Reg) (i : Reg)
  /-- MTOPKRD_T, R242. -/
  | mtopkrdT (h : Hdr) (hd : Reg)
  /-- MKAT, R243. -/
  | mkat (h : Hdr) (seed : BitVec 16) (slo : BitVec 32) (shi : BitVec 32)
  /-- MACC, R244. -/
  | macc (h : Hdr) (d : Reg) (e : Reg) (add : Bool)
  /-- MLDACC, R244. -/
  | mldacc (h : Hdr) (n : Reg) (hd : Reg) (half : Bool)
  /-- MSTACC, R244. -/
  | mstacc (h : Hdr) (n : Reg) (hd : Reg) (half : Bool)
  /-- VADD, R252. -/
  | vadd (h : Hdr) (d : Reg) (a : Reg) (b : Reg) (k : BitVec 3)
  /-- VSUB, R252. -/
  | vsub (h : Hdr) (d : Reg) (a : Reg) (b : Reg) (k : BitVec 3)
  /-- VMUL, R252. -/
  | vmul (h : Hdr) (d : Reg) (a : Reg) (b : Reg) (k : BitVec 3)
  /-- VMIN, R252. -/
  | vmin (h : Hdr) (d : Reg) (a : Reg) (b : Reg) (k : BitVec 3)
  /-- VMAX, R252. -/
  | vmax (h : Hdr) (d : Reg) (a : Reg) (b : Reg) (k : BitVec 3)
  /-- VFMA, R252. -/
  | vfma (h : Hdr) (d : Reg) (a : Reg) (b : Reg) (k : BitVec 3)
  /-- VFMA_N, R252. -/
  | vfmaN (h : Hdr) (d : Reg) (a : Reg) (b : Reg) (k : BitVec 3)
  /-- VABS, R252. -/
  | vabs (h : Hdr) (d : Reg) (a : Reg) (k : BitVec 3)
  /-- VNEG, R252. -/
  | vneg (h : Hdr) (d : Reg) (a : Reg) (k : BitVec 3)
  /-- VRCP, R91. -/
  | vrcp (h : Hdr) (d : Reg) (a : Reg) (k : BitVec 3)
  /-- VRSQ, R91. -/
  | vrsq (h : Hdr) (d : Reg) (a : Reg) (k : BitVec 3)
  /-- VEXP2, R91. -/
  | vexp2 (h : Hdr) (d : Reg) (a : Reg) (k : BitVec 3)
  /-- VLOG2, R91. -/
  | vlog2 (h : Hdr) (d : Reg) (a : Reg) (k : BitVec 3)
  /-- VSCALE, R252. -/
  | vscale (h : Hdr) (d : Reg) (a : Reg) (b : Reg) (k : BitVec 3)
  /-- VCMP, R253. -/
  | vcmp (h : Hdr) (m : BitVec 3) (c : BitVec 3) (a : Reg) (b : Reg) (k : BitVec 3)
  /-- VSEL, R254. -/
  | vsel (h : Hdr) (d : Reg) (a : Reg) (b : Reg) (k : BitVec 3)
  /-- VIADD, R255. -/
  | viadd (h : Hdr) (d : Reg) (a : Reg) (b : Reg) (k : BitVec 3) (ew : BitVec 2) (u : Bool) (sat : Bool)
  /-- VISUB, R255. -/
  | visub (h : Hdr) (d : Reg) (a : Reg) (b : Reg) (k : BitVec 3) (ew : BitVec 2) (u : Bool) (sat : Bool)
  /-- VIMUL, R255. -/
  | vimul (h : Hdr) (d : Reg) (a : Reg) (b : Reg) (k : BitVec 3) (ew : BitVec 2) (u : Bool) (sat : Bool)
  /-- VSHL, R255. -/
  | vshl (h : Hdr) (d : Reg) (a : Reg) (b : Reg) (k : BitVec 3) (ew : BitVec 2) (u : Bool)
  /-- VSHR, R255. -/
  | vshr (h : Hdr) (d : Reg) (a : Reg) (b : Reg) (k : BitVec 3) (ew : BitVec 2) (u : Bool)
  /-- VSAR, R255. -/
  | vsar (h : Hdr) (d : Reg) (a : Reg) (b : Reg) (k : BitVec 3) (ew : BitVec 2) (u : Bool)
  /-- VAND, R255. -/
  | vand (h : Hdr) (d : Reg) (a : Reg) (b : Reg) (k : BitVec 3) (ew : BitVec 2) (u : Bool)
  /-- VOR, R255. -/
  | vor (h : Hdr) (d : Reg) (a : Reg) (b : Reg) (k : BitVec 3) (ew : BitVec 2) (u : Bool)
  /-- VXOR, R255. -/
  | vxor (h : Hdr) (d : Reg) (a : Reg) (b : Reg) (k : BitVec 3) (ew : BitVec 2) (u : Bool)
  /-- VADDW, R256. -/
  | vaddw (h : Hdr) (d : Reg) (a : Reg) (b : Reg) (k : BitVec 3) (w : BitVec 2)
  /-- VCVT, R257. -/
  | vcvt (h : Hdr) (d : Reg) (a : Reg) (k : BitVec 3) (fr : BitVec 4) (tgt : BitVec 4)
  /-- VSCAN, R259. -/
  | vscan (h : Hdr) (d : Reg) (a : Reg) (k : BitVec 3) (o : BitVec 3) (iw : BitVec 2) (u : Bool) (aw : Bool) (sat : Bool)
  /-- VRED, R260. -/
  | vred (h : Hdr) (d : Reg) (a : Reg) (k : BitVec 3) (o : BitVec 3) (iw : BitVec 2) (u : Bool) (aw : Bool) (sat : Bool)
  /-- VBCAST, R261. -/
  | vbcast (h : Hdr) (d : Reg) (a : Reg) (k : BitVec 3)
  /-- VBCAST_L, R261. -/
  | vbcastL (h : Hdr) (d : Reg) (a : Reg) (b : Reg) (k : BitVec 3)
  /-- VPERM, R261. -/
  | vperm (h : Hdr) (d : Reg) (a : Reg) (b : Reg) (k : BitVec 3)
  /-- VROTL, R261. -/
  | vrotl (h : Hdr) (d : Reg) (a : Reg) (b : Reg) (k : BitVec 3)
  /-- VIOTA, R261. -/
  | viota (h : Hdr) (d : Reg) (a : Reg) (k : BitVec 3)
  /-- VCOMPRESS, R262. -/
  | vcompress (h : Hdr) (d : Reg) (a : Reg) (k : BitVec 3)
  /-- VEXPAND, R262. -/
  | vexpand (h : Hdr) (d : Reg) (a : Reg) (k : BitVec 3)
  /-- VLD, R265. -/
  | vld (h : Hdr) (d : Reg) (hd : Reg) (c : Reg) (cons : Bool) (k : BitVec 3)
  /-- VLDX, R265. -/
  | vldx (h : Hdr) (d : Reg) (hd : Reg) (b : Reg) (cons : Bool) (k : BitVec 3)
  /-- VST, R266. -/
  | vst (h : Hdr) (a : Reg) (hd : Reg) (c : Reg) (k : BitVec 3)
  /-- VINS, R263. -/
  | vins (h : Hdr) (d : Reg) (a : Reg) (l : Reg)
  /-- VEXT, R263. -/
  | vext (h : Hdr) (d : Reg) (a : Reg) (l : Reg) (u : Bool)
  /-- VMPUSH, R267. -/
  | vmpush (h : Hdr) (k : BitVec 3)
  /-- VMINV, R267. -/
  | vminv (h : Hdr)
  /-- VMPOP, R267. -/
  | vmpop (h : Hdr)
  /-- BRMZ, R268. -/
  | brmz (h : Hdr) (neg : Bool) (off : BitVec 13) (syl : BitVec 4)
  /-- ERR_INJECT, R333. -/
  | errInject (core array bank : Nat) (addr : BitVec 40) (syndrome : BitVec 16)
  /-- REPLAY, R233. -/
  | replay (core slot array bank : Nat) (addr : BitVec 40) (syndrome : BitVec 16) (again : Bool)
  /-- COMMAND_START, R12. -/
  | commandStart (core : Nat) (e : Engine)
  /-- COMMAND_FINISH, R12. -/
  | commandFinish (core : Nat) (e : Engine)
  /-- LINE_LAND, R54. -/
  | lineLand (core : Nat)
  /-- LINE_PERFORMED, R339. -/
  | linePerformed (slot : Nat)
  /-- TILE_FREE, R46. -/
  | tileFree (core idx : Nat)
  /-- TASK_START, R14. -/
  | taskStart (slot : Nat)
  /-- CLOSING_END, R15. -/
  | closingEnd (slot : Nat)
  /-- FAULT_DELIVER, R170. -/
  | faultDeliver (slot : Nat)
  /-- DEAL_CHUNK, R20. -/
  | dealChunk (die : Nat)
  /-- ENTRY_READ, R18. -/
  | entryRead (q : Nat)
  /-- WRITE, R302. -/
  | write (q : Nat) (v : BitVec 64)
  /-- ENABLE, R302. -/
  | enable (q : Nat) (on : Bool)
  /-- RESET, R306. -/
  | reset (q : Nat)
  /-- CREAD, R304. -/
  | cread (q : Nat) (v : BitVec 64)
  /-- COMPLETION_RECORD, R304. -/
  | completionRecord (q : Nat)
  /-- REGISTER_WRITE, R301. -/
  | registerWrite (off : Nat) (v : BitVec 64)
  /-- APERTURE_ACCESS, R299. -/
  | apertureAccess (wr : Bool) (off : Nat) (v : BitVec 64)
  /-- LAUNCH_PACKET, R26. -/
  | launchPacket (q pkg ten : Nat) (entry : List (BitVec 64))
  /-- MAILBOX_XINV, R314. -/
  | mailboxXinv (a b : BitVec 64)
  /-- MAILBOX_XINV_FORCED, R314. -/
  | mailboxXinvForced (a b : BitVec 64)
  /-- MAILBOX_XPIN, R314. -/
  | mailboxXpin (a b : BitVec 64)
  /-- MAILBOX_XUNPIN, R314. -/
  | mailboxXunpin (a b : BitVec 64)
  /-- DESCINV, R314. -/
  | descinv (a b : BitVec 64)
  /-- HOLD, R314. -/
  | hold (a b : BitVec 64)
  /-- RELEASE, R314. -/
  | release (a b : BitVec 64)
  /-- PREEMPT, R323. -/
  | preempt (a b : BitVec 64)
  /-- PREEMPT_TIMEOUT, R324. -/
  | preemptTimeout (slot : Nat)
  /-- RESUME, R330. -/
  | resume (a b : BitVec 64)
  /-- RESTORE, R330. -/
  | restore (die : Nat)
  /-- PUSHSAVE, R322. -/
  | pushsave (a b : BitVec 64)
  /-- DROP, R322. -/
  | drop (a b : BitVec 64)
  /-- ADOPT, R355. -/
  | adopt (a b : BitVec 64)
  /-- QUARANTINE_RELEASE, R356. -/
  | quarantineRelease (a b : BitVec 64)
  /-- SIGN_REPORT, R358. -/
  | signReport (a b : BitVec 64)
  /-- MAILBOX_UNASSIGNED, R314. -/
  | mailboxUnassigned (op : BitVec 4) (a b : BitVec 64)
  /-- RETREQ, R336. -/
  | retreq (core array bank : Nat)
  /-- SHRINK, R66. -/
  | shrink (core : Nat)
  /-- RETIREMENT_DEADLINE, R69. -/
  | retirementDeadline (core : Nat)
  /-- RELOCATE, R66. -/
  | relocate (core : Nat)
  /-- RE_INTERLEAVE, R66. -/
  | reInterleave (core : Nat)
  /-- CLOSE, R66. -/
  | close (core : Nat)
  /-- BANK_RETIREMENT, R65. -/
  | bankRetirement (core : Nat)
  /-- SYNC_WORD_MOVE, R65. -/
  | syncWordMove (die : Nat)
  /-- HOME_MOVE, R315. -/
  | homeMove (asid : Nat) (va : BitVec 64)
  /-- LINK_FAILURE, R97. -/
  | linkFailure (k : LinkKind) (n : Nat)
  /-- LINK_TIMEOUT, R97. -/
  | linkTimeout (k : LinkKind) (n : Nat)
  /-- LINK_RECOVERY, R307. -/
  | linkRecovery (k : LinkKind) (n : Nat)
  /-- FLIT_RECEIVE, R342. -/
  | flitReceive (link : Nat) (bytes : List (BitVec 8))
  /-- RETRAIN_END, R343. -/
  | retrainEnd (link : Nat)
  /-- HEARTBEAT, R346. -/
  | heartbeat (pkg : Nat)
  /-- DECLARE_DEAD, R346. -/
  | declareDead (pkg : Nat)
  /-- STANDBY_TAKEOVER, R349. -/
  | standbyTakeover
  /-- POSTING, R347. -/
  | posting (member tenant tag accept : Nat) (demand : List Nat)
  /-- CALENDAR, R348. -/
  | calendar (tenant tag : Nat) (phases : Nat) (repost : Bool) (entries : List CalEntry)
  /-- CALENDAR_ACK, R348. -/
  | calendarAck (member tenant tag : Nat)
  /-- COMMIT, R348. -/
  | commit (tenant tag : Nat) (base : Nat)
  /-- DRUN_ENTRY, R223. -/
  | drunEntry (tenant tag e : Nat) (data : List (BitVec 8)) (ended : Bool)
  /-- FRED_CONTRIBUTION, R353. -/
  | fredContribution (member : Nat) (red : FredDesc) (data : List (BitVec 8))
  /-- REDUCTION_DEADLINE, R353. -/
  | reductionDeadline (rid : Nat)
  /-- REMOTE_ATOMIC, R351. -/
  | remoteAtomic (src num : Nat) (op : AtomOp)
  /-- ATOMIC_REPLY, R351. -/
  | atomicReply (num : Nat) (reply : AtomReply)
  /-- ATOMIC_RETRY, R351. -/
  | atomicRetry (num : Nat)
  /-- REPLY_CACHE_EXPIRY, R351. -/
  | replyCacheExpiry (src : Nat)
  /-- BUDDY_IMAGE, R354. -/
  | buddyImage (img : BuddyImg)
  /-- MARK_KEY, R357. -/
  | markKey (t i : Nat) (v : BitVec 64)
  /-- CLEAR, R357. -/
  | clear (t : Nat)
  /-- MODULE_RESET, R316. -/
  | moduleReset
  /-- BOOT_STAGE, R316. -/
  | bootStage (ok : Bool) (image : List (BitVec 8))
  /-- ILLEGAL, R147. -/
  | illegal (reason : BitVec 8) (addr : BitVec 64)
  /-- AWAIT_TIME, R167. -/
  | awaitTime (slot : Nat)
  /-- QUOTA, R336. -/
  | quota (core k : Nat) (tile : BitVec 10) (acc : BitVec 6)
  /-- KNOWN_ANSWER_SERVICE, R356. -/
  | knownAnswerService (core : Nat) (pass : Bool)
  /-- RETRAIN_AT_REQUEST, R343. -/
  | retrainAtRequest (link : Nat)
  /-- MEASUREMENT_EXTEND, R358. -/
  | measurementExtend (n : Nat) (m : List (BitVec 8))
deriving DecidableEq, Repr

end Sys2Proof
end

