-- ==== Sys2Proof/Machine/Encoding.lean ====
section
/-! DEFINITION. What the opcode map fixes for each instruction (R142: streams, executing agent, token permission;
R134, R179, R202: the MOD bits its entry assigns; LEN; R143: its class in a bundle; R147 check 13: privilege),
and the operand values its entry refuses at decode (R147 check 11). -/

namespace Sys2Proof

/-- Who executes an instruction (R142). -/
inductive Agent where
  | seq | copy | matrix | vector
deriving DecidableEq, Repr

/-- The classes of the bundle rules (R143). -/
inductive Cls where
  | scalar | matrix | vector | control | other
deriving DecidableEq, Repr

/-- A row of the opcode map (R142). -/
structure OpInfo where
  inA : Bool
  inX : Bool
  agent : Agent
  tok : Bool
  modMask : Nat
  len : Nat
  cls : Cls
  priv : Bool
deriving DecidableEq, Repr

/-- The row of an event: none of the fields of a row of R142 applies to it. -/
def OpInfo.event : OpInfo := ⟨false, false, .seq, false, 0, 0, .other, false⟩

/-- The opcode map, by constructor. -/
def Instr.info : Instr → OpInfo
  | .add .. | .sub .. | .mul .. | .mulh .. | .mulhu .. | .div ..
  | .divu .. | .rem .. | .remu .. | .and .. | .or .. | .xor ..
  | .andn .. | .shl .. | .shr .. | .sar .. | .rot .. | .min ..
  | .max .. | .minu .. | .maxu .. | .sel .. | .addi .. | .andi ..
  | .ori .. | .xori .. | .shli .. | .shri .. | .sari .. | .roti ..
  | .cmpi .. | .clz .. | .popc .. | .sext .. | .zext .. | .bfx ..
  | .bfi .. | .cmp .. | .pand .. | .por .. | .pxor .. | .pnot ..
  | .pmov .. | .dqpush .. | .dqpop .. | .bqpush .. => ⟨true, true, .seq, true, 0x0, 0, .scalar, false⟩
  | .li .. => ⟨true, true, .seq, false, 0x0, 2, .scalar, false⟩
  | .br .. | .brl .. | .jmpr .. | .call .. | .ret .. | .brq ..
  | .rdv .. | .qcancel .. | .brk .. => ⟨true, true, .seq, false, 0x0, 0, .control, false⟩
  | .loop .. => ⟨true, true, .seq, false, 0x0, 1, .control, false⟩
  | .fork .. | .yield .. => ⟨true, false, .seq, false, 0x0, 1, .control, false⟩
  | .exit .. | .trap .. | .eret .. => ⟨true, false, .seq, false, 0x0, 0, .control, false⟩
  | .await .. | .fence .. => ⟨true, false, .seq, true, 0x0, 0, .control, false⟩
  | .nop .. | .drain .. => ⟨true, true, .seq, true, 0x0, 0, .control, false⟩
  | .sysrd .. => ⟨true, true, .seq, true, 0x0, 1, .scalar, false⟩
  | .syswr .. | .aadd .. | .afadd .. | .amin .. | .amax .. | .aand ..
  | .aor .. | .axor .. | .aswp .. | .acas .. | .rngbind .. | .rngfree .. => ⟨true, false, .seq, true, 0x0, 1, .other, false⟩
  | .shape .. | .sldf .. | .sldw .. | .sste .. | .sstf .. | .seclr ..
  | .gjoin .. | .gleave .. | .gbar .. | .cgrp .. | .cwait .. | .jpost ..
  | .jwait .. => ⟨true, false, .seq, true, 0x0, 0, .other, false⟩
  | .ld .. | .st .. => ⟨true, false, .seq, true, 0x1f, 0, .other, false⟩
  | .fencer .. => ⟨true, false, .seq, true, 0x0, 1, .control, false⟩
  | .rres .. | .rpub .. | .rtake .. | .rfree .. | .xroute .. => ⟨true, false, .seq, true, 0x1e, 0, .other, false⟩
  | .xinv .. | .xpin .. | .xunpin .. => ⟨true, false, .seq, false, 0x0, 0, .other, true⟩
  | .fetch .. | .fetchT .. | .fetchMc .. | .fetchRf .. => ⟨true, false, .copy, true, 0xff, 2, .other, false⟩
  | .talloc .. => ⟨true, false, .copy, true, 0xf, 1, .other, false⟩
  | .tstore .. | .ccopy .. | .cscat .. => ⟨true, false, .copy, true, 0xf0, 1, .other, false⟩
  | .tcon .. | .trel .. | .tadj .. | .tsettle .. | .tquery .. | .btnext ..
  | .dpost .. | .dcal .. | .dstat .. => ⟨true, false, .copy, true, 0x0, 0, .other, false⟩
  | .park .. | .drun .. | .fred .. => ⟨true, false, .copy, true, 0xf0, 0, .other, false⟩
  | .unpark .. => ⟨true, false, .copy, true, 0xff, 0, .other, false⟩
  | .cgath .. => ⟨true, false, .copy, true, 0xff, 1, .other, false⟩
  | .mset .. | .mzero .. | .mstart .. | .mmul .. | .mmulc .. | .mrot ..
  | .mtopk .. | .mtopkrd .. | .mtopkrdT .. | .macc .. | .mldacc .. | .mstacc .. => ⟨false, true, .matrix, true, 0x0, 0, .matrix, false⟩
  | .mdrain .. => ⟨false, true, .matrix, true, 0x0, 1, .matrix, false⟩
  | .mkat .. => ⟨false, true, .matrix, true, 0x0, 2, .matrix, false⟩
  | .vadd .. | .vsub .. | .vmul .. | .vmin .. | .vmax .. | .vfma ..
  | .vfmaN .. | .vabs .. | .vneg .. | .vrcp .. | .vrsq .. | .vexp2 ..
  | .vlog2 .. | .vscale .. | .vcmp .. | .vsel .. | .vaddw .. | .vbcast ..
  | .vbcastL .. | .vperm .. | .vrotl .. | .viota .. | .vcompress .. | .vexpand ..
  | .vins .. | .vext .. | .vmpush .. | .vminv .. | .vmpop .. => ⟨false, true, .vector, true, 0x0, 0, .vector, false⟩
  | .viadd .. | .visub .. | .vimul .. | .vshl .. | .vshr .. | .vsar ..
  | .vand .. | .vor .. | .vxor .. | .vcvt .. | .vscan .. | .vred ..
  | .vld .. | .vldx .. | .vst .. => ⟨false, true, .vector, true, 0x0, 1, .vector, false⟩
  | .brmz .. => ⟨false, true, .seq, false, 0x0, 0, .control, false⟩
  | .errInject .. | .replay .. | .commandStart .. | .commandFinish .. | .lineLand .. | .linePerformed ..
  | .tileFree .. | .taskStart .. | .closingEnd .. | .faultDeliver .. | .dealChunk .. | .entryRead ..
  | .write .. | .enable .. | .reset .. | .cread .. | .completionRecord .. | .registerWrite ..
  | .apertureAccess .. | .launchPacket .. | .mailboxXinv .. | .mailboxXinvForced .. | .mailboxXpin .. | .mailboxXunpin ..
  | .descinv .. | .hold .. | .release .. | .preempt .. | .preemptTimeout .. | .resume ..
  | .restore .. | .pushsave .. | .drop .. | .adopt .. | .quarantineRelease .. | .signReport ..
  | .mailboxUnassigned .. | .retreq .. | .shrink .. | .retirementDeadline .. | .relocate .. | .reInterleave ..
  | .close .. | .bankRetirement .. | .syncWordMove .. | .homeMove .. | .linkFailure .. | .linkTimeout ..
  | .linkRecovery .. | .flitReceive .. | .retrainEnd .. | .heartbeat .. | .declareDead .. | .standbyTakeover
  | .posting .. | .calendar .. | .calendarAck .. | .commit .. | .drunEntry .. | .fredContribution ..
  | .reductionDeadline .. | .remoteAtomic .. | .atomicReply .. | .atomicRetry .. | .replyCacheExpiry .. | .buddyImage ..
  | .markKey .. | .clear .. | .moduleReset | .bootStage .. | .illegal .. | .awaitTime ..
  | .quota .. | .knownAnswerService .. | .retrainAtRequest .. | .measurementExtend .. => .event

/-- The token syllable of an instruction; an event has none. -/
def Instr.hdr? : Instr → Option Hdr
  | .add h .. | .sub h .. | .mul h .. | .mulh h .. | .mulhu h .. | .div h ..
  | .divu h .. | .rem h .. | .remu h .. | .and h .. | .or h .. | .xor h ..
  | .andn h .. | .shl h .. | .shr h .. | .sar h .. | .rot h .. | .min h ..
  | .max h .. | .minu h .. | .maxu h .. | .sel h .. | .addi h .. | .andi h ..
  | .ori h .. | .xori h .. | .shli h .. | .shri h .. | .sari h .. | .roti h ..
  | .cmpi h .. | .clz h .. | .popc h .. | .sext h .. | .zext h .. | .bfx h ..
  | .bfi h .. | .cmp h .. | .pand h .. | .por h .. | .pxor h .. | .pnot h ..
  | .pmov h .. | .li h .. | .br h .. | .brl h .. | .jmpr h .. | .call h ..
  | .ret h .. | .loop h .. | .dqpush h .. | .dqpop h .. | .bqpush h .. | .brq h ..
  | .fork h .. | .rdv h | .exit h | .yield h .. | .await h .. | .nop h
  | .qcancel h .. | .trap h .. | .eret h | .brk h .. | .sysrd h .. | .syswr h ..
  | .shape h .. | .ld h .. | .st h .. | .aadd h .. | .afadd h .. | .amin h ..
  | .amax h .. | .aand h .. | .aor h .. | .axor h .. | .aswp h .. | .acas h ..
  | .sldf h .. | .sldw h .. | .sste h .. | .sstf h .. | .seclr h .. | .fence h ..
  | .fencer h .. | .drain h .. | .rngbind h .. | .rngfree h .. | .gjoin h .. | .gleave h ..
  | .gbar h .. | .rres h .. | .rpub h .. | .rtake h .. | .rfree h .. | .xroute h ..
  | .xinv h .. | .xpin h .. | .xunpin h .. | .fetch h .. | .fetchT h .. | .fetchMc h ..
  | .fetchRf h .. | .talloc h .. | .tstore h .. | .tcon h .. | .trel h .. | .tadj h ..
  | .tsettle h .. | .tquery h .. | .park h .. | .unpark h .. | .cgrp h .. | .cwait h ..
  | .ccopy h .. | .cgath h .. | .cscat h .. | .btnext h .. | .dpost h .. | .dcal h ..
  | .drun h .. | .dstat h .. | .fred h .. | .jpost h .. | .jwait h .. | .mset h ..
  | .mzero h .. | .mstart h | .mmul h .. | .mmulc h .. | .mrot h .. | .mdrain h ..
  | .mtopk h .. | .mtopkrd h .. | .mtopkrdT h .. | .mkat h .. | .macc h .. | .mldacc h ..
  | .mstacc h .. | .vadd h .. | .vsub h .. | .vmul h .. | .vmin h .. | .vmax h ..
  | .vfma h .. | .vfmaN h .. | .vabs h .. | .vneg h .. | .vrcp h .. | .vrsq h ..
  | .vexp2 h .. | .vlog2 h .. | .vscale h .. | .vcmp h .. | .vsel h .. | .viadd h ..
  | .visub h .. | .vimul h .. | .vshl h .. | .vshr h .. | .vsar h .. | .vand h ..
  | .vor h .. | .vxor h .. | .vaddw h .. | .vcvt h .. | .vscan h .. | .vred h ..
  | .vbcast h .. | .vbcastL h .. | .vperm h .. | .vrotl h .. | .viota h .. | .vcompress h ..
  | .vexpand h .. | .vld h .. | .vldx h .. | .vst h .. | .vins h .. | .vext h ..
  | .vmpush h .. | .vminv h | .vmpop h | .brmz h .. => some h
  | .errInject .. | .replay .. | .commandStart .. | .commandFinish .. | .lineLand .. | .linePerformed ..
  | .tileFree .. | .taskStart .. | .closingEnd .. | .faultDeliver .. | .dealChunk .. | .entryRead ..
  | .write .. | .enable .. | .reset .. | .cread .. | .completionRecord .. | .registerWrite ..
  | .apertureAccess .. | .launchPacket .. | .mailboxXinv .. | .mailboxXinvForced .. | .mailboxXpin .. | .mailboxXunpin ..
  | .descinv .. | .hold .. | .release .. | .preempt .. | .preemptTimeout .. | .resume ..
  | .restore .. | .pushsave .. | .drop .. | .adopt .. | .quarantineRelease .. | .signReport ..
  | .mailboxUnassigned .. | .retreq .. | .shrink .. | .retirementDeadline .. | .relocate .. | .reInterleave ..
  | .close .. | .bankRetirement .. | .syncWordMove .. | .homeMove .. | .linkFailure .. | .linkTimeout ..
  | .linkRecovery .. | .flitReceive .. | .retrainEnd .. | .heartbeat .. | .declareDead .. | .standbyTakeover
  | .posting .. | .calendar .. | .calendarAck .. | .commit .. | .drunEntry .. | .fredContribution ..
  | .reductionDeadline .. | .remoteAtomic .. | .atomicReply .. | .atomicRetry .. | .replyCacheExpiry .. | .buddyImage ..
  | .markKey .. | .clear .. | .moduleReset | .bootStage .. | .illegal .. | .awaitTime ..
  | .quota .. | .knownAnswerService .. | .retrainAtRequest .. | .measurementExtend .. => none

/-- A scope code: 6 and 7 are reserved (R98). -/
def scopeOk (c : BitVec 3) : Bool := c.toNat < 6

/-- The SCOPE field of the MOD byte of `LD`, `ST`, rings and `XROUTE`, bits [4:2] (R179). -/
def modScopeLs (m : BitVec 8) : BitVec 3 := m.extractLsb' 2 3

/-- The SCOPE field of the MOD byte of a copy-engine instruction, bits [7:5] (R202). -/
def modScopeCp (m : BitVec 8) : BitVec 3 := m.extractLsb' 5 3

/-- The MOD byte of a header, zero when there is no token syllable. -/
def Hdr.mod (h : Hdr) : BitVec 8 :=
  match h.tok with
  | some t => t.mod
  | none => 0

/-- R179 for `LD` and `ST`: SCV without ORD is refused, and so are scopes 6 and 7. -/
def lsModOk (h : Hdr) : Bool :=
  !(h.mod.getLsbD 1 && !h.mod.getLsbD 0) && scopeOk (modScopeLs h.mod)

/-- R182: a size the entry lists (a mask of the values of SZ), a scope, and no scope without an order. -/
def atomOk (sizes : Nat) (sz ord : BitVec 2) (scope : BitVec 3) : Bool :=
  sizes.testBit sz.toNat && scopeOk scope && (ord.toNat != 0 || scope.toNat == 0)

/-- R239: the parts a drain format has. -/
def drainOk (fmt : BitVec 4) (part : BitVec 2) : Bool :=
  match fmt.toNat with
  | 1 | 4 | 5 | 7 => part.toNat < 2
  | 2 | 6 => part.toNat == 0
  | 3 => true
  | _ => false

/-- R83 and R235: the operand pairs and the semirings each admits. -/
def msetOk (fa fb : BitVec 4) (sr : BitVec 3) : Bool :=
  let isInt := (fa.toNat == 4 || fa.toNat == 5) && (fb.toNat == 4 || fb.toNat == 5)
  let bf := fa.toNat == 2 && fb.toNat == 2
  let cb := fa.toNat == 3 && fb.toNat == 3
  match sr.toNat with
  | 0 => isInt || bf || cb
  | 1 | 2 | 3 => bf
  | 4 => isInt
  | _ => false

/-- R257: the formats `VCVT` converts between. -/
def vcvtOk (fr tgt : BitVec 4) : Bool :=
  let ok := fun (f : BitVec 4) => f.toNat == 1 || f.toNat == 2 || (4 ≤ f.toNat && f.toNat ≤ 7)
  ok fr && ok tgt && fr != tgt

/-- R258: the extension syllable of `VSCAN` and `VRED`. -/
def vscanOk (o : BitVec 3) (iw : BitVec 2) (u aw sat : Bool) : Bool :=
  if o.toNat < 3 then iw == 0 && !u && !aw && !sat
  else iw.toNat < 3 && (!sat || o.toNat == 3)

/-- R190: which values of the range binding's fields are accepted at decode. -/
def rngbindOk (kind lreg : Bool) (len : BitVec 31) : Bool :=
  if kind then !lreg && len == 0 else if lreg then len.toNat < 32 else len.toNat != 0

/-- How many bits of a core mask are set. -/
def popCount4 (m : BitVec 4) : Nat :=
  (m.getLsbD 0).toNat + (m.getLsbD 1).toNat + (m.getLsbD 2).toNat + (m.getLsbD 3).toNat

/-- The values an entry gives its minor codes, where a field of the constructor carries the minor: `CMP`
(R155), `VSCAN` and `VRED` (R258). Refused with reason 0x08. -/
def Instr.minorOk : Instr → Bool
  | .cmp _ _ c _ _ => c.toNat < 10
  | .vscan _ _ _ _ o .. | .vred _ _ _ _ o .. => o.toNat < 6
  | .add .. | .sub .. | .mul .. | .mulh .. | .mulhu .. | .div .. | .divu ..
  | .rem .. | .remu .. | .and .. | .or .. | .xor .. | .andn .. | .shl ..
  | .shr .. | .sar .. | .rot .. | .min .. | .max .. | .minu .. | .maxu ..
  | .sel .. | .addi .. | .andi .. | .ori .. | .xori .. | .shli .. | .shri ..
  | .sari .. | .roti .. | .cmpi .. | .clz .. | .popc .. | .sext .. | .zext ..
  | .bfx .. | .bfi .. | .pand .. | .por .. | .pxor .. | .pnot .. | .pmov ..
  | .li .. | .br .. | .brl .. | .jmpr .. | .call .. | .ret .. | .loop ..
  | .dqpush .. | .dqpop .. | .bqpush .. | .brq .. | .fork .. | .rdv .. | .exit ..
  | .yield .. | .await .. | .nop .. | .qcancel .. | .trap .. | .eret .. | .brk ..
  | .sysrd .. | .syswr .. | .shape .. | .ld .. | .st .. | .aadd .. | .afadd ..
  | .amin .. | .amax .. | .aand .. | .aor .. | .axor .. | .aswp .. | .acas ..
  | .sldf .. | .sldw .. | .sste .. | .sstf .. | .seclr .. | .fence .. | .fencer ..
  | .drain .. | .rngbind .. | .rngfree .. | .gjoin .. | .gleave .. | .gbar .. | .rres ..
  | .rpub .. | .rtake .. | .rfree .. | .xroute .. | .xinv .. | .xpin .. | .xunpin ..
  | .fetch .. | .fetchT .. | .fetchMc .. | .fetchRf .. | .talloc .. | .tstore .. | .tcon ..
  | .trel .. | .tadj .. | .tsettle .. | .tquery .. | .park .. | .unpark .. | .cgrp ..
  | .cwait .. | .ccopy .. | .cgath .. | .cscat .. | .btnext .. | .dpost .. | .dcal ..
  | .drun .. | .dstat .. | .fred .. | .jpost .. | .jwait .. | .mset .. | .mzero ..
  | .mstart .. | .mmul .. | .mmulc .. | .mrot .. | .mdrain .. | .mtopk .. | .mtopkrd ..
  | .mtopkrdT .. | .mkat .. | .macc .. | .mldacc .. | .mstacc .. | .vadd .. | .vsub ..
  | .vmul .. | .vmin .. | .vmax .. | .vfma .. | .vfmaN .. | .vabs .. | .vneg ..
  | .vrcp .. | .vrsq .. | .vexp2 .. | .vlog2 .. | .vscale .. | .vcmp .. | .vsel ..
  | .viadd .. | .visub .. | .vimul .. | .vshl .. | .vshr .. | .vsar .. | .vand ..
  | .vor .. | .vxor .. | .vaddw .. | .vcvt .. | .vbcast .. | .vbcastL .. | .vperm ..
  | .vrotl .. | .viota .. | .vcompress .. | .vexpand .. | .vld .. | .vldx .. | .vst ..
  | .vins .. | .vext .. | .vmpush .. | .vminv .. | .vmpop .. | .brmz .. | .errInject ..
  | .replay .. | .commandStart .. | .commandFinish .. | .lineLand .. | .linePerformed .. | .tileFree .. | .taskStart ..
  | .closingEnd .. | .faultDeliver .. | .dealChunk .. | .entryRead .. | .write .. | .enable .. | .reset ..
  | .cread .. | .completionRecord .. | .registerWrite .. | .apertureAccess .. | .launchPacket .. | .mailboxXinv .. | .mailboxXinvForced ..
  | .mailboxXpin .. | .mailboxXunpin .. | .descinv .. | .hold .. | .release .. | .preempt .. | .preemptTimeout ..
  | .resume .. | .restore .. | .pushsave .. | .drop .. | .adopt .. | .quarantineRelease .. | .signReport ..
  | .mailboxUnassigned .. | .retreq .. | .shrink .. | .retirementDeadline .. | .relocate .. | .reInterleave .. | .close ..
  | .bankRetirement .. | .syncWordMove .. | .homeMove .. | .linkFailure .. | .linkTimeout .. | .linkRecovery .. | .flitReceive ..
  | .retrainEnd .. | .heartbeat .. | .declareDead .. | .standbyTakeover | .posting .. | .calendar .. | .calendarAck ..
  | .commit .. | .drunEntry .. | .fredContribution .. | .reductionDeadline .. | .remoteAtomic .. | .atomicReply .. | .atomicRetry ..
  | .replyCacheExpiry .. | .buddyImage .. | .markKey .. | .clear .. | .moduleReset | .bootStage .. | .illegal ..
  | .awaitTime .. | .quota .. | .knownAnswerService .. | .retrainAtRequest .. | .measurementExtend .. => true

/-- The links of a package: 32 memory links, one Lomnik link, 16 fabric links (R1). -/
def linkOk (k : LinkKind) (n : Nat) : Bool :=
  match k with
  | .memory => n < 32
  | .lomnik => n == 0
  | .fabric => n < 16

/-- The first of the checks that fails, as the syllable it looks at (3 stands for the token syllable). -/
def firstBad : List (Nat × Bool) → Option Nat
  | [] => none
  | (i, ok) :: r => if ok then firstBad r else some i

/-- The operand values an entry refuses at decode, with reason 0x09 (R147 check 11): the syllable of the first one;
for an event, the ranges its operands name parts of the package with. -/
def Instr.operandBad : Instr → Option Nat
  | .cmpi _ _ _ c _ => firstBad [(0, c.toNat < 10)]
  | .sext _ _ _ k => firstBad [(0, k.toNat < 3)]
  | .zext _ _ _ k => firstBad [(0, k.toNat < 3)]
  | .br _ _ _ _ y => firstBad [(0, y.toNat != 15)]
  | .brl _ _ _ _ y => firstBad [(0, y.toNat != 15)]
  | .loop _ _ _ y => firstBad [(1, y.toNat != 15)]
  | .brq _ _ _ _ y => firstBad [(0, y.toNat != 15)]
  | .fork _ _ y => firstBad [(1, y.toNat != 15)]
  | .await _ k r => firstBad [(0, k.toNat < 6 && (k.toNat != 1 || r.toNat < 8))]
  | .shape _ _ _ acc => firstBad [(0, acc.toNat < 33)]
  | .ld h _ _ z _ => firstBad [(0, z.toNat < 7), (3, lsModOk h)]
  | .st h _ _ z _ => firstBad [(0, z.toNat < 4), (3, lsModOk h)]
  | .aadd _ _ _ _ sz ord sc => firstBad [(1, atomOk 0b110 sz ord sc)]
  | .afadd _ _ _ _ sz ord sc => firstBad [(1, atomOk 0b011 sz ord sc)]
  | .amin _ _ _ _ sz ord sc _ => firstBad [(1, atomOk 0b110 sz ord sc)]
  | .amax _ _ _ _ sz ord sc _ => firstBad [(1, atomOk 0b110 sz ord sc)]
  | .aand _ _ _ _ sz ord sc => firstBad [(1, atomOk 0b110 sz ord sc)]
  | .aor _ _ _ _ sz ord sc => firstBad [(1, atomOk 0b110 sz ord sc)]
  | .axor _ _ _ _ sz ord sc => firstBad [(1, atomOk 0b110 sz ord sc)]
  | .aswp _ _ _ _ sz ord sc => firstBad [(1, atomOk 0b110 sz ord sc)]
  | .acas _ _ _ _ sz ord sc _ => firstBad [(1, atomOk 0b110 sz ord sc)]
  | .sldf _ _ _ sc => firstBad [(0, scopeOk sc)]
  | .sldw _ _ _ sc => firstBad [(0, scopeOk sc)]
  | .sste _ _ _ sc => firstBad [(0, scopeOk sc)]
  | .sstf _ _ _ sc => firstBad [(0, scopeOk sc)]
  | .fence _ sc => firstBad [(0, scopeOk sc)]
  | .fencer _ sc m => firstBad [(0, scopeOk sc), (1, m.toNat != 0)]
  | .rngbind _ n _ kd lr len => firstBad [(0, n.toNat != 15), (1, rngbindOk kd lr len)]
  | .rngfree _ n => firstBad [(0, n.toNat != 15)]
  | .gbar _ _ _ sc => firstBad [(0, scopeOk sc)]
  | .rres h .. => firstBad [(3, scopeOk (modScopeLs h.mod))]
  | .rpub h .. => firstBad [(3, scopeOk (modScopeLs h.mod))]
  | .rtake h .. => firstBad [(3, scopeOk (modScopeLs h.mod))]
  | .rfree h .. => firstBad [(3, scopeOk (modScopeLs h.mod))]
  | .xroute h _ a _ => firstBad [(0, a.toNat != 31), (3, scopeOk (modScopeLs h.mod))]
  | .fetch h _ _ _ n .. => firstBad [(1, n.toNat != 0), (3, scopeOk (modScopeCp h.mod))]
  | .fetchT h _ _ _ n .. => firstBad [(1, n.toNat != 0), (3, scopeOk (modScopeCp h.mod))]
  | .fetchMc h d _ _ n _ _ _ _ _ _ _ mc => firstBad [(1, n.toNat != 0), (2, mc.toNat != 0), (2, d.toNat + popCount4 mc ≤ 32), (3, scopeOk (modScopeCp h.mod))]
  | .fetchRf h .. => firstBad [(3, scopeOk (modScopeCp h.mod))]
  | .talloc _ _ _ _ _ n => firstBad [(1, n.toNat != 0)]
  | .tstore h .. => firstBad [(3, scopeOk (modScopeCp h.mod))]
  | .tsettle _ _ k => firstBad [(0, k.toNat < 5)]
  | .tquery _ _ _ s => firstBad [(0, s.toNat < 6)]
  | .park h .. => firstBad [(3, scopeOk (modScopeCp h.mod))]
  | .unpark h .. => firstBad [(3, scopeOk (modScopeCp h.mod))]
  | .ccopy h .. => firstBad [(3, scopeOk (modScopeCp h.mod))]
  | .cgath h _ _ _ _ _ m _ _ => firstBad [(1, m.toNat != 31), (3, scopeOk (modScopeCp h.mod))]
  | .cscat h _ _ _ m _ _ => firstBad [(1, m.toNat != 31), (3, scopeOk (modScopeCp h.mod))]
  | .btnext _ d k _ => firstBad [(0, d != k)]
  | .drun h .. => firstBad [(3, scopeOk (modScopeCp h.mod))]
  | .dstat _ _ _ s => firstBad [(0, s.toNat < 5)]
  | .fred h .. => firstBad [(3, scopeOk (modScopeCp h.mod))]
  | .mset _ fa fb sr => firstBad [(0, msetOk fa fb sr)]
  | .mmulc _ d e _ _ => firstBad [(0, d != e)]
  | .mrot _ d e => firstBad [(0, d != e)]
  | .mdrain _ _ _ fmt part _ => firstBad [(0, drainOk fmt part)]
  | .vcmp _ m _ _ _ _ => firstBad [(0, m.toNat != 0 && m.toNat != 7)]
  | .viadd _ _ _ _ _ ew _ _ => firstBad [(1, ew.toNat < 3)]
  | .visub _ _ _ _ _ ew _ _ => firstBad [(1, ew.toNat < 3)]
  | .vimul _ _ _ _ _ ew _ _ => firstBad [(1, ew.toNat < 3)]
  | .vshl _ _ _ _ _ ew _ => firstBad [(1, ew.toNat < 3)]
  | .vshr _ _ _ _ _ ew _ => firstBad [(1, ew.toNat < 3)]
  | .vsar _ _ _ _ _ ew _ => firstBad [(1, ew.toNat < 3)]
  | .vand _ _ _ _ _ ew _ => firstBad [(1, ew.toNat < 3)]
  | .vor _ _ _ _ _ ew _ => firstBad [(1, ew.toNat < 3)]
  | .vxor _ _ _ _ _ ew _ => firstBad [(1, ew.toNat < 3)]
  | .vcvt _ _ _ _ fr tgt => firstBad [(1, vcvtOk fr tgt)]
  | .vscan _ _ _ _ o iw u aw sat => firstBad [(1, vscanOk o iw u aw sat)]
  | .vred _ _ _ _ o iw u aw sat => firstBad [(1, vscanOk o iw u aw sat)]
  | .brmz _ _ _ y => firstBad [(0, y.toNat != 15)]
  | .errInject c .. => firstBad [(0, c < 192)]
  | .replay c s .. => firstBad [(0, c < 192 && s / 4 == c)]
  | .commandStart c _ => firstBad [(0, c < 192)]
  | .commandFinish c _ => firstBad [(0, c < 192)]
  | .lineLand c => firstBad [(0, c < 192)]
  | .linePerformed s => firstBad [(0, s < 768)]
  | .tileFree c i => firstBad [(0, c < 192 && i < 512)]
  | .taskStart s => firstBad [(0, s < 768)]
  | .closingEnd s => firstBad [(0, s < 768)]
  | .faultDeliver s => firstBad [(0, s < 768)]
  | .dealChunk d => firstBad [(0, d < 4)]
  | .entryRead q => firstBad [(0, q < 4096)]
  | .write q _ => firstBad [(0, q < 4096)]
  | .enable q _ => firstBad [(0, q < 4096)]
  | .reset q => firstBad [(0, q < 4096)]
  | .cread q _ => firstBad [(0, q < 4096)]
  | .completionRecord q => firstBad [(0, q < 4096)]
  | .registerWrite o _ => firstBad [(0, o < 0x1000000)]
  | .apertureAccess _ o _ => firstBad [(0, o % 8 == 0 && o < 0x1000000000)]
  | .launchPacket q p t _ => firstBad [(0, q < 4096 && p < 288 && t < 64)]
  | .preemptTimeout s => firstBad [(0, s < 768)]
  | .restore d => firstBad [(0, d < 4)]
  | .mailboxUnassigned o _ _ => firstBad [(0, o == 0 || o == 15)]
  | .retreq c .. => firstBad [(0, c < 192)]
  | .shrink c => firstBad [(0, c < 192)]
  | .retirementDeadline c => firstBad [(0, c < 192)]
  | .relocate c => firstBad [(0, c < 192)]
  | .reInterleave c => firstBad [(0, c < 192)]
  | .close c => firstBad [(0, c < 192)]
  | .bankRetirement c => firstBad [(0, c < 192)]
  | .syncWordMove d => firstBad [(0, d < 4)]
  | .homeMove a _ => firstBad [(0, a < 4096)]
  | .linkFailure k n => firstBad [(0, linkOk k n)]
  | .linkTimeout k n => firstBad [(0, linkOk k n)]
  | .linkRecovery k n => firstBad [(0, linkOk k n)]
  | .flitReceive l bs => firstBad [(0, l < 16 && bs.length == 256)]
  | .retrainEnd l => firstBad [(0, l < 16)]
  | .heartbeat p => firstBad [(0, p < 288)]
  | .declareDead p => firstBad [(0, p < 288)]
  | .posting m t g .. => firstBad [(0, m < 288 && t < 64 && g < 65536)]
  | .calendar t g .. => firstBad [(0, t < 64 && g < 65536)]
  | .calendarAck m t g => firstBad [(0, m < 288 && t < 64 && g < 65536)]
  | .commit t g _ => firstBad [(0, t < 64 && g < 65536)]
  | .drunEntry t g .. => firstBad [(0, t < 64 && g < 65536)]
  | .fredContribution m .. => firstBad [(0, m < 288)]
  | .remoteAtomic s .. => firstBad [(0, s < 288)]
  | .replyCacheExpiry s => firstBad [(0, s < 288)]
  | .markKey t i _ => firstBad [(0, t < 64 && i < 4)]
  | .clear t => firstBad [(0, t < 64)]
  | .awaitTime s => firstBad [(0, s < 768)]
  | .quota c k _ _ => firstBad [(0, c < 192 && k < 4)]
  | .knownAnswerService c _ => firstBad [(0, c < 192)]
  | .retrainAtRequest l => firstBad [(0, l < 16)]
  | .measurementExtend n _ => firstBad [(0, 3 ≤ n && n < 8)]
  | .add .. | .sub .. | .mul .. | .mulh .. | .mulhu .. | .div .. | .divu ..
  | .rem .. | .remu .. | .and .. | .or .. | .xor .. | .andn .. | .shl ..
  | .shr .. | .sar .. | .rot .. | .min .. | .max .. | .minu .. | .maxu ..
  | .sel .. | .addi .. | .andi .. | .ori .. | .xori .. | .shli .. | .shri ..
  | .sari .. | .roti .. | .clz .. | .popc .. | .bfx .. | .bfi .. | .cmp ..
  | .pand .. | .por .. | .pxor .. | .pnot .. | .pmov .. | .li .. | .jmpr ..
  | .call .. | .ret .. | .dqpush .. | .dqpop .. | .bqpush .. | .rdv .. | .exit ..
  | .yield .. | .nop .. | .qcancel .. | .trap .. | .eret .. | .brk .. | .sysrd ..
  | .syswr .. | .seclr .. | .drain .. | .gjoin .. | .gleave .. | .xinv .. | .xpin ..
  | .xunpin .. | .tcon .. | .trel .. | .tadj .. | .cgrp .. | .cwait .. | .dpost ..
  | .dcal .. | .jpost .. | .jwait .. | .mzero .. | .mstart .. | .mmul .. | .mtopk ..
  | .mtopkrd .. | .mtopkrdT .. | .mkat .. | .macc .. | .mldacc .. | .mstacc .. | .vadd ..
  | .vsub .. | .vmul .. | .vmin .. | .vmax .. | .vfma .. | .vfmaN .. | .vabs ..
  | .vneg .. | .vrcp .. | .vrsq .. | .vexp2 .. | .vlog2 .. | .vscale .. | .vsel ..
  | .vaddw .. | .vbcast .. | .vbcastL .. | .vperm .. | .vrotl .. | .viota .. | .vcompress ..
  | .vexpand .. | .vld .. | .vldx .. | .vst .. | .vins .. | .vext .. | .vmpush ..
  | .vminv .. | .vmpop .. | .mailboxXinv .. | .mailboxXinvForced .. | .mailboxXpin .. | .mailboxXunpin .. | .descinv ..
  | .hold .. | .release .. | .preempt .. | .resume .. | .pushsave .. | .drop .. | .adopt ..
  | .quarantineRelease .. | .signReport .. | .standbyTakeover | .reductionDeadline .. | .atomicReply .. | .atomicRetry .. | .buddyImage ..
  | .moduleReset | .bootStage .. | .illegal .. => none

/-- No operand value is refused at decode. -/
def Instr.operandOk (i : Instr) : Bool := i.operandBad.isNone

/-- Whether the token syllable of an instruction is allowed: T on an instruction that may carry none, or a MOD
bit its entry does not assign, is refused with reason 0x0A (R147 check 10). -/
def Instr.tokenOk (i : Instr) : Bool :=
  match i.hdr? with
  | none => true
  | some h =>
    match h.tok with
    | none => true
    | some t => i.info.tok && t.mod.toNat &&& i.info.modMask == t.mod.toNat

end Sys2Proof
end

