-- ==== Sys2Proof/WellFormed.lean ====
section
/-! DEFINITION. Which instructions are well formed: those that pass the checks 8, 10 and 11 of R147. (The other checks
look at the bits around an instruction and at the state; an instruction as syntax has already passed them.) -/

namespace Sys2Proof

/-- The instruction's minor code is assigned, every operand value is one its entry accepts at decode, and its token
syllable is one the opcode map and its entry allow. -/
def Instr.wf (i : Instr) : Bool := i.minorOk && i.operandOk && i.tokenOk

/-- Well-formed instructions. -/
abbrev WellFormed (i : Instr) : Prop := i.wf = true

end Sys2Proof
end

