-- ==== Sys2Proof/Decode.lean ====
section
/-! DEFINITION. The decoder, total on any syllables and naming why it refuses (R132 to R149), and the encoder, from the
same encoding tables. A syllable is a natural number below 2^32; the first one is the header. -/

namespace Sys2Proof

/-- Why a pattern is no instruction: the reason codes of R147, by name. -/
inductive BadCode where
  | length3 | pastLine | unallocated | wrongStream | badMinor | wrongLength | badToken | reserved
deriving DecidableEq, Repr

/-- The reason that `%fault.info` holds (R147). -/
def BadCode.reason : BadCode → BitVec 8
  | .pastLine => 0x04
  | .length3 => 0x05
  | .unallocated => 0x06
  | .wrongStream => 0x07
  | .badMinor => 0x08
  | .reserved => 0x09
  | .badToken => 0x0A
  | .wrongLength => 0x0B

/-- What the decoder answers: an instruction and its length in syllables, or a refusal and the syllable at fault. -/
inductive Decoded where
  | ok (i : Instr) (len : Nat)
  | bad (why : BadCode) (syl : Nat)
deriving DecidableEq, Repr

/-- Bits `[lo + k - 1 : lo]` of a syllable, `pow = 2^lo`. -/
def fld (w pow k : Nat) : BitVec k := BitVec.ofNat k (w / pow)

/-- Bit `lo` of a syllable. -/
def flag (w pow : Nat) : Bool := w / pow % 2 == 1

/-- A reserved field of `k` bits is zero. -/
def zero (w pow sz : Nat) : Bool := w / pow % sz == 0

/-- What the tables of an entry make of the syllables: an instruction with, for each syllable, whether its reserved bits
are zero; or an unassigned minor; or an unallocated major. -/
inductive Parsed where
  | ok (i : Instr) (z0 z1 z2 : Bool)
  | noMinor
  | noMajor
deriving DecidableEq, Repr

/-- Major 0x01: ADD, SUB, MUL, MULH, MULHU, DIV, DIVU, REM, REMU, AND, OR, XOR, ANDN, SHL, SHR, SAR, ROT, MIN, MAX, MINU, MAXU, SEL. -/
def parse01 (h : Nat) (hd : Hdr) : Parsed :=
  match h / 1 % 64 with
  | 0 => .ok (.add hd (fld h 0x10000 5) (fld h 0x800 5) (fld h 0x40 5)) true true true
  | 1 => .ok (.sub hd (fld h 0x10000 5) (fld h 0x800 5) (fld h 0x40 5)) true true true
  | 2 => .ok (.mul hd (fld h 0x10000 5) (fld h 0x800 5) (fld h 0x40 5)) true true true
  | 3 => .ok (.mulh hd (fld h 0x10000 5) (fld h 0x800 5) (fld h 0x40 5)) true true true
  | 4 => .ok (.mulhu hd (fld h 0x10000 5) (fld h 0x800 5) (fld h 0x40 5)) true true true
  | 5 => .ok (.div hd (fld h 0x10000 5) (fld h 0x800 5) (fld h 0x40 5)) true true true
  | 6 => .ok (.divu hd (fld h 0x10000 5) (fld h 0x800 5) (fld h 0x40 5)) true true true
  | 7 => .ok (.rem hd (fld h 0x10000 5) (fld h 0x800 5) (fld h 0x40 5)) true true true
  | 8 => .ok (.remu hd (fld h 0x10000 5) (fld h 0x800 5) (fld h 0x40 5)) true true true
  | 9 => .ok (.and hd (fld h 0x10000 5) (fld h 0x800 5) (fld h 0x40 5)) true true true
  | 10 => .ok (.or hd (fld h 0x10000 5) (fld h 0x800 5) (fld h 0x40 5)) true true true
  | 11 => .ok (.xor hd (fld h 0x10000 5) (fld h 0x800 5) (fld h 0x40 5)) true true true
  | 12 => .ok (.andn hd (fld h 0x10000 5) (fld h 0x800 5) (fld h 0x40 5)) true true true
  | 13 => .ok (.shl hd (fld h 0x10000 5) (fld h 0x800 5) (fld h 0x40 5)) true true true
  | 14 => .ok (.shr hd (fld h 0x10000 5) (fld h 0x800 5) (fld h 0x40 5)) true true true
  | 15 => .ok (.sar hd (fld h 0x10000 5) (fld h 0x800 5) (fld h 0x40 5)) true true true
  | 16 => .ok (.rot hd (fld h 0x10000 5) (fld h 0x800 5) (fld h 0x40 5)) true true true
  | 17 => .ok (.min hd (fld h 0x10000 5) (fld h 0x800 5) (fld h 0x40 5)) true true true
  | 18 => .ok (.max hd (fld h 0x10000 5) (fld h 0x800 5) (fld h 0x40 5)) true true true
  | 19 => .ok (.minu hd (fld h 0x10000 5) (fld h 0x800 5) (fld h 0x40 5)) true true true
  | 20 => .ok (.maxu hd (fld h 0x10000 5) (fld h 0x800 5) (fld h 0x40 5)) true true true
  | 24 | 25 | 26 | 27 | 28 | 29 | 30 | 31 => .ok (.sel hd (fld h 0x10000 5) (fld h 0x800 5) (fld h 0x40 5) (fld h 1 3)) true true true
  | _ => .noMinor

/-- Major 0x02: ADDI. -/
def parse02 (h : Nat) (hd : Hdr) : Parsed :=
  .ok (.addi hd (fld h 0x10000 5) (fld h 0x800 5) (fld h 1 11)) true true true

/-- Major 0x03: ANDI. -/
def parse03 (h : Nat) (hd : Hdr) : Parsed :=
  .ok (.andi hd (fld h 0x10000 5) (fld h 0x800 5) (fld h 1 11)) true true true

/-- Major 0x04: ORI. -/
def parse04 (h : Nat) (hd : Hdr) : Parsed :=
  .ok (.ori hd (fld h 0x10000 5) (fld h 0x800 5) (fld h 1 11)) true true true

/-- Major 0x05: XORI. -/
def parse05 (h : Nat) (hd : Hdr) : Parsed :=
  .ok (.xori hd (fld h 0x10000 5) (fld h 0x800 5) (fld h 1 11)) true true true

/-- Major 0x06: SHLI, SHRI, SARI, ROTI. -/
def parse06 (h : Nat) (hd : Hdr) : Parsed :=
  match h / 0x100 % 8 with
  | 0 => .ok (.shli hd (fld h 0x10000 5) (fld h 0x800 5) (fld h 1 6)) (zero h 0x40 0x4) true true
  | 1 => .ok (.shri hd (fld h 0x10000 5) (fld h 0x800 5) (fld h 1 6)) (zero h 0x40 0x4) true true
  | 2 => .ok (.sari hd (fld h 0x10000 5) (fld h 0x800 5) (fld h 1 6)) (zero h 0x40 0x4) true true
  | 3 => .ok (.roti hd (fld h 0x10000 5) (fld h 0x800 5) (fld h 1 6)) (zero h 0x40 0x4) true true
  | _ => .noMinor

/-- Major 0x07: CMPI. -/
def parse07 (h : Nat) (hd : Hdr) : Parsed :=
  .ok (.cmpi hd (fld h 0x10000 3) (fld h 0x800 5) (fld h 0x80 4) (fld h 1 7)) (zero h 0x80000 0x4) true true

/-- Major 0x08: CLZ, POPC, SEXT, ZEXT, BFX, BFI. -/
def parse08 (h : Nat) (hd : Hdr) : Parsed :=
  match h / 1 % 64 with
  | 0 => .ok (.clz hd (fld h 0x10000 5) (fld h 0x800 5)) (zero h 0x40 0x20) true true
  | 1 => .ok (.popc hd (fld h 0x10000 5) (fld h 0x800 5)) (zero h 0x40 0x20) true true
  | 2 => .ok (.sext hd (fld h 0x10000 5) (fld h 0x800 5) (fld h 0x40 5)) true true true
  | 3 => .ok (.zext hd (fld h 0x10000 5) (fld h 0x800 5) (fld h 0x40 5)) true true true
  | 4 => .ok (.bfx hd (fld h 0x10000 5) (fld h 0x800 5) (fld h 0x40 5)) true true true
  | 5 => .ok (.bfi hd (fld h 0x10000 5) (fld h 0x800 5) (fld h 0x40 5)) true true true
  | _ => .noMinor

/-- Major 0x09: CMP. -/
def parse09 (h : Nat) (hd : Hdr) : Parsed :=
  .ok (.cmp hd (fld h 0x10000 3) (fld h 1 6) (fld h 0x800 5) (fld h 0x40 5)) (zero h 0x80000 0x4) true true

/-- Major 0x0a: PAND, POR, PXOR, PNOT, PMOV. -/
def parse0A (h : Nat) (hd : Hdr) : Parsed :=
  match h / 1 % 64 with
  | 0 => .ok (.pand hd (fld h 0x10000 3) (fld h 0x800 3) (fld h 0x40 3)) (zero h 0x200 0x4 && zero h 0x4000 0x4 && zero h 0x80000 0x4) true true
  | 1 => .ok (.por hd (fld h 0x10000 3) (fld h 0x800 3) (fld h 0x40 3)) (zero h 0x200 0x4 && zero h 0x4000 0x4 && zero h 0x80000 0x4) true true
  | 2 => .ok (.pxor hd (fld h 0x10000 3) (fld h 0x800 3) (fld h 0x40 3)) (zero h 0x200 0x4 && zero h 0x4000 0x4 && zero h 0x80000 0x4) true true
  | 3 => .ok (.pnot hd (fld h 0x10000 3) (fld h 0x800 3)) (zero h 0x40 0x20 && zero h 0x4000 0x4 && zero h 0x80000 0x4) true true
  | 4 => .ok (.pmov hd (fld h 0x10000 3) (fld h 0x800 3)) (zero h 0x40 0x20 && zero h 0x4000 0x4 && zero h 0x80000 0x4) true true
  | _ => .noMinor

/-- Major 0x0b: LI. -/
def parse0B (h x y : Nat) (hd : Hdr) : Parsed :=
  match h / 0x10000 % 32 with
  | 0 => .ok (.li hd (fld h 0x800 5) (fld x 1 32) (fld y 1 32)) (zero h 1 0x800) true true
  | _ => .noMinor

/-- Major 0x10: BR. -/
def parse10 (h : Nat) (hd : Hdr) : Parsed :=
  .ok (.br hd (fld h 0x40000 3) (flag h 0x20000) (fld h 0x10 13) (fld h 1 4)) true true true

/-- Major 0x11: BRL. -/
def parse11 (h : Nat) (hd : Hdr) : Parsed :=
  .ok (.brl hd (fld h 0x40000 3) (flag h 0x20000) (fld h 0x10 13) (fld h 1 4)) true true true

/-- Major 0x12: JMPR, CALL, RET. -/
def parse12 (h : Nat) (hd : Hdr) : Parsed :=
  match h / 1 % 64 with
  | 0 => .ok (.jmpr hd (fld h 0x800 5)) (zero h 0x40 0x20 && zero h 0x10000 0x20) true true
  | 1 => .ok (.call hd (fld h 0x10000 5) (fld h 0x800 5)) (zero h 0x40 0x20) true true
  | 2 => .ok (.ret hd (fld h 0x800 5)) (zero h 0x40 0x20 && zero h 0x10000 0x20) true true
  | _ => .noMinor

/-- Major 0x13: LOOP. -/
def parse13 (h x : Nat) (hd : Hdr) : Parsed :=
  match h / 0x10000 % 32 with
  | 0 => .ok (.loop hd (fld h 0x800 5) (fld x 0x10 13) (fld x 1 4)) (zero h 1 0x800) (zero x 0x20000 0x8000) true
  | _ => .noMinor

/-- Major 0x14: DQPUSH, DQPOP, BQPUSH. -/
def parse14 (h : Nat) (hd : Hdr) : Parsed :=
  match h / 1 % 64 with
  | 0 => .ok (.dqpush hd (fld h 0x800 5)) (zero h 0x40 0x20 && zero h 0x10000 0x20) true true
  | 1 => .ok (.dqpop hd (fld h 0x10000 5)) (zero h 0x40 0x400) true true
  | 2 => .ok (.bqpush hd (fld h 0x800 3)) (zero h 0x40 0x20 && zero h 0x4000 0x80) true true
  | _ => .noMinor

/-- Major 0x15: BRQ. -/
def parse15 (h : Nat) (hd : Hdr) : Parsed :=
  .ok (.brq hd (fld h 0x40000 3) (flag h 0x20000) (fld h 0x10 13) (fld h 1 4)) true true true

/-- Major 0x16: FORK, RDV, EXIT, YIELD, AWAIT, NOP, QCANCEL. -/
def parse16 (h x : Nat) (hd : Hdr) : Parsed :=
  match h / 0x10000 % 32 with
  | 0 => .ok (.fork hd (fld x 0x10 13) (fld x 1 4)) (zero h 1 0x10000) (zero x 0x20000 0x8000) true
  | 1 => .ok (.rdv hd) (zero h 1 0x10000) true true
  | 2 => .ok (.exit hd) (zero h 1 0x10000) true true
  | 3 => .ok (.yield hd (flag h 0x1) (fld x 1 32)) (zero h 0x2 0x8000) true true
  | 4 => .ok (.await hd (fld h 0x1000 4) (fld h 1 5)) (zero h 0x20 0x80) true true
  | 5 => .ok (.nop hd) (zero h 1 0x10000) true true
  | 6 => .ok (.qcancel hd (fld h 0x800 5) (fld h 1 8)) (zero h 0x100 0x8) true true
  | _ => .noMinor

/-- Major 0x18: TRAP, ERET, BREAK. -/
def parse18 (h : Nat) (hd : Hdr) : Parsed :=
  match h / 0x10000 % 32 with
  | 0 => .ok (.trap hd (fld h 1 16)) true true true
  | 1 => .ok (.eret hd) (zero h 1 0x10000) true true
  | 2 => .ok (.brk hd (fld h 1 16)) true true true
  | _ => .noMinor

/-- Major 0x19: SYSRD. -/
def parse19 (h x : Nat) (hd : Hdr) : Parsed :=
  match h / 0x10000 % 32 with
  | 0 => .ok (.sysrd hd (fld h 0x800 5) (fld x 1 12)) (zero h 1 0x800) (zero x 0x1000 0x100000) true
  | _ => .noMinor

/-- Major 0x1a: SYSWR. -/
def parse1A (h x : Nat) (hd : Hdr) : Parsed :=
  match h / 0x10000 % 32 with
  | 0 => .ok (.syswr hd (fld h 0x800 5) (fld x 1 12)) (zero h 1 0x800) (zero x 0x1000 0x100000) true
  | _ => .noMinor

/-- Major 0x1b: SHAPE. -/
def parse1B (h : Nat) (hd : Hdr) : Parsed :=
  match h / 0x10000 % 32 with
  | 0 => .ok (.shape hd (fld h 0x800 5) (fld h 0x40 5) (fld h 1 6)) true true true
  | _ => .noMinor

/-- Major 0x20: LD. -/
def parse20 (h : Nat) (hd : Hdr) : Parsed :=
  .ok (.ld hd (fld h 0x10000 5) (fld h 0x800 5) (fld h 0x100 3) (fld h 1 8)) true true true

/-- Major 0x21: ST. -/
def parse21 (h : Nat) (hd : Hdr) : Parsed :=
  .ok (.st hd (fld h 0x10000 5) (fld h 0x800 5) (fld h 0x100 3) (fld h 1 8)) true true true

/-- Major 0x22: AADD, AFADD, AMIN, AMAX, AAND, AOR, AXOR, ASWP, ACAS. -/
def parse22 (h x : Nat) (hd : Hdr) : Parsed :=
  match h / 0x10000 % 32 with
  | 0 => .ok (.aadd hd (fld h 0x800 5) (fld h 0x40 5) (fld h 0x2 5) (fld x 0x20 2) (fld x 0x80 2) (fld x 0x200 3)) (zero h 1 0x2) (zero x 1 0x20 && zero x 0x1000 0x100000) true
  | 1 => .ok (.afadd hd (fld h 0x800 5) (fld h 0x40 5) (fld h 0x2 5) (fld x 0x20 2) (fld x 0x80 2) (fld x 0x200 3)) (zero h 1 0x2) (zero x 1 0x20 && zero x 0x1000 0x100000) true
  | 2 => .ok (.amin hd (fld h 0x800 5) (fld h 0x40 5) (fld h 0x2 5) (fld x 0x20 2) (fld x 0x80 2) (fld x 0x200 3) (flag x 0x1000)) (zero h 1 0x2) (zero x 1 0x20 && zero x 0x2000 0x80000) true
  | 3 => .ok (.amax hd (fld h 0x800 5) (fld h 0x40 5) (fld h 0x2 5) (fld x 0x20 2) (fld x 0x80 2) (fld x 0x200 3) (flag x 0x1000)) (zero h 1 0x2) (zero x 1 0x20 && zero x 0x2000 0x80000) true
  | 4 => .ok (.aand hd (fld h 0x800 5) (fld h 0x40 5) (fld h 0x2 5) (fld x 0x20 2) (fld x 0x80 2) (fld x 0x200 3)) (zero h 1 0x2) (zero x 1 0x20 && zero x 0x1000 0x100000) true
  | 5 => .ok (.aor hd (fld h 0x800 5) (fld h 0x40 5) (fld h 0x2 5) (fld x 0x20 2) (fld x 0x80 2) (fld x 0x200 3)) (zero h 1 0x2) (zero x 1 0x20 && zero x 0x1000 0x100000) true
  | 6 => .ok (.axor hd (fld h 0x800 5) (fld h 0x40 5) (fld h 0x2 5) (fld x 0x20 2) (fld x 0x80 2) (fld x 0x200 3)) (zero h 1 0x2) (zero x 1 0x20 && zero x 0x1000 0x100000) true
  | 7 => .ok (.aswp hd (fld h 0x800 5) (fld h 0x40 5) (fld h 0x2 5) (fld x 0x20 2) (fld x 0x80 2) (fld x 0x200 3)) (zero h 1 0x2) (zero x 1 0x20 && zero x 0x1000 0x100000) true
  | 8 => .ok (.acas hd (fld h 0x800 5) (fld h 0x40 5) (fld h 0x2 5) (fld x 0x20 2) (fld x 0x80 2) (fld x 0x200 3) (fld x 1 5)) (zero h 1 0x2) (zero x 0x1000 0x100000) true
  | _ => .noMinor

/-- Major 0x23: SLDF, SLDW, SSTE, SSTF, SECLR. -/
def parse23 (h : Nat) (hd : Hdr) : Parsed :=
  match h / 0x10000 % 32 with
  | 0 => .ok (.sldf hd (fld h 0x800 5) (fld h 0x40 5) (fld h 0x8 3)) (zero h 1 0x8) true true
  | 1 => .ok (.sldw hd (fld h 0x800 5) (fld h 0x40 5) (fld h 0x8 3)) (zero h 1 0x8) true true
  | 2 => .ok (.sste hd (fld h 0x800 5) (fld h 0x40 5) (fld h 0x8 3)) (zero h 1 0x8) true true
  | 3 => .ok (.sstf hd (fld h 0x800 5) (fld h 0x40 5) (fld h 0x8 3)) (zero h 1 0x8) true true
  | 4 => .ok (.seclr hd (fld h 0x40 5)) (zero h 1 0x40 && zero h 0x800 0x20) true true
  | _ => .noMinor

/-- Major 0x24: FENCE, FENCER, DRAIN. -/
def parse24 (h x : Nat) (hd : Hdr) : Parsed :=
  match h / 0x10000 % 32 with
  | 0 => .ok (.fence hd (fld h 0x2000 3)) (zero h 1 0x2000) true true
  | 1 => .ok (.fencer hd (fld h 0x2000 3) (fld x 1 16)) (zero h 1 0x2000) (zero x 0x10000 0x10000) true
  | 2 => .ok (.drain hd (fld h 1 3)) (zero h 0x8 0x2000) true true
  | _ => .noMinor

/-- Major 0x25: RNGBIND, RNGFREE. -/
def parse25 (h x : Nat) (hd : Hdr) : Parsed :=
  match h / 0x10000 % 32 with
  | 0 => .ok (.rngbind hd (fld h 0x1000 4) (fld h 0x80 5) (flag h 0x40) (flag x 0x80000000) (fld x 1 31)) (zero h 1 0x40) true true
  | 1 => .ok (.rngfree hd (fld h 0x1000 4)) (zero h 1 0x1000) (zero x 1 0x100000000) true
  | _ => .noMinor

/-- Major 0x26: GJOIN, GLEAVE, GBAR. -/
def parse26 (h : Nat) (hd : Hdr) : Parsed :=
  match h / 0x10000 % 32 with
  | 0 => .ok (.gjoin hd (fld h 0x800 5) (fld h 0x40 5)) (zero h 1 0x40) true true
  | 1 => .ok (.gleave hd (fld h 0x800 5) (fld h 0x40 5)) (zero h 1 0x40) true true
  | 2 => .ok (.gbar hd (fld h 0x800 5) (fld h 0x40 5) (fld h 0x8 3)) (zero h 1 0x8) true true
  | _ => .noMinor

/-- Major 0x27: RRES, RPUB, RTAKE, RFREE. -/
def parse27 (h : Nat) (hd : Hdr) : Parsed :=
  match h / 0x10000 % 32 with
  | 0 => .ok (.rres hd (fld h 0x800 5) (fld h 0x40 5) (fld h 0x2 5)) (zero h 1 0x2) true true
  | 1 => .ok (.rpub hd (fld h 0x800 5) (fld h 0x40 5) (fld h 0x2 5)) (zero h 1 0x2) true true
  | 2 => .ok (.rtake hd (fld h 0x800 5) (fld h 0x40 5) (fld h 0x2 3)) (zero h 1 0x2 && zero h 0x10 0x4) true true
  | 3 => .ok (.rfree hd (fld h 0x800 5) (fld h 0x40 5)) (zero h 1 0x40) true true
  | _ => .noMinor

/-- Major 0x28: XROUTE. -/
def parse28 (h : Nat) (hd : Hdr) : Parsed :=
  match h / 0x10000 % 32 with
  | 0 => .ok (.xroute hd (fld h 0x800 5) (fld h 0x40 5) (fld h 0x2 5)) (zero h 1 0x2) true true
  | _ => .noMinor

/-- Major 0x29: XINV, XPIN, XUNPIN. -/
def parse29 (h : Nat) (hd : Hdr) : Parsed :=
  match h / 0x10000 % 32 with
  | 0 => .ok (.xinv hd (fld h 0x800 5) (fld h 0x40 5) (fld h 0x2 5) (flag h 0x1)) true true true
  | 1 => .ok (.xpin hd (fld h 0x800 5) (fld h 0x40 5) (fld h 0x2 5)) (zero h 1 0x2) true true
  | 2 => .ok (.xunpin hd (fld h 0x800 5) (fld h 0x40 5) (fld h 0x2 5)) (zero h 1 0x2) true true
  | _ => .noMinor

/-- Major 0x30: FETCH, FETCH_T, FETCH_MC, FETCH_RF. -/
def parse30 (h x y : Nat) (hd : Hdr) : Parsed :=
  match h / 0x10000 % 32 with
  | 0 => .ok (.fetch hd (fld h 0x800 5) (fld h 0x40 5) (fld h 0x2 5) (fld x 0x10000 16) (fld x 0x800 5) (fld x 0x40 5) (fld x 0x8 3) (flag x 0x4) (flag x 0x2) (flag x 0x1) (fld y 1 5)) (zero h 1 0x2) true (zero y 0x20 0x8000000)
  | 1 => .ok (.fetchT hd (fld h 0x800 5) (fld h 0x40 5) (fld h 0x2 5) (fld x 0x10000 16) (fld x 0x800 5) (fld x 0x40 5) (fld x 0x8 3) (flag x 0x4) (flag x 0x2) (flag x 0x1) (fld y 1 5)) (zero h 1 0x2) true (zero y 0x20 0x8000000)
  | 2 => .ok (.fetchMc hd (fld h 0x800 5) (fld h 0x40 5) (fld h 0x2 5) (fld x 0x10000 16) (fld x 0x800 5) (fld x 0x40 5) (fld x 0x8 3) (flag x 0x4) (flag x 0x2) (flag x 0x1) (fld y 1 5) (fld y 0x20 4)) (zero h 1 0x2) true (zero y 0x200 0x800000)
  | 3 => .ok (.fetchRf hd (fld h 0x800 5) (fld h 0x40 5) (fld h 0x2 5) (fld x 0x800 5) (fld x 0x8 3) (flag x 0x4) (fld y 1 5)) (zero h 1 0x2) (zero x 1 0x4 && zero x 0x40 0x20 && zero x 0x10000 0x10000) (zero y 0x20 0x8000000)
  | _ => .noMinor

/-- Major 0x31: TALLOC. -/
def parse31 (h x : Nat) (hd : Hdr) : Parsed :=
  match h / 0x10000 % 32 with
  | 0 => .ok (.talloc hd (fld h 0x800 5) (fld h 0x40 5) (fld h 0x2 5) (flag h 0x1) (fld x 1 16)) true (zero x 0x10000 0x10000) true
  | _ => .noMinor

/-- Major 0x32: TSTORE. -/
def parse32 (h x : Nat) (hd : Hdr) : Parsed :=
  match h / 0x10000 % 32 with
  | 0 => .ok (.tstore hd (fld h 0x800 5) (fld h 0x40 5) (fld h 0x2 5) (fld x 1 5) (fld x 0x20 5) (fld x 0x400 3) (flag x 0x2000)) (zero h 1 0x2) (zero x 0x4000 0x40000) true
  | _ => .noMinor

/-- Major 0x33: TCON, TREL, TADJ, TSETTLE, TQUERY. -/
def parse33 (h : Nat) (hd : Hdr) : Parsed :=
  match h / 0x10000 % 32 with
  | 0 => .ok (.tcon hd (fld h 0x40 5)) (zero h 1 0x40 && zero h 0x800 0x20) true true
  | 1 => .ok (.trel hd (fld h 0x40 5)) (zero h 1 0x40 && zero h 0x800 0x20) true true
  | 2 => .ok (.tadj hd (fld h 0x40 5) (fld h 0x2 5)) (zero h 1 0x2 && zero h 0x800 0x20) true true
  | 3 => .ok (.tsettle hd (fld h 0x40 5) (fld h 0x2 3)) (zero h 1 0x2 && zero h 0x10 0x4 && zero h 0x800 0x20) true true
  | 4 => .ok (.tquery hd (fld h 0x800 5) (fld h 0x40 5) (fld h 0x2 3)) (zero h 1 0x2 && zero h 0x10 0x4) true true
  | _ => .noMinor

/-- Major 0x34: PARK, UNPARK. -/
def parse34 (h : Nat) (hd : Hdr) : Parsed :=
  match h / 0x10000 % 32 with
  | 0 => .ok (.park hd (fld h 0x800 5) (fld h 0x40 5) (fld h 0x8 3) (flag h 0x4)) (zero h 1 0x4) true true
  | 1 => .ok (.unpark hd (fld h 0x800 5) (fld h 0x40 5) (fld h 0x8 3) (flag h 0x4)) (zero h 1 0x4) true true
  | _ => .noMinor

/-- Major 0x35: CGRP, CWAIT. -/
def parse35 (h : Nat) (hd : Hdr) : Parsed :=
  match h / 0x10000 % 32 with
  | 0 => .ok (.cgrp hd (fld h 0x2000 3)) (zero h 1 0x2000) true true
  | 1 => .ok (.cwait hd (fld h 0x2000 3)) (zero h 1 0x2000) true true
  | _ => .noMinor

/-- Major 0x36: CCOPY. -/
def parse36 (h x : Nat) (hd : Hdr) : Parsed :=
  match h / 0x10000 % 32 with
  | 0 => .ok (.ccopy hd (fld h 0x800 5) (fld h 0x40 5) (fld h 0x2 5) (fld x 1 3) (flag x 0x8)) (zero h 1 0x2) (zero x 0x10 0x10000000) true
  | _ => .noMinor

/-- Major 0x37: CGATH, CSCAT. -/
def parse37 (h x : Nat) (hd : Hdr) : Parsed :=
  match h / 0x10000 % 32 with
  | 0 => .ok (.cgath hd (fld h 0x800 5) (fld h 0x40 5) (fld h 0x2 5) (fld x 1 16) (fld x 0x10000 5) (fld x 0x200000 5) (fld x 0x4000000 3) (flag x 0x20000000)) (zero h 1 0x2) (zero x 0x40000000 0x4) true
  | 1 => .ok (.cscat hd (fld h 0x800 5) (fld h 0x2 5) (fld x 0x10000 5) (fld x 0x200000 5) (fld x 0x4000000 3) (flag x 0x20000000)) (zero h 1 0x2 && zero h 0x40 0x20) (zero x 1 0x10000 && zero x 0x40000000 0x4) true
  | _ => .noMinor

/-- Major 0x38: BTNEXT. -/
def parse38 (h : Nat) (hd : Hdr) : Parsed :=
  match h / 0x10000 % 32 with
  | 0 => .ok (.btnext hd (fld h 0x800 5) (fld h 0x40 5) (fld h 0x2 5)) (zero h 1 0x2) true true
  | _ => .noMinor

/-- Major 0x39: DPOST, DCAL, DRUN, DSTAT. -/
def parse39 (h : Nat) (hd : Hdr) : Parsed :=
  match h / 0x10000 % 32 with
  | 0 => .ok (.dpost hd (fld h 0x40 5)) (zero h 1 0x40 && zero h 0x800 0x20) true true
  | 1 => .ok (.dcal hd (fld h 0x800 5) (fld h 0x40 5)) (zero h 1 0x40) true true
  | 2 => .ok (.drun hd (fld h 0x800 3) (flag h 0x4000) (fld h 0x40 5) (fld h 0x2 5)) (zero h 1 0x2 && zero h 0x8000 0x2) true true
  | 3 => .ok (.dstat hd (fld h 0x800 5) (fld h 0x40 5) (fld h 0x2 3)) (zero h 1 0x2 && zero h 0x10 0x4) true true
  | _ => .noMinor

/-- Major 0x3a: FRED. -/
def parse3A (h : Nat) (hd : Hdr) : Parsed :=
  match h / 0x10000 % 32 with
  | 0 => .ok (.fred hd (fld h 0x40 5) (fld h 0x8 3) (flag h 0x4)) (zero h 1 0x4 && zero h 0x800 0x20) true true
  | _ => .noMinor

/-- Major 0x3b: JPOST, JWAIT. -/
def parse3B (h : Nat) (hd : Hdr) : Parsed :=
  match h / 0x10000 % 32 with
  | 0 => .ok (.jpost hd (fld h 0x800 5) (fld h 0x40 5) (fld h 0x2 5)) (zero h 1 0x2) true true
  | 1 => .ok (.jwait hd (fld h 0x800 5) (fld h 0x40 5) (fld h 0x2 5)) (zero h 1 0x2) true true
  | _ => .noMinor

/-- Major 0x40: MSET. -/
def parse40 (h : Nat) (hd : Hdr) : Parsed :=
  match h / 0x10000 % 32 with
  | 0 => .ok (.mset hd (fld h 0x1000 4) (fld h 0x100 4) (fld h 0x20 3)) (zero h 1 0x20) true true
  | _ => .noMinor

/-- Major 0x41: MZERO, MSTART. -/
def parse41 (h : Nat) (hd : Hdr) : Parsed :=
  match h / 0x10000 % 32 with
  | 0 => .ok (.mzero hd (fld h 0x800 5) (flag h 0x400)) (zero h 1 0x400) true true
  | 1 => .ok (.mstart hd) (zero h 1 0x10000) true true
  | _ => .noMinor

/-- Major 0x42: MMUL. -/
def parse42 (h : Nat) (hd : Hdr) : Parsed :=
  match h / 0x10000 % 32 with
  | 0 => .ok (.mmul hd (fld h 0x800 5) (fld h 0x40 5) (fld h 0x2 5) (flag h 0x1)) true true true
  | _ => .noMinor

/-- Major 0x43: MMULC, MROT. -/
def parse43 (h : Nat) (hd : Hdr) : Parsed :=
  match h / 0x10000 % 32 with
  | 0 => .ok (.mmulc hd (fld h 0x800 5) (fld h 0x40 5) (fld h 0x2 5) (flag h 0x1)) true true true
  | 1 => .ok (.mrot hd (fld h 0x800 5) (fld h 0x40 5)) (zero h 1 0x40) true true
  | _ => .noMinor

/-- Major 0x44: MDRAIN. -/
def parse44 (h x : Nat) (hd : Hdr) : Parsed :=
  match h / 0x10000 % 32 with
  | 0 => .ok (.mdrain hd (fld h 0x800 5) (fld h 0x40 5) (fld h 0x4 4) (fld h 1 2) (fld x 1 32)) true true true
  | _ => .noMinor

/-- Major 0x45: MTOPK, MTOPKRD, MTOPKRD_T. -/
def parse45 (h : Nat) (hd : Hdr) : Parsed :=
  match h / 0x10000 % 32 with
  | 0 => .ok (.mtopk hd (fld h 0x800 5) (fld h 0x40 5) (fld h 0x8 3) (flag h 0x4)) (zero h 1 0x4) true true
  | 1 => if flag h 0x4 then .ok (.mtopkrdT hd (fld h 0x800 5)) (zero h 1 0x4 && zero h 0x8 0x100) true true
    else .ok (.mtopkrd hd (fld h 0x800 5) (fld h 0x40 5)) (zero h 1 0x4 && zero h 0x8 0x8) true true
  | _ => .noMinor

/-- Major 0x46: MKAT. -/
def parse46 (h x y : Nat) (hd : Hdr) : Parsed :=
  match h / 0x10000 % 32 with
  | 0 => .ok (.mkat hd (fld h 1 16) (fld x 1 32) (fld y 1 32)) true true true
  | _ => .noMinor

/-- Major 0x47: MACC, MLDACC, MSTACC. -/
def parse47 (h : Nat) (hd : Hdr) : Parsed :=
  match h / 0x10000 % 32 with
  | 0 => .ok (.macc hd (fld h 0x800 5) (fld h 0x40 5) (flag h 0x20)) (zero h 1 0x20) true true
  | 1 => .ok (.mldacc hd (fld h 0x800 5) (fld h 0x40 5) (flag h 0x20)) (zero h 1 0x20) true true
  | 2 => .ok (.mstacc hd (fld h 0x800 5) (fld h 0x40 5) (flag h 0x20)) (zero h 1 0x20) true true
  | _ => .noMinor

/-- Major 0x50: VADD, VSUB, VMUL, VMIN, VMAX. -/
def parse50 (h : Nat) (hd : Hdr) : Parsed :=
  match h / 1 % 8 with
  | 0 => .ok (.vadd hd (fld h 0x10000 5) (fld h 0x800 5) (fld h 0x40 5) (fld h 0x8 3)) true true true
  | 1 => .ok (.vsub hd (fld h 0x10000 5) (fld h 0x800 5) (fld h 0x40 5) (fld h 0x8 3)) true true true
  | 2 => .ok (.vmul hd (fld h 0x10000 5) (fld h 0x800 5) (fld h 0x40 5) (fld h 0x8 3)) true true true
  | 3 => .ok (.vmin hd (fld h 0x10000 5) (fld h 0x800 5) (fld h 0x40 5) (fld h 0x8 3)) true true true
  | 4 => .ok (.vmax hd (fld h 0x10000 5) (fld h 0x800 5) (fld h 0x40 5) (fld h 0x8 3)) true true true
  | _ => .noMinor

/-- Major 0x51: VFMA, VFMA_N. -/
def parse51 (h : Nat) (hd : Hdr) : Parsed :=
  match h / 1 % 8 with
  | 0 => .ok (.vfma hd (fld h 0x10000 5) (fld h 0x800 5) (fld h 0x40 5) (fld h 0x8 3)) true true true
  | 1 => .ok (.vfmaN hd (fld h 0x10000 5) (fld h 0x800 5) (fld h 0x40 5) (fld h 0x8 3)) true true true
  | _ => .noMinor

/-- Major 0x52: VABS, VNEG, VRCP, VRSQ, VEXP2, VLOG2, VSCALE. -/
def parse52 (h : Nat) (hd : Hdr) : Parsed :=
  match h / 1 % 8 with
  | 0 => .ok (.vabs hd (fld h 0x10000 5) (fld h 0x800 5) (fld h 0x8 3)) (zero h 0x40 0x20) true true
  | 1 => .ok (.vneg hd (fld h 0x10000 5) (fld h 0x800 5) (fld h 0x8 3)) (zero h 0x40 0x20) true true
  | 2 => .ok (.vrcp hd (fld h 0x10000 5) (fld h 0x800 5) (fld h 0x8 3)) (zero h 0x40 0x20) true true
  | 3 => .ok (.vrsq hd (fld h 0x10000 5) (fld h 0x800 5) (fld h 0x8 3)) (zero h 0x40 0x20) true true
  | 4 => .ok (.vexp2 hd (fld h 0x10000 5) (fld h 0x800 5) (fld h 0x8 3)) (zero h 0x40 0x20) true true
  | 5 => .ok (.vlog2 hd (fld h 0x10000 5) (fld h 0x800 5) (fld h 0x8 3)) (zero h 0x40 0x20) true true
  | 6 => .ok (.vscale hd (fld h 0x10000 5) (fld h 0x800 5) (fld h 0x40 5) (fld h 0x8 3)) true true true
  | _ => .noMinor

/-- Major 0x53: VCMP. -/
def parse53 (h : Nat) (hd : Hdr) : Parsed :=
  .ok (.vcmp hd (fld h 0x10000 3) (fld h 1 3) (fld h 0x800 5) (fld h 0x40 5) (fld h 0x8 3)) (zero h 0x80000 0x4) true true

/-- Major 0x54: VSEL. -/
def parse54 (h : Nat) (hd : Hdr) : Parsed :=
  match h / 1 % 8 with
  | 0 => .ok (.vsel hd (fld h 0x10000 5) (fld h 0x800 5) (fld h 0x40 5) (fld h 0x8 3)) true true true
  | _ => .noMinor

/-- Major 0x55: VIADD, VISUB, VIMUL, VSHL, VSHR, VSAR, VAND, VOR, VXOR. -/
def parse55 (h x : Nat) (hd : Hdr) : Parsed :=
  match h / 0x10000 % 32 with
  | 0 => .ok (.viadd hd (fld h 0x800 5) (fld h 0x40 5) (fld h 0x2 5) (fld x 1 3) (fld x 0x8 2) (flag x 0x20) (flag x 0x40)) (zero h 1 0x2) (zero x 0x80 0x2000000) true
  | 1 => .ok (.visub hd (fld h 0x800 5) (fld h 0x40 5) (fld h 0x2 5) (fld x 1 3) (fld x 0x8 2) (flag x 0x20) (flag x 0x40)) (zero h 1 0x2) (zero x 0x80 0x2000000) true
  | 2 => .ok (.vimul hd (fld h 0x800 5) (fld h 0x40 5) (fld h 0x2 5) (fld x 1 3) (fld x 0x8 2) (flag x 0x20) (flag x 0x40)) (zero h 1 0x2) (zero x 0x80 0x2000000) true
  | 3 => .ok (.vshl hd (fld h 0x800 5) (fld h 0x40 5) (fld h 0x2 5) (fld x 1 3) (fld x 0x8 2) (flag x 0x20)) (zero h 1 0x2) (zero x 0x40 0x4000000) true
  | 4 => .ok (.vshr hd (fld h 0x800 5) (fld h 0x40 5) (fld h 0x2 5) (fld x 1 3) (fld x 0x8 2) (flag x 0x20)) (zero h 1 0x2) (zero x 0x40 0x4000000) true
  | 5 => .ok (.vsar hd (fld h 0x800 5) (fld h 0x40 5) (fld h 0x2 5) (fld x 1 3) (fld x 0x8 2) (flag x 0x20)) (zero h 1 0x2) (zero x 0x40 0x4000000) true
  | 6 => .ok (.vand hd (fld h 0x800 5) (fld h 0x40 5) (fld h 0x2 5) (fld x 1 3) (fld x 0x8 2) (flag x 0x20)) (zero h 1 0x2) (zero x 0x40 0x4000000) true
  | 7 => .ok (.vor hd (fld h 0x800 5) (fld h 0x40 5) (fld h 0x2 5) (fld x 1 3) (fld x 0x8 2) (flag x 0x20)) (zero h 1 0x2) (zero x 0x40 0x4000000) true
  | 8 => .ok (.vxor hd (fld h 0x800 5) (fld h 0x40 5) (fld h 0x2 5) (fld x 1 3) (fld x 0x8 2) (flag x 0x20)) (zero h 1 0x2) (zero x 0x40 0x4000000) true
  | _ => .noMinor

/-- Major 0x56: VADDW. -/
def parse56 (h : Nat) (hd : Hdr) : Parsed :=
  match h / 1 % 8 with
  | 0 | 1 | 2 | 3 => .ok (.vaddw hd (fld h 0x10000 5) (fld h 0x800 5) (fld h 0x40 5) (fld h 0x8 3) (fld h 1 2)) true true true
  | _ => .noMinor

/-- Major 0x57: VCVT. -/
def parse57 (h x : Nat) (hd : Hdr) : Parsed :=
  match h / 1 % 8 with
  | 0 => .ok (.vcvt hd (fld h 0x10000 5) (fld h 0x800 5) (fld h 0x8 3) (fld x 1 4) (fld x 0x10 4)) (zero h 0x40 0x20) (zero x 0x100 0x1000000) true
  | _ => .noMinor

/-- Major 0x58: VSCAN. -/
def parse58 (h x : Nat) (hd : Hdr) : Parsed :=
  .ok (.vscan hd (fld h 0x10000 5) (fld h 0x800 5) (fld h 0x8 3) (fld h 1 3) (fld x 1 2) (flag x 0x4) (flag x 0x8) (flag x 0x10)) (zero h 0x40 0x20) (zero x 0x20 0x8000000) true

/-- Major 0x59: VRED. -/
def parse59 (h x : Nat) (hd : Hdr) : Parsed :=
  .ok (.vred hd (fld h 0x10000 5) (fld h 0x800 5) (fld h 0x8 3) (fld h 1 3) (fld x 1 2) (flag x 0x4) (flag x 0x8) (flag x 0x10)) (zero h 0x40 0x20) (zero x 0x20 0x8000000) true

/-- Major 0x5a: VBCAST, VBCAST_L, VPERM, VROTL, VIOTA. -/
def parse5A (h : Nat) (hd : Hdr) : Parsed :=
  match h / 1 % 8 with
  | 0 => .ok (.vbcast hd (fld h 0x10000 5) (fld h 0x800 5) (fld h 0x8 3)) (zero h 0x40 0x20) true true
  | 1 => .ok (.vbcastL hd (fld h 0x10000 5) (fld h 0x800 5) (fld h 0x40 5) (fld h 0x8 3)) true true true
  | 2 => .ok (.vperm hd (fld h 0x10000 5) (fld h 0x800 5) (fld h 0x40 5) (fld h 0x8 3)) true true true
  | 3 => .ok (.vrotl hd (fld h 0x10000 5) (fld h 0x800 5) (fld h 0x40 5) (fld h 0x8 3)) true true true
  | 4 => .ok (.viota hd (fld h 0x10000 5) (fld h 0x800 5) (fld h 0x8 3)) (zero h 0x40 0x20) true true
  | _ => .noMinor

/-- Major 0x5b: VCOMPRESS, VEXPAND. -/
def parse5B (h : Nat) (hd : Hdr) : Parsed :=
  match h / 1 % 8 with
  | 0 => .ok (.vcompress hd (fld h 0x10000 5) (fld h 0x800 5) (fld h 0x8 3)) (zero h 0x40 0x20) true true
  | 1 => .ok (.vexpand hd (fld h 0x10000 5) (fld h 0x800 5) (fld h 0x8 3)) (zero h 0x40 0x20) true true
  | _ => .noMinor

/-- Major 0x5c: VLD, VLDX. -/
def parse5C (h x : Nat) (hd : Hdr) : Parsed :=
  match h / 0x10000 % 32 with
  | 0 => .ok (.vld hd (fld h 0x800 5) (fld h 0x40 5) (fld h 0x2 5) (flag h 0x1) (fld x 1 3)) true (zero x 0x8 0x20000000) true
  | 1 => .ok (.vldx hd (fld h 0x800 5) (fld h 0x40 5) (fld h 0x2 5) (flag h 0x1) (fld x 1 3)) true (zero x 0x8 0x20000000) true
  | _ => .noMinor

/-- Major 0x5d: VST. -/
def parse5D (h x : Nat) (hd : Hdr) : Parsed :=
  match h / 0x10000 % 32 with
  | 0 => .ok (.vst hd (fld h 0x800 5) (fld h 0x40 5) (fld h 0x2 5) (fld x 1 3)) (zero h 1 0x2) (zero x 0x8 0x20000000) true
  | _ => .noMinor

/-- Major 0x5e: VINS, VEXT. -/
def parse5E (h : Nat) (hd : Hdr) : Parsed :=
  match h / 0x10000 % 32 with
  | 0 => .ok (.vins hd (fld h 0x800 5) (fld h 0x40 5) (fld h 0x2 5)) (zero h 1 0x2) true true
  | 1 => .ok (.vext hd (fld h 0x800 5) (fld h 0x40 5) (fld h 0x2 5) (flag h 0x1)) true true true
  | _ => .noMinor

/-- Major 0x5f: VMPUSH, VMINV, VMPOP. -/
def parse5F (h : Nat) (hd : Hdr) : Parsed :=
  match h / 1 % 8 with
  | 0 => .ok (.vmpush hd (fld h 0x8 3)) (zero h 0x40 0x8000) true true
  | 1 => .ok (.vminv hd) (zero h 0x8 0x40000) true true
  | 2 => .ok (.vmpop hd) (zero h 0x8 0x40000) true true
  | _ => .noMinor

/-- Major 0x60: BRMZ. -/
def parse60 (h : Nat) (hd : Hdr) : Parsed :=
  .ok (.brmz hd (flag h 0x20000) (fld h 0x10 13) (fld h 1 4)) (zero h 0x40000 0x8) true true

/-- The opcode map: which table reads a major (R141). -/
def parse (h x y : Nat) (hd : Hdr) : Parsed :=
  match h / 0x200000 % 128 with
  | 0x1 => parse01 h hd
  | 0x2 => parse02 h hd
  | 0x3 => parse03 h hd
  | 0x4 => parse04 h hd
  | 0x5 => parse05 h hd
  | 0x6 => parse06 h hd
  | 0x7 => parse07 h hd
  | 0x8 => parse08 h hd
  | 0x9 => parse09 h hd
  | 0xa => parse0A h hd
  | 0xb => parse0B h x y hd
  | 0x10 => parse10 h hd
  | 0x11 => parse11 h hd
  | 0x12 => parse12 h hd
  | 0x13 => parse13 h x hd
  | 0x14 => parse14 h hd
  | 0x15 => parse15 h hd
  | 0x16 => parse16 h x hd
  | 0x18 => parse18 h hd
  | 0x19 => parse19 h x hd
  | 0x1a => parse1A h x hd
  | 0x1b => parse1B h hd
  | 0x20 => parse20 h hd
  | 0x21 => parse21 h hd
  | 0x22 => parse22 h x hd
  | 0x23 => parse23 h hd
  | 0x24 => parse24 h x hd
  | 0x25 => parse25 h x hd
  | 0x26 => parse26 h hd
  | 0x27 => parse27 h hd
  | 0x28 => parse28 h hd
  | 0x29 => parse29 h hd
  | 0x30 => parse30 h x y hd
  | 0x31 => parse31 h x hd
  | 0x32 => parse32 h x hd
  | 0x33 => parse33 h hd
  | 0x34 => parse34 h hd
  | 0x35 => parse35 h hd
  | 0x36 => parse36 h x hd
  | 0x37 => parse37 h x hd
  | 0x38 => parse38 h hd
  | 0x39 => parse39 h hd
  | 0x3a => parse3A h hd
  | 0x3b => parse3B h hd
  | 0x40 => parse40 h hd
  | 0x41 => parse41 h hd
  | 0x42 => parse42 h hd
  | 0x43 => parse43 h hd
  | 0x44 => parse44 h x hd
  | 0x45 => parse45 h hd
  | 0x46 => parse46 h x y hd
  | 0x47 => parse47 h hd
  | 0x50 => parse50 h hd
  | 0x51 => parse51 h hd
  | 0x52 => parse52 h hd
  | 0x53 => parse53 h hd
  | 0x54 => parse54 h hd
  | 0x55 => parse55 h x hd
  | 0x56 => parse56 h hd
  | 0x57 => parse57 h x hd
  | 0x58 => parse58 h x hd
  | 0x59 => parse59 h x hd
  | 0x5a => parse5A h hd
  | 0x5b => parse5B h hd
  | 0x5c => parse5C h x hd
  | 0x5d => parse5D h x hd
  | 0x5e => parse5E h hd
  | 0x5f => parse5F h hd
  | 0x60 => parse60 h hd
  | _ => .noMajor

/-- The opcode map lists a major for a stream, at least for one of its minors (R142). -/
def majorIn (st : Stream) (maj : Nat) : Bool :=
  match st with
  | .a => !(decide (maj ∈ [0x40, 0x41, 0x42, 0x43, 0x44, 0x45, 0x46, 0x47, 0x50, 0x51, 0x52, 0x53, 0x54, 0x55, 0x56, 0x57, 0x58, 0x59, 0x5a, 0x5b, 0x5c, 0x5d, 0x5e, 0x5f, 0x60]))
  | .x => !(decide (maj ∈ [0x1a, 0x1b, 0x20, 0x21, 0x22, 0x23, 0x25, 0x26, 0x27, 0x28, 0x29, 0x30, 0x31, 0x32, 0x33, 0x34, 0x35, 0x36, 0x37, 0x38, 0x39, 0x3a, 0x3b]))

/-- An instruction is listed for a stream; no stream given admits both. -/
def Instr.inStream (i : Instr) : Option Stream → Bool
  | none => true
  | some .a => i.info.inA
  | some .x => i.info.inX

/-- The token syllable of a token word (R134). -/
def tokOf (w : Nat) : Tok := ⟨fld w 0x1000000 8, fld w 0x10000 8, fld w 0x100 8, fld w 1 8⟩

/-- The syllable at fault as an index: 3 names the token syllable, which follows `len` extension syllables. -/
def sylIndex (len i : Nat) : Nat := if i == 3 then len + 1 else i

/-- Check 11: the first syllable whose reserved bits are not zero or whose operands the entry refuses. -/
def firstReserved (i : Instr) (z0 z1 z2 : Bool) : Option Nat :=
  let r := firstBad [(0, z0), (1, z1), (2, z2)]
  match r, i.operandBad with
  | none, b => b
  | some r, none => some r
  | some r, some b => some (min r b)

/-- Checks 7 to 11 of R147, in their order, on what the tables make of an instruction of `len` extension syllables. -/
def checkParsed (st : Option Stream) (maj len : Nat) (t : Bool) : Parsed → Decoded
  | .noMajor => .bad .unallocated 0
  | .noMinor =>
    match st with
    | some q => if majorIn q maj then .bad .badMinor 0 else .bad .wrongStream 0
    | none => .bad .badMinor 0
  | .ok i z0 z1 z2 =>
    if !i.inStream st then .bad .wrongStream 0
    else if !i.minorOk then .bad .badMinor 0
    else if i.info.len != len then .bad .wrongLength 0
    else if t && !i.info.tok then .bad .badToken 0
    else if !i.tokenOk then .bad .badToken (len + 1)
    else
      match firstReserved i z0 z1 z2 with
      | some k => .bad .reserved (sylIndex len k)
      | none => .ok i (len + 1 + t.toNat)

/-- The decoder (R147 checks 4 to 11): the syllables from the header on, up to the last valid one of the line; `st` is
the stream, `none` for no check of it. -/
def decode (st : Option Stream) (syls : List Nat) : Decoded :=
  let h := syls.headD 0
  let len := h / 0x20000000 % 4
  let t := flag h 0x10000000
  if len == 3 then .bad .length3 0
  else if syls.length < len + 1 + t.toNat then .bad .pastLine 0
  else
    let x := if 1 ≤ len then syls.getD 1 0 else 0
    let y := if 2 ≤ len then syls.getD 2 0 else 0
    let tok := if t then some (tokOf (syls.getD (len + 1) 0)) else none
    checkParsed st (h / 0x200000 % 128) len t (parse h x y ⟨flag h 0x80000000, tok⟩)

/-- The header syllable of an instruction of `len` extension syllables, major `maj` and format fields `f` (R133). -/
def hdrWord (hd : Hdr) (len maj f : Nat) : Nat :=
  hd.stop.toNat * 0x80000000 + len * 0x20000000 + hd.tok.isSome.toNat * 0x10000000 + maj * 0x200000 + f

/-- The token syllable (R134), none without one. -/
def tokWords (hd : Hdr) : List Nat :=
  match hd.tok with
  | none => []
  | some t => [t.wait.toNat * 0x1000000 + t.sig.toNat * 0x10000 + t.itag.toNat * 0x100 + t.mod.toNat]

/-- The syllables of an instruction, by the field tables of its entry. An event is no instruction and has none. -/
def encode : Instr → List Nat
  | .add hdr d a b => [hdrWord hdr 0 0x1 (d.toNat * 0x10000 + a.toNat * 0x800 + b.toNat * 0x40)] ++ tokWords hdr
  | .sub hdr d a b => [hdrWord hdr 0 0x1 (0x1 + d.toNat * 0x10000 + a.toNat * 0x800 + b.toNat * 0x40)] ++ tokWords hdr
  | .mul hdr d a b => [hdrWord hdr 0 0x1 (0x2 + d.toNat * 0x10000 + a.toNat * 0x800 + b.toNat * 0x40)] ++ tokWords hdr
  | .mulh hdr d a b => [hdrWord hdr 0 0x1 (0x3 + d.toNat * 0x10000 + a.toNat * 0x800 + b.toNat * 0x40)] ++ tokWords hdr
  | .mulhu hdr d a b => [hdrWord hdr 0 0x1 (0x4 + d.toNat * 0x10000 + a.toNat * 0x800 + b.toNat * 0x40)] ++ tokWords hdr
  | .div hdr d a b => [hdrWord hdr 0 0x1 (0x5 + d.toNat * 0x10000 + a.toNat * 0x800 + b.toNat * 0x40)] ++ tokWords hdr
  | .divu hdr d a b => [hdrWord hdr 0 0x1 (0x6 + d.toNat * 0x10000 + a.toNat * 0x800 + b.toNat * 0x40)] ++ tokWords hdr
  | .rem hdr d a b => [hdrWord hdr 0 0x1 (0x7 + d.toNat * 0x10000 + a.toNat * 0x800 + b.toNat * 0x40)] ++ tokWords hdr
  | .remu hdr d a b => [hdrWord hdr 0 0x1 (0x8 + d.toNat * 0x10000 + a.toNat * 0x800 + b.toNat * 0x40)] ++ tokWords hdr
  | .and hdr d a b => [hdrWord hdr 0 0x1 (0x9 + d.toNat * 0x10000 + a.toNat * 0x800 + b.toNat * 0x40)] ++ tokWords hdr
  | .or hdr d a b => [hdrWord hdr 0 0x1 (0xa + d.toNat * 0x10000 + a.toNat * 0x800 + b.toNat * 0x40)] ++ tokWords hdr
  | .xor hdr d a b => [hdrWord hdr 0 0x1 (0xb + d.toNat * 0x10000 + a.toNat * 0x800 + b.toNat * 0x40)] ++ tokWords hdr
  | .andn hdr d a b => [hdrWord hdr 0 0x1 (0xc + d.toNat * 0x10000 + a.toNat * 0x800 + b.toNat * 0x40)] ++ tokWords hdr
  | .shl hdr d a b => [hdrWord hdr 0 0x1 (0xd + d.toNat * 0x10000 + a.toNat * 0x800 + b.toNat * 0x40)] ++ tokWords hdr
  | .shr hdr d a b => [hdrWord hdr 0 0x1 (0xe + d.toNat * 0x10000 + a.toNat * 0x800 + b.toNat * 0x40)] ++ tokWords hdr
  | .sar hdr d a b => [hdrWord hdr 0 0x1 (0xf + d.toNat * 0x10000 + a.toNat * 0x800 + b.toNat * 0x40)] ++ tokWords hdr
  | .rot hdr d a b => [hdrWord hdr 0 0x1 (0x10 + d.toNat * 0x10000 + a.toNat * 0x800 + b.toNat * 0x40)] ++ tokWords hdr
  | .min hdr d a b => [hdrWord hdr 0 0x1 (0x11 + d.toNat * 0x10000 + a.toNat * 0x800 + b.toNat * 0x40)] ++ tokWords hdr
  | .max hdr d a b => [hdrWord hdr 0 0x1 (0x12 + d.toNat * 0x10000 + a.toNat * 0x800 + b.toNat * 0x40)] ++ tokWords hdr
  | .minu hdr d a b => [hdrWord hdr 0 0x1 (0x13 + d.toNat * 0x10000 + a.toNat * 0x800 + b.toNat * 0x40)] ++ tokWords hdr
  | .maxu hdr d a b => [hdrWord hdr 0 0x1 (0x14 + d.toNat * 0x10000 + a.toNat * 0x800 + b.toNat * 0x40)] ++ tokWords hdr
  | .sel hdr d a b p => [hdrWord hdr 0 0x1 (0x18 + d.toNat * 0x10000 + a.toNat * 0x800 + b.toNat * 0x40 + p.toNat)] ++ tokWords hdr
  | .addi hdr d a i => [hdrWord hdr 0 0x2 (d.toNat * 0x10000 + a.toNat * 0x800 + i.toNat)] ++ tokWords hdr
  | .andi hdr d a i => [hdrWord hdr 0 0x3 (d.toNat * 0x10000 + a.toNat * 0x800 + i.toNat)] ++ tokWords hdr
  | .ori hdr d a i => [hdrWord hdr 0 0x4 (d.toNat * 0x10000 + a.toNat * 0x800 + i.toNat)] ++ tokWords hdr
  | .xori hdr d a i => [hdrWord hdr 0 0x5 (d.toNat * 0x10000 + a.toNat * 0x800 + i.toNat)] ++ tokWords hdr
  | .shli hdr d a n => [hdrWord hdr 0 0x6 (d.toNat * 0x10000 + a.toNat * 0x800 + n.toNat)] ++ tokWords hdr
  | .shri hdr d a n => [hdrWord hdr 0 0x6 (0x100 + d.toNat * 0x10000 + a.toNat * 0x800 + n.toNat)] ++ tokWords hdr
  | .sari hdr d a n => [hdrWord hdr 0 0x6 (0x200 + d.toNat * 0x10000 + a.toNat * 0x800 + n.toNat)] ++ tokWords hdr
  | .roti hdr d a n => [hdrWord hdr 0 0x6 (0x300 + d.toNat * 0x10000 + a.toNat * 0x800 + n.toNat)] ++ tokWords hdr
  | .cmpi hdr p a c i => [hdrWord hdr 0 0x7 (p.toNat * 0x10000 + a.toNat * 0x800 + c.toNat * 0x80 + i.toNat)] ++ tokWords hdr
  | .clz hdr d a => [hdrWord hdr 0 0x8 (d.toNat * 0x10000 + a.toNat * 0x800)] ++ tokWords hdr
  | .popc hdr d a => [hdrWord hdr 0 0x8 (0x1 + d.toNat * 0x10000 + a.toNat * 0x800)] ++ tokWords hdr
  | .sext hdr d a k => [hdrWord hdr 0 0x8 (0x2 + d.toNat * 0x10000 + a.toNat * 0x800 + k.toNat * 0x40)] ++ tokWords hdr
  | .zext hdr d a k => [hdrWord hdr 0 0x8 (0x3 + d.toNat * 0x10000 + a.toNat * 0x800 + k.toNat * 0x40)] ++ tokWords hdr
  | .bfx hdr d a b => [hdrWord hdr 0 0x8 (0x4 + d.toNat * 0x10000 + a.toNat * 0x800 + b.toNat * 0x40)] ++ tokWords hdr
  | .bfi hdr d a b => [hdrWord hdr 0 0x8 (0x5 + d.toNat * 0x10000 + a.toNat * 0x800 + b.toNat * 0x40)] ++ tokWords hdr
  | .cmp hdr p c a b => [hdrWord hdr 0 0x9 (p.toNat * 0x10000 + c.toNat + a.toNat * 0x800 + b.toNat * 0x40)] ++ tokWords hdr
  | .pand hdr d a b => [hdrWord hdr 0 0xa (d.toNat * 0x10000 + a.toNat * 0x800 + b.toNat * 0x40)] ++ tokWords hdr
  | .por hdr d a b => [hdrWord hdr 0 0xa (0x1 + d.toNat * 0x10000 + a.toNat * 0x800 + b.toNat * 0x40)] ++ tokWords hdr
  | .pxor hdr d a b => [hdrWord hdr 0 0xa (0x2 + d.toNat * 0x10000 + a.toNat * 0x800 + b.toNat * 0x40)] ++ tokWords hdr
  | .pnot hdr d a => [hdrWord hdr 0 0xa (0x3 + d.toNat * 0x10000 + a.toNat * 0x800)] ++ tokWords hdr
  | .pmov hdr d a => [hdrWord hdr 0 0xa (0x4 + d.toNat * 0x10000 + a.toNat * 0x800)] ++ tokWords hdr
  | .li hdr d lo hi => [hdrWord hdr 2 0xb (d.toNat * 0x800), lo.toNat, hi.toNat] ++ tokWords hdr
  | .br hdr p neg off syl => [hdrWord hdr 0 0x10 (p.toNat * 0x40000 + neg.toNat * 0x20000 + off.toNat * 0x10 + syl.toNat)] ++ tokWords hdr
  | .brl hdr p neg off syl => [hdrWord hdr 0 0x11 (p.toNat * 0x40000 + neg.toNat * 0x20000 + off.toNat * 0x10 + syl.toNat)] ++ tokWords hdr
  | .jmpr hdr a => [hdrWord hdr 0 0x12 (a.toNat * 0x800)] ++ tokWords hdr
  | .call hdr d a => [hdrWord hdr 0 0x12 (0x1 + d.toNat * 0x10000 + a.toNat * 0x800)] ++ tokWords hdr
  | .ret hdr a => [hdrWord hdr 0 0x12 (0x2 + a.toNat * 0x800)] ++ tokWords hdr
  | .loop hdr c off syl => [hdrWord hdr 1 0x13 (c.toNat * 0x800), off.toNat * 0x10 + syl.toNat] ++ tokWords hdr
  | .dqpush hdr a => [hdrWord hdr 0 0x14 (a.toNat * 0x800)] ++ tokWords hdr
  | .dqpop hdr d => [hdrWord hdr 0 0x14 (0x1 + d.toNat * 0x10000)] ++ tokWords hdr
  | .bqpush hdr p => [hdrWord hdr 0 0x14 (0x2 + p.toNat * 0x800)] ++ tokWords hdr
  | .brq hdr p neg off syl => [hdrWord hdr 0 0x15 (p.toNat * 0x40000 + neg.toNat * 0x20000 + off.toNat * 0x10 + syl.toNat)] ++ tokWords hdr
  | .fork hdr off syl => [hdrWord hdr 1 0x16 (0), off.toNat * 0x10 + syl.toNat] ++ tokWords hdr
  | .rdv hdr => [hdrWord hdr 0 0x16 (0x10000)] ++ tokWords hdr
  | .exit hdr => [hdrWord hdr 0 0x16 (0x20000)] ++ tokWords hdr
  | .yield hdr dropt keep => [hdrWord hdr 1 0x16 (0x30000 + dropt.toNat), keep.toNat] ++ tokWords hdr
  | .await hdr kind reg => [hdrWord hdr 0 0x16 (0x40000 + kind.toNat * 0x1000 + reg.toNat)] ++ tokWords hdr
  | .nop hdr => [hdrWord hdr 0 0x16 (0x50000)] ++ tokWords hdr
  | .qcancel hdr d tag => [hdrWord hdr 0 0x16 (0x60000 + d.toNat * 0x800 + tag.toNat)] ++ tokWords hdr
  | .trap hdr code => [hdrWord hdr 0 0x18 (code.toNat)] ++ tokWords hdr
  | .eret hdr => [hdrWord hdr 0 0x18 (0x10000)] ++ tokWords hdr
  | .brk hdr code => [hdrWord hdr 0 0x18 (0x20000 + code.toNat)] ++ tokWords hdr
  | .sysrd hdr d idx => [hdrWord hdr 1 0x19 (d.toNat * 0x800), idx.toNat] ++ tokWords hdr
  | .syswr hdr a idx => [hdrWord hdr 1 0x1a (a.toNat * 0x800), idx.toNat] ++ tokWords hdr
  | .shape hdr d a acc => [hdrWord hdr 0 0x1b (d.toNat * 0x800 + a.toNat * 0x40 + acc.toNat)] ++ tokWords hdr
  | .ld hdr d b z o => [hdrWord hdr 0 0x20 (d.toNat * 0x10000 + b.toNat * 0x800 + z.toNat * 0x100 + o.toNat)] ++ tokWords hdr
  | .st hdr d b z o => [hdrWord hdr 0 0x21 (d.toNat * 0x10000 + b.toNat * 0x800 + z.toNat * 0x100 + o.toNat)] ++ tokWords hdr
  | .aadd hdr d a b sz ord scope => [hdrWord hdr 1 0x22 (d.toNat * 0x800 + a.toNat * 0x40 + b.toNat * 0x2), sz.toNat * 0x20 + ord.toNat * 0x80 + scope.toNat * 0x200] ++ tokWords hdr
  | .afadd hdr d a b sz ord scope => [hdrWord hdr 1 0x22 (0x10000 + d.toNat * 0x800 + a.toNat * 0x40 + b.toNat * 0x2), sz.toNat * 0x20 + ord.toNat * 0x80 + scope.toNat * 0x200] ++ tokWords hdr
  | .amin hdr d a b sz ord scope u => [hdrWord hdr 1 0x22 (0x20000 + d.toNat * 0x800 + a.toNat * 0x40 + b.toNat * 0x2), sz.toNat * 0x20 + ord.toNat * 0x80 + scope.toNat * 0x200 + u.toNat * 0x1000] ++ tokWords hdr
  | .amax hdr d a b sz ord scope u => [hdrWord hdr 1 0x22 (0x30000 + d.toNat * 0x800 + a.toNat * 0x40 + b.toNat * 0x2), sz.toNat * 0x20 + ord.toNat * 0x80 + scope.toNat * 0x200 + u.toNat * 0x1000] ++ tokWords hdr
  | .aand hdr d a b sz ord scope => [hdrWord hdr 1 0x22 (0x40000 + d.toNat * 0x800 + a.toNat * 0x40 + b.toNat * 0x2), sz.toNat * 0x20 + ord.toNat * 0x80 + scope.toNat * 0x200] ++ tokWords hdr
  | .aor hdr d a b sz ord scope => [hdrWord hdr 1 0x22 (0x50000 + d.toNat * 0x800 + a.toNat * 0x40 + b.toNat * 0x2), sz.toNat * 0x20 + ord.toNat * 0x80 + scope.toNat * 0x200] ++ tokWords hdr
  | .axor hdr d a b sz ord scope => [hdrWord hdr 1 0x22 (0x60000 + d.toNat * 0x800 + a.toNat * 0x40 + b.toNat * 0x2), sz.toNat * 0x20 + ord.toNat * 0x80 + scope.toNat * 0x200] ++ tokWords hdr
  | .aswp hdr d a b sz ord scope => [hdrWord hdr 1 0x22 (0x70000 + d.toNat * 0x800 + a.toNat * 0x40 + b.toNat * 0x2), sz.toNat * 0x20 + ord.toNat * 0x80 + scope.toNat * 0x200] ++ tokWords hdr
  | .acas hdr d a b sz ord scope c => [hdrWord hdr 1 0x22 (0x80000 + d.toNat * 0x800 + a.toNat * 0x40 + b.toNat * 0x2), sz.toNat * 0x20 + ord.toNat * 0x80 + scope.toNat * 0x200 + c.toNat] ++ tokWords hdr
  | .sldf hdr d a scope => [hdrWord hdr 0 0x23 (d.toNat * 0x800 + a.toNat * 0x40 + scope.toNat * 0x8)] ++ tokWords hdr
  | .sldw hdr d a scope => [hdrWord hdr 0 0x23 (0x10000 + d.toNat * 0x800 + a.toNat * 0x40 + scope.toNat * 0x8)] ++ tokWords hdr
  | .sste hdr d a scope => [hdrWord hdr 0 0x23 (0x20000 + d.toNat * 0x800 + a.toNat * 0x40 + scope.toNat * 0x8)] ++ tokWords hdr
  | .sstf hdr d a scope => [hdrWord hdr 0 0x23 (0x30000 + d.toNat * 0x800 + a.toNat * 0x40 + scope.toNat * 0x8)] ++ tokWords hdr
  | .seclr hdr a => [hdrWord hdr 0 0x23 (0x40000 + a.toNat * 0x40)] ++ tokWords hdr
  | .fence hdr scope => [hdrWord hdr 0 0x24 (scope.toNat * 0x2000)] ++ tokWords hdr
  | .fencer hdr scope mask => [hdrWord hdr 1 0x24 (0x10000 + scope.toNat * 0x2000), mask.toNat] ++ tokWords hdr
  | .drain hdr eng => [hdrWord hdr 0 0x24 (0x20000 + eng.toNat)] ++ tokWords hdr
  | .rngbind hdr n a kind lreg len => [hdrWord hdr 1 0x25 (n.toNat * 0x1000 + a.toNat * 0x80 + kind.toNat * 0x40), lreg.toNat * 0x80000000 + len.toNat] ++ tokWords hdr
  | .rngfree hdr n => [hdrWord hdr 1 0x25 (0x10000 + n.toNat * 0x1000), 0] ++ tokWords hdr
  | .gjoin hdr d a => [hdrWord hdr 0 0x26 (d.toNat * 0x800 + a.toNat * 0x40)] ++ tokWords hdr
  | .gleave hdr d a => [hdrWord hdr 0 0x26 (0x10000 + d.toNat * 0x800 + a.toNat * 0x40)] ++ tokWords hdr
  | .gbar hdr d a scope => [hdrWord hdr 0 0x26 (0x20000 + d.toNat * 0x800 + a.toNat * 0x40 + scope.toNat * 0x8)] ++ tokWords hdr
  | .rres hdr d a b => [hdrWord hdr 0 0x27 (d.toNat * 0x800 + a.toNat * 0x40 + b.toNat * 0x2)] ++ tokWords hdr
  | .rpub hdr e a b => [hdrWord hdr 0 0x27 (0x10000 + e.toNat * 0x800 + a.toNat * 0x40 + b.toNat * 0x2)] ++ tokWords hdr
  | .rtake hdr d a p => [hdrWord hdr 0 0x27 (0x20000 + d.toNat * 0x800 + a.toNat * 0x40 + p.toNat * 0x2)] ++ tokWords hdr
  | .rfree hdr e a => [hdrWord hdr 0 0x27 (0x30000 + e.toNat * 0x800 + a.toNat * 0x40)] ++ tokWords hdr
  | .xroute hdr d a b => [hdrWord hdr 0 0x28 (d.toNat * 0x800 + a.toNat * 0x40 + b.toNat * 0x2)] ++ tokWords hdr
  | .xinv hdr d a b force => [hdrWord hdr 0 0x29 (d.toNat * 0x800 + a.toNat * 0x40 + b.toNat * 0x2 + force.toNat)] ++ tokWords hdr
  | .xpin hdr d a b => [hdrWord hdr 0 0x29 (0x10000 + d.toNat * 0x800 + a.toNat * 0x40 + b.toNat * 0x2)] ++ tokWords hdr
  | .xunpin hdr d a b => [hdrWord hdr 0 0x29 (0x20000 + d.toNat * 0x800 + a.toNat * 0x40 + b.toNat * 0x2)] ++ tokWords hdr
  | .fetch hdr d t r n c s cg cgv disc rcmd u => [hdrWord hdr 2 0x30 (d.toNat * 0x800 + t.toNat * 0x40 + r.toNat * 0x2), n.toNat * 0x10000 + c.toNat * 0x800 + s.toNat * 0x40 + cg.toNat * 0x8 + cgv.toNat * 0x4 + disc.toNat * 0x2 + rcmd.toNat, u.toNat] ++ tokWords hdr
  | .fetchT hdr d t r n c s cg cgv disc rcmd u => [hdrWord hdr 2 0x30 (0x10000 + d.toNat * 0x800 + t.toNat * 0x40 + r.toNat * 0x2), n.toNat * 0x10000 + c.toNat * 0x800 + s.toNat * 0x40 + cg.toNat * 0x8 + cgv.toNat * 0x4 + disc.toNat * 0x2 + rcmd.toNat, u.toNat] ++ tokWords hdr
  | .fetchMc hdr d t r n c s cg cgv disc rcmd u mc => [hdrWord hdr 2 0x30 (0x20000 + d.toNat * 0x800 + t.toNat * 0x40 + r.toNat * 0x2), n.toNat * 0x10000 + c.toNat * 0x800 + s.toNat * 0x40 + cg.toNat * 0x8 + cgv.toNat * 0x4 + disc.toNat * 0x2 + rcmd.toNat, u.toNat + mc.toNat * 0x20] ++ tokWords hdr
  | .fetchRf hdr d t r c cg cgv u => [hdrWord hdr 2 0x30 (0x30000 + d.toNat * 0x800 + t.toNat * 0x40 + r.toNat * 0x2), c.toNat * 0x800 + cg.toNat * 0x8 + cgv.toNat * 0x4, u.toNat] ++ tokWords hdr
  | .talloc hdr d t s disc n => [hdrWord hdr 1 0x31 (d.toNat * 0x800 + t.toNat * 0x40 + s.toNat * 0x2 + disc.toNat), n.toNat] ++ tokWords hdr
  | .tstore hdr t r c hd u cg cgv => [hdrWord hdr 1 0x32 (t.toNat * 0x800 + r.toNat * 0x40 + c.toNat * 0x2), hd.toNat + u.toNat * 0x20 + cg.toNat * 0x400 + cgv.toNat * 0x2000] ++ tokWords hdr
  | .tcon hdr hd => [hdrWord hdr 0 0x33 (hd.toNat * 0x40)] ++ tokWords hdr
  | .trel hdr hd => [hdrWord hdr 0 0x33 (0x10000 + hd.toNat * 0x40)] ++ tokWords hdr
  | .tadj hdr hd b => [hdrWord hdr 0 0x33 (0x20000 + hd.toNat * 0x40 + b.toNat * 0x2)] ++ tokWords hdr
  | .tsettle hdr hd k => [hdrWord hdr 0 0x33 (0x30000 + hd.toNat * 0x40 + k.toNat * 0x2)] ++ tokWords hdr
  | .tquery hdr d hd sel => [hdrWord hdr 0 0x33 (0x40000 + d.toNat * 0x800 + hd.toNat * 0x40 + sel.toNat * 0x2)] ++ tokWords hdr
  | .park hdr d a cg cgv => [hdrWord hdr 0 0x34 (d.toNat * 0x800 + a.toNat * 0x40 + cg.toNat * 0x8 + cgv.toNat * 0x4)] ++ tokWords hdr
  | .unpark hdr d a cg cgv => [hdrWord hdr 0 0x34 (0x10000 + d.toNat * 0x800 + a.toNat * 0x40 + cg.toNat * 0x8 + cgv.toNat * 0x4)] ++ tokWords hdr
  | .cgrp hdr cg => [hdrWord hdr 0 0x35 (cg.toNat * 0x2000)] ++ tokWords hdr
  | .cwait hdr cg => [hdrWord hdr 0 0x35 (0x10000 + cg.toNat * 0x2000)] ++ tokWords hdr
  | .ccopy hdr d a n cg cgv => [hdrWord hdr 1 0x36 (d.toNat * 0x800 + a.toNat * 0x40 + n.toNat * 0x2), cg.toNat + cgv.toNat * 0x8] ++ tokWords hdr
  | .cgath hdr d t l n r m cg cgv => [hdrWord hdr 1 0x37 (d.toNat * 0x800 + t.toNat * 0x40 + l.toNat * 0x2), n.toNat + r.toNat * 0x10000 + m.toNat * 0x200000 + cg.toNat * 0x4000000 + cgv.toNat * 0x20000000] ++ tokWords hdr
  | .cscat hdr d l r m cg cgv => [hdrWord hdr 1 0x37 (0x10000 + d.toNat * 0x800 + l.toNat * 0x2), r.toNat * 0x10000 + m.toNat * 0x200000 + cg.toNat * 0x4000000 + cgv.toNat * 0x20000000] ++ tokWords hdr
  | .btnext hdr d k t => [hdrWord hdr 0 0x38 (d.toNat * 0x800 + k.toNat * 0x40 + t.toNat * 0x2)] ++ tokWords hdr
  | .dpost hdr a => [hdrWord hdr 0 0x39 (a.toNat * 0x40)] ++ tokWords hdr
  | .dcal hdr d a => [hdrWord hdr 0 0x39 (0x10000 + d.toNat * 0x800 + a.toNat * 0x40)] ++ tokWords hdr
  | .drun hdr cg cgv a b => [hdrWord hdr 0 0x39 (0x20000 + cg.toNat * 0x800 + cgv.toNat * 0x4000 + a.toNat * 0x40 + b.toNat * 0x2)] ++ tokWords hdr
  | .dstat hdr d a sel => [hdrWord hdr 0 0x39 (0x30000 + d.toNat * 0x800 + a.toNat * 0x40 + sel.toNat * 0x2)] ++ tokWords hdr
  | .fred hdr a cg cgv => [hdrWord hdr 0 0x3a (a.toNat * 0x40 + cg.toNat * 0x8 + cgv.toNat * 0x4)] ++ tokWords hdr
  | .jpost hdr d a b => [hdrWord hdr 0 0x3b (d.toNat * 0x800 + a.toNat * 0x40 + b.toNat * 0x2)] ++ tokWords hdr
  | .jwait hdr d a b => [hdrWord hdr 0 0x3b (0x10000 + d.toNat * 0x800 + a.toNat * 0x40 + b.toNat * 0x2)] ++ tokWords hdr
  | .mset hdr fa fb sr => [hdrWord hdr 0 0x40 (fa.toNat * 0x1000 + fb.toNat * 0x100 + sr.toNat * 0x20)] ++ tokWords hdr
  | .mzero hdr n disc => [hdrWord hdr 0 0x41 (n.toNat * 0x800 + disc.toNat * 0x400)] ++ tokWords hdr
  | .mstart hdr => [hdrWord hdr 0 0x41 (0x10000)] ++ tokWords hdr
  | .mmul hdr a b n tb => [hdrWord hdr 0 0x42 (a.toNat * 0x800 + b.toNat * 0x40 + n.toNat * 0x2 + tb.toNat)] ++ tokWords hdr
  | .mmulc hdr d e b tb => [hdrWord hdr 0 0x43 (d.toNat * 0x800 + e.toNat * 0x40 + b.toNat * 0x2 + tb.toNat)] ++ tokWords hdr
  | .mrot hdr d e => [hdrWord hdr 0 0x43 (0x10000 + d.toNat * 0x800 + e.toNat * 0x40)] ++ tokWords hdr
  | .mdrain hdr hd n fmt part sigma => [hdrWord hdr 1 0x44 (hd.toNat * 0x800 + n.toNat * 0x40 + fmt.toNat * 0x4 + part.toNat), sigma.toNat] ++ tokWords hdr
  | .mtopk hdr n c k clr => [hdrWord hdr 0 0x45 (n.toNat * 0x800 + c.toNat * 0x40 + k.toNat * 0x8 + clr.toNat * 0x4)] ++ tokWords hdr
  | .mtopkrd hdr d i => [hdrWord hdr 0 0x45 (0x10000 + d.toNat * 0x800 + i.toNat * 0x40)] ++ tokWords hdr
  | .mtopkrdT hdr hd => [hdrWord hdr 0 0x45 (0x10000 + 4 + hd.toNat * 0x800)] ++ tokWords hdr
  | .mkat hdr seed slo shi => [hdrWord hdr 2 0x46 (seed.toNat), slo.toNat, shi.toNat] ++ tokWords hdr
  | .macc hdr d e add => [hdrWord hdr 0 0x47 (d.toNat * 0x800 + e.toNat * 0x40 + add.toNat * 0x20)] ++ tokWords hdr
  | .mldacc hdr n hd half => [hdrWord hdr 0 0x47 (0x10000 + n.toNat * 0x800 + hd.toNat * 0x40 + half.toNat * 0x20)] ++ tokWords hdr
  | .mstacc hdr n hd half => [hdrWord hdr 0 0x47 (0x20000 + n.toNat * 0x800 + hd.toNat * 0x40 + half.toNat * 0x20)] ++ tokWords hdr
  | .vadd hdr d a b k => [hdrWord hdr 0 0x50 (d.toNat * 0x10000 + a.toNat * 0x800 + b.toNat * 0x40 + k.toNat * 0x8)] ++ tokWords hdr
  | .vsub hdr d a b k => [hdrWord hdr 0 0x50 (0x1 + d.toNat * 0x10000 + a.toNat * 0x800 + b.toNat * 0x40 + k.toNat * 0x8)] ++ tokWords hdr
  | .vmul hdr d a b k => [hdrWord hdr 0 0x50 (0x2 + d.toNat * 0x10000 + a.toNat * 0x800 + b.toNat * 0x40 + k.toNat * 0x8)] ++ tokWords hdr
  | .vmin hdr d a b k => [hdrWord hdr 0 0x50 (0x3 + d.toNat * 0x10000 + a.toNat * 0x800 + b.toNat * 0x40 + k.toNat * 0x8)] ++ tokWords hdr
  | .vmax hdr d a b k => [hdrWord hdr 0 0x50 (0x4 + d.toNat * 0x10000 + a.toNat * 0x800 + b.toNat * 0x40 + k.toNat * 0x8)] ++ tokWords hdr
  | .vfma hdr d a b k => [hdrWord hdr 0 0x51 (d.toNat * 0x10000 + a.toNat * 0x800 + b.toNat * 0x40 + k.toNat * 0x8)] ++ tokWords hdr
  | .vfmaN hdr d a b k => [hdrWord hdr 0 0x51 (0x1 + d.toNat * 0x10000 + a.toNat * 0x800 + b.toNat * 0x40 + k.toNat * 0x8)] ++ tokWords hdr
  | .vabs hdr d a k => [hdrWord hdr 0 0x52 (d.toNat * 0x10000 + a.toNat * 0x800 + k.toNat * 0x8)] ++ tokWords hdr
  | .vneg hdr d a k => [hdrWord hdr 0 0x52 (0x1 + d.toNat * 0x10000 + a.toNat * 0x800 + k.toNat * 0x8)] ++ tokWords hdr
  | .vrcp hdr d a k => [hdrWord hdr 0 0x52 (0x2 + d.toNat * 0x10000 + a.toNat * 0x800 + k.toNat * 0x8)] ++ tokWords hdr
  | .vrsq hdr d a k => [hdrWord hdr 0 0x52 (0x3 + d.toNat * 0x10000 + a.toNat * 0x800 + k.toNat * 0x8)] ++ tokWords hdr
  | .vexp2 hdr d a k => [hdrWord hdr 0 0x52 (0x4 + d.toNat * 0x10000 + a.toNat * 0x800 + k.toNat * 0x8)] ++ tokWords hdr
  | .vlog2 hdr d a k => [hdrWord hdr 0 0x52 (0x5 + d.toNat * 0x10000 + a.toNat * 0x800 + k.toNat * 0x8)] ++ tokWords hdr
  | .vscale hdr d a b k => [hdrWord hdr 0 0x52 (0x6 + d.toNat * 0x10000 + a.toNat * 0x800 + b.toNat * 0x40 + k.toNat * 0x8)] ++ tokWords hdr
  | .vcmp hdr m c a b k => [hdrWord hdr 0 0x53 (m.toNat * 0x10000 + c.toNat + a.toNat * 0x800 + b.toNat * 0x40 + k.toNat * 0x8)] ++ tokWords hdr
  | .vsel hdr d a b k => [hdrWord hdr 0 0x54 (d.toNat * 0x10000 + a.toNat * 0x800 + b.toNat * 0x40 + k.toNat * 0x8)] ++ tokWords hdr
  | .viadd hdr d a b k ew u sat => [hdrWord hdr 1 0x55 (d.toNat * 0x800 + a.toNat * 0x40 + b.toNat * 0x2), k.toNat + ew.toNat * 0x8 + u.toNat * 0x20 + sat.toNat * 0x40] ++ tokWords hdr
  | .visub hdr d a b k ew u sat => [hdrWord hdr 1 0x55 (0x10000 + d.toNat * 0x800 + a.toNat * 0x40 + b.toNat * 0x2), k.toNat + ew.toNat * 0x8 + u.toNat * 0x20 + sat.toNat * 0x40] ++ tokWords hdr
  | .vimul hdr d a b k ew u sat => [hdrWord hdr 1 0x55 (0x20000 + d.toNat * 0x800 + a.toNat * 0x40 + b.toNat * 0x2), k.toNat + ew.toNat * 0x8 + u.toNat * 0x20 + sat.toNat * 0x40] ++ tokWords hdr
  | .vshl hdr d a b k ew u => [hdrWord hdr 1 0x55 (0x30000 + d.toNat * 0x800 + a.toNat * 0x40 + b.toNat * 0x2), k.toNat + ew.toNat * 0x8 + u.toNat * 0x20] ++ tokWords hdr
  | .vshr hdr d a b k ew u => [hdrWord hdr 1 0x55 (0x40000 + d.toNat * 0x800 + a.toNat * 0x40 + b.toNat * 0x2), k.toNat + ew.toNat * 0x8 + u.toNat * 0x20] ++ tokWords hdr
  | .vsar hdr d a b k ew u => [hdrWord hdr 1 0x55 (0x50000 + d.toNat * 0x800 + a.toNat * 0x40 + b.toNat * 0x2), k.toNat + ew.toNat * 0x8 + u.toNat * 0x20] ++ tokWords hdr
  | .vand hdr d a b k ew u => [hdrWord hdr 1 0x55 (0x60000 + d.toNat * 0x800 + a.toNat * 0x40 + b.toNat * 0x2), k.toNat + ew.toNat * 0x8 + u.toNat * 0x20] ++ tokWords hdr
  | .vor hdr d a b k ew u => [hdrWord hdr 1 0x55 (0x70000 + d.toNat * 0x800 + a.toNat * 0x40 + b.toNat * 0x2), k.toNat + ew.toNat * 0x8 + u.toNat * 0x20] ++ tokWords hdr
  | .vxor hdr d a b k ew u => [hdrWord hdr 1 0x55 (0x80000 + d.toNat * 0x800 + a.toNat * 0x40 + b.toNat * 0x2), k.toNat + ew.toNat * 0x8 + u.toNat * 0x20] ++ tokWords hdr
  | .vaddw hdr d a b k w => [hdrWord hdr 0 0x56 (d.toNat * 0x10000 + a.toNat * 0x800 + b.toNat * 0x40 + k.toNat * 0x8 + w.toNat)] ++ tokWords hdr
  | .vcvt hdr d a k fr tgt => [hdrWord hdr 1 0x57 (d.toNat * 0x10000 + a.toNat * 0x800 + k.toNat * 0x8), fr.toNat + tgt.toNat * 0x10] ++ tokWords hdr
  | .vscan hdr d a k o iw u aw sat => [hdrWord hdr 1 0x58 (d.toNat * 0x10000 + a.toNat * 0x800 + k.toNat * 0x8 + o.toNat), iw.toNat + u.toNat * 0x4 + aw.toNat * 0x8 + sat.toNat * 0x10] ++ tokWords hdr
  | .vred hdr d a k o iw u aw sat => [hdrWord hdr 1 0x59 (d.toNat * 0x10000 + a.toNat * 0x800 + k.toNat * 0x8 + o.toNat), iw.toNat + u.toNat * 0x4 + aw.toNat * 0x8 + sat.toNat * 0x10] ++ tokWords hdr
  | .vbcast hdr d a k => [hdrWord hdr 0 0x5a (d.toNat * 0x10000 + a.toNat * 0x800 + k.toNat * 0x8)] ++ tokWords hdr
  | .vbcastL hdr d a b k => [hdrWord hdr 0 0x5a (0x1 + d.toNat * 0x10000 + a.toNat * 0x800 + b.toNat * 0x40 + k.toNat * 0x8)] ++ tokWords hdr
  | .vperm hdr d a b k => [hdrWord hdr 0 0x5a (0x2 + d.toNat * 0x10000 + a.toNat * 0x800 + b.toNat * 0x40 + k.toNat * 0x8)] ++ tokWords hdr
  | .vrotl hdr d a b k => [hdrWord hdr 0 0x5a (0x3 + d.toNat * 0x10000 + a.toNat * 0x800 + b.toNat * 0x40 + k.toNat * 0x8)] ++ tokWords hdr
  | .viota hdr d a k => [hdrWord hdr 0 0x5a (0x4 + d.toNat * 0x10000 + a.toNat * 0x800 + k.toNat * 0x8)] ++ tokWords hdr
  | .vcompress hdr d a k => [hdrWord hdr 0 0x5b (d.toNat * 0x10000 + a.toNat * 0x800 + k.toNat * 0x8)] ++ tokWords hdr
  | .vexpand hdr d a k => [hdrWord hdr 0 0x5b (0x1 + d.toNat * 0x10000 + a.toNat * 0x800 + k.toNat * 0x8)] ++ tokWords hdr
  | .vld hdr d hd c cons k => [hdrWord hdr 1 0x5c (d.toNat * 0x800 + hd.toNat * 0x40 + c.toNat * 0x2 + cons.toNat), k.toNat] ++ tokWords hdr
  | .vldx hdr d hd b cons k => [hdrWord hdr 1 0x5c (0x10000 + d.toNat * 0x800 + hd.toNat * 0x40 + b.toNat * 0x2 + cons.toNat), k.toNat] ++ tokWords hdr
  | .vst hdr a hd c k => [hdrWord hdr 1 0x5d (a.toNat * 0x800 + hd.toNat * 0x40 + c.toNat * 0x2), k.toNat] ++ tokWords hdr
  | .vins hdr d a l => [hdrWord hdr 0 0x5e (d.toNat * 0x800 + a.toNat * 0x40 + l.toNat * 0x2)] ++ tokWords hdr
  | .vext hdr d a l u => [hdrWord hdr 0 0x5e (0x10000 + d.toNat * 0x800 + a.toNat * 0x40 + l.toNat * 0x2 + u.toNat)] ++ tokWords hdr
  | .vmpush hdr k => [hdrWord hdr 0 0x5f (k.toNat * 0x8)] ++ tokWords hdr
  | .vminv hdr => [hdrWord hdr 0 0x5f (0x1)] ++ tokWords hdr
  | .vmpop hdr => [hdrWord hdr 0 0x5f (0x2)] ++ tokWords hdr
  | .brmz hdr neg off syl => [hdrWord hdr 0 0x60 (neg.toNat * 0x20000 + off.toNat * 0x10 + syl.toNat)] ++ tokWords hdr
  | .errInject .. | .replay .. | .commandStart .. | .commandFinish .. | .lineLand .. | .linePerformed .. | .tileFree ..
  | .taskStart .. | .closingEnd .. | .faultDeliver .. | .dealChunk .. | .entryRead .. | .write .. | .enable ..
  | .reset .. | .cread .. | .completionRecord .. | .registerWrite .. | .apertureAccess .. | .launchPacket .. | .mailboxXinv ..
  | .mailboxXinvForced .. | .mailboxXpin .. | .mailboxXunpin .. | .descinv .. | .hold .. | .release .. | .preempt ..
  | .preemptTimeout .. | .resume .. | .restore .. | .pushsave .. | .drop .. | .adopt .. | .quarantineRelease ..
  | .signReport .. | .mailboxUnassigned .. | .retreq .. | .shrink .. | .retirementDeadline .. | .relocate .. | .reInterleave ..
  | .close .. | .bankRetirement .. | .syncWordMove .. | .homeMove .. | .linkFailure .. | .linkTimeout .. | .linkRecovery ..
  | .flitReceive .. | .retrainEnd .. | .heartbeat .. | .declareDead .. | .standbyTakeover | .posting .. | .calendar ..
  | .calendarAck .. | .commit .. | .drunEntry .. | .fredContribution .. | .reductionDeadline .. | .remoteAtomic .. | .atomicReply ..
  | .atomicRetry .. | .replyCacheExpiry .. | .buddyImage .. | .markKey .. | .clear .. | .moduleReset | .bootStage ..
  | .illegal .. | .awaitTime .. | .quota .. | .knownAnswerService .. | .retrainAtRequest .. | .measurementExtend .. => []

/-- The syllables of a table word: bit 0 is the least significant bit of the first syllable. -/
def tableSyls (w : Nat) : List Nat :=
  [w % 0x100000000, w / 0x100000000 % 0x100000000, w / 0x10000000000000000 % 0x100000000,
    w / 0x1000000000000000000000000 % 0x100000000]

/-- The instruction the decoder reads from a table word of `nbits` bits, every bit above them 0. -/
def decodeTableWord (nbits w : Nat) : Option Instr :=
  match decode none (tableSyls (w % 2 ^ nbits)) with
  | .ok i _ => some i
  | .bad .. => none

end Sys2Proof
end

