-- ==== Sys2Proof/Config.lean ====
section
/-! DEFINITION. What one K9 package fixes, and the free values: what the manual leaves open and the model must not
choose. A free value is a constant with no body, so nothing can be proved of it. -/

namespace Sys2Proof.Config

/-- Bytes of module memory (R360). -/
def moduleBytes : Nat := 3 * 2 ^ 40
/-- Dies, cores of a die and task slots of a core (R1, R320). -/
def dies : Nat := 4
def coresPerDie : Nat := 48
def slotsPerCore : Nat := 4
def cores : Nat := 192
def slots : Nat := 768
/-- Entries of a command queue (R10) and the largest token count (R11). -/
def queueDepth : Nat := 64
def tokenMax : Nat := 16
/-- Depths of the data and branch-outcome queues (R13). -/
def dqAxDepth : Nat := 32
def dqXaDepth : Nat := 16
def bqDepth : Nat := 64
/-- Packages of a fabric domain (R341). -/
def packages : Nat := 288

/-- FREE VALUE. What the `n`-th read of a state word of a ring in use returns (R194: no meaning a program may use;
DESIGN CHOICE, log 14). -/
opaque freeRingWord : Nat → BitVec 64
/-- FREE FUNCTION. The Reed-Solomon correction of a flit, whose code parameters R342 does not give: the corrected
256 bytes (DESIGN CHOICE, log 15). -/
opaque rsCorrect : List Byte → List Byte
/-- FREE FUNCTION. The SLH-DSA signature of the device's identity key (R358), whose key is per device (DESIGN CHOICE, log 15). -/
opaque signature : List Byte → Nat → Byte
/-- FREE VALUE. A word the manual names and gives no value: the signature that `MKAT` reports when an uncorrectable error
falls into its run (R243), and `%fault.pc` of a CAPACITY fault, which no instruction raises (R68, R176; DESIGN CHOICE, log 15). -/
opaque freeWord : Nat → BitVec 64
/-- FREE VALUE. Which line a full data cache replaces, and which descriptor a full descriptor cache would (R116, R203:
not specified; DESIGN CHOICE, log 8). -/
opaque evictPick : Nat → Nat
/-- FREE VALUE. The base of the service region that stage 2 registers (R316), which no rule gives (DESIGN CHOICE, log 15). -/
opaque serviceBase : Nat
/-- FREE VALUE. The device serial of the attestation report, and byte `i` of the public key (R358; DESIGN CHOICE, log 15). -/
opaque deviceSerial : BitVec 32
opaque publicKey : Nat → Byte
/-- FREE VALUE. Word `w` of the telemetry of island `i` at fabric time `t` (R359, no reset value and no rule of
its value; DESIGN CHOICE, log 15). -/
opaque telemetry : Word → Nat → Nat → Word

/-- FREE VALUE. The result of `VEXP2` and of `VLOG2` of a pattern for which the bounds computed do not decide the
rounding (DESIGN CHOICE, log 16). -/
opaque expTie : Nat → Nat
opaque logTie : Nat → Nat

end Sys2Proof.Config
end

