-- ==== Sys2Proof/Machine/Map.lean ====
section
/-! DEFINITION. Sparse maps in one canonical form: a list of (key, value) pairs with strictly rising keys and no
entry equal to the value an unlisted key reads as. Memory and every sparse part of the state are such maps. -/

namespace Sys2Proof.Machine

/-- A sparse map from natural numbers. What an unlisted key reads as is given to each operation. -/
abbrev SMap (α : Type) := List (Nat × α)


/-- The value at key `k`; `d` where the map lists none (DESIGN CHOICE, log 1). -/
def SMap.get {α : Type} (m : SMap α) (d : α) (k : Nat) : α :=
  match m with
  | [] => d
  | (j, v) :: r => if j = k then v else SMap.get r d k

/-- The map without its entries at `k`. -/
def SMap.erase {α : Type} (m : SMap α) (k : Nat) : SMap α :=
  match m with
  | [] => []
  | (j, v) :: r => if j = k then SMap.erase r k else (j, v) :: SMap.erase r k

/-- The entry `(k, v)` put before the first larger key. -/
def SMap.insert {α : Type} (m : SMap α) (k : Nat) (v : α) : SMap α :=
  match m with
  | [] => [(k, v)]
  | (j, w) :: r => if k < j then (k, v) :: (j, w) :: r else (j, w) :: SMap.insert r k v

/-- Writes `v` at `k`, keeping the canonical form: writing what an unlisted key reads as removes the entry. -/
def SMap.set {α : Type} [DecidableEq α] (m : SMap α) (d : α) (k : Nat) (v : α) : SMap α :=
  if v = d then SMap.erase m k else SMap.insert (SMap.erase m k) k v

/-- Changes the value at `k`. -/
def SMap.upd {α : Type} [DecidableEq α] (m : SMap α) (d : α) (k : Nat) (f : α → α) : SMap α :=
  SMap.set m d k (f (SMap.get m d k))

/-- Every key of the map lies above `k`. -/
def SMap.above {α : Type} (k : Nat) (m : SMap α) : Bool := m.all fun e => decide (k < e.1)

/-- The canonical form: keys strictly rising, and no entry equal to the default. -/
def SMap.wf {α : Type} [DecidableEq α] (d : α) : SMap α → Bool
  | [] => true
  | (k, v) :: r => decide (v ≠ d) && SMap.above k r && SMap.wf d r


/-- `f` applied `n` times along `0, 1, …, n-1`. -/
def iter {σ : Type} : Nat → (Nat → σ → σ) → σ → σ
  | 0, _, s => s
  | n + 1, f, s => f n (iter n f s)

/-- The numbers `a, a+1, …, a+n-1`, in order. -/
def upto : Nat → Nat → List Nat
  | 0, _ => []
  | n + 1, a => a :: upto n (a + 1)

/-- The first element that satisfies `p`, with its index. -/
def findIdx {α : Type} (p : α → Bool) : List α → Nat → Option (Nat × α)
  | [], _ => none
  | x :: r, i => if p x then some (i, x) else findIdx p r (i + 1)

/-- The list with the element at `i` replaced. -/
def putAt {α : Type} (l : List α) (i : Nat) (x : α) : List α :=
  match l, i with
  | [], _ => []
  | _ :: r, 0 => x :: r
  | y :: r, n + 1 => y :: putAt r n x

/-- `max` over a list of numbers, 0 for none. -/
def maxOf (l : List Nat) : Nat := l.foldl max 0

/-- The sum of a list of numbers. -/
def sumOf (l : List Nat) : Nat := l.foldl (· + ·) 0

/-- The least power count `c` with `n ≤ c * d`, that is the quotient rounded up. -/
def ceilDiv (n d : Nat) : Nat := if d = 0 then 0 else (n + d - 1) / d

end Sys2Proof.Machine
end

