-- ==== Sys2Proof/Machine/State.lean ====
section
/-! DEFINITION. The state of one K9 package as plain data, the reasons a step can stop, and the state after a module
reset. -/

namespace Sys2Proof.Machine

/-- Why the model stops although the manual gives no such stop. -/
inductive Fault where
  /-- Raised by an access whose translation names module memory at or beyond 3 TiB, which R360 says does not exist
  and for which no rule gives an effect (DESIGN CHOICE, log 19). Safe: the model stops where the hardware does something unknown. -/
  | noMemory (pa : Nat)
deriving DecidableEq, Repr

/-- Why the model refuses to run an instruction. -/
inductive Refusal where
  /-- Raised by an arm of exec whose instruction has no meaning yet. Safe: the model stops. -/
  | notModelled (mnemonic : String)
deriving DecidableEq, Repr

/-- Bytes by address: a list of `Host.Cell` in canonical form, unlisted bytes reading 0 (DESIGN CHOICE, log 1). -/
abbrev Memory := SMap Byte

/-- Memory holds its canonical form. -/
abbrev Memory.wf (m : Memory) : Prop := SMap.wf (0 : Byte) m = true

/-- What a translation names: the tier of its page (R311: 0 module, 1 host, 2 synchronisation, 3 peer), the peer
package, and the physical address. -/
structure Loc where
  tier : Nat := 0
  pkg : Nat := 0
  pa : Nat := 0
deriving DecidableEq, Repr

/-- A leaf of a page-table walk (R311). `base` is the physical address of the page, `bits` the log2 of its size. -/
structure Leaf where
  bits : Nat := 16
  base : Nat := 0
  write : Bool := false
  kind : Nat := 0
  tier : Nat := 0
  dev : Bool := false
  pinned : Bool := false
  devOnly : Bool := false
  pkg : Nat := 0
  pte : Nat := 0
deriving DecidableEq, Repr

/-- A tensor descriptor as the copy engine reads it (R203). -/
structure TDesc where
  tid : Nat := 0
  base : Nat := 0
  fmt : Nat := 0
  mark : Bool := false
  disc : Bool := false
  rank : Nat := 0
  pad : Nat := 0
  d0 : Nat := 1
  d1 : Nat := 1
  d2 : Nat := 1
  d3 : Nat := 1
  s1 : Nat := 0
  s2 : Nat := 0
  s3 : Nat := 0
  scales : Nat := 0
  cb : BitVec 256 := 0
deriving DecidableEq, Repr

/-- The loop buffer of a sequencer (R145): the code addresses issued since the last taken branch, newest first, and
the captured body: its first and last code address and its lines by line index. -/
structure LoopBuf where
  trail : List Word := []
  first : Word := 0
  last : Word := 0
  lines : SMap (BitVec 512) := []
deriving DecidableEq, Repr

/-- One sequencer of a slot (R30, R151): registers, predicates (bit 0 is `p0`), program counter, the registers that
wait for an engine (R33), the SIG masks of finished instructions held at retirement (R12), whether it waits in `AWAIT`
(R23), the count of `%stat.issue` (R176), and the marker of a `DRAIN` that waits (R118): the number of the next
command when it was placed; and whether it waits in `SHAPE` (R175). -/
structure Seq where
  g : Vector Word 32 := Vector.replicate 32 0
  p : BitVec 8 := 1
  pc : Word := 0
  awG : BitVec 32 := 0
  awP : BitVec 8 := 0
  held : List (BitVec 8) := []
  parked : Bool := false
  issued : Word := 0
  loop : LoopBuf := ⟨[], 0, 0, []⟩
  drain : Option Nat := none
  shaping : Bool := false
deriving DecidableEq, Repr

/-- The states of a task slot (R15); MEET says which sequencer waits at `RDV`. -/
inductive SlotSt where
  | free | start | solo | both | meetA | meetX | closing | saving | killed
deriving DecidableEq, Repr

/-- An entry of an engine queue (R12, R33, R55, R115, R328): the instruction, the code address that pushed it, its
register operands as read at issue in field order, the copy-group generation under which it issued, the range slots it
is tagged with, its number in the order of pushes, and how far it has got: lines sent and lines done, the data of
lines sent and not yet performed, the mark key it started under (R357), whether it has finished and waits for its SIG
to fit (R12), and `aux`: the reduction of a `FRED`, or the bytes a saved `DRUN` had counted as landed. -/
structure Cmd where
  instr : Instr
  pc : Word := 0
  ops : List Word := []
  cgGen : Nat := 0
  tags : BitVec 16 := 0
  td : TDesc := {}
  started : Bool := false
  charged : Bool := false
  waiting : Bool := false
  recorded : Bool := false
  ended : Bool := false
  done : Nat := 0
  sent : Nat := 0
  handles : List Word := []
  buf : SMap (BitVec 1024) := []
  key : Option (BitVec 256) := none
  num : Nat := 0
  aux : Nat := 0
deriving DecidableEq, Repr

/-- A copy group (R55). `wide` says whether a copy of the current generation names scope cluster or wider. -/
structure CGrp where
  exp : BitVec 48 := 0
  land : BitVec 48 := 0
  gen : BitVec 16 := 0
  pend : BitVec 16 := 0
  wide : Bool := false
deriving DecidableEq, Repr

/-- A range slot (R114): the bytes it covers, and what it was bound to. -/
structure Rng where
  bound : Bool := false
  tensor : Bool := false
  ident : Word := 0
  len : Nat := 0
  lo : Nat := 0
  hi : Nat := 0
deriving DecidableEq, Repr

/-- CONFIG of the matrix engine (R229): operand formats and semiring. -/
structure MCfg where
  fa : BitVec 4 := 2
  fb : BitVec 4 := 2
  sr : BitVec 3 := 0
deriving DecidableEq, Repr

/-- The running top-k (R229): k, and by row the entries (value, column index) in rank order. -/
structure TopK where
  k : Nat := 0
  rows : SMap (List (Lane × Lane)) := []
deriving DecidableEq, Repr

/-- The tags of an accumulator (R229): TYPE (INT32 or FP32) and DISC. -/
structure AccTag where
  int : Bool := false
  disc : Bool := false
deriving DecidableEq, Repr

/-- The window of a slot (R229, R232): retained commands, the reservations (handle, share; 4 is the open share), and
the snapshots of `MSTART`. -/
structure Window where
  opened : Bool := false
  retained : List Cmd := []
  charges : List (Word × Nat) := []
  cfg : MCfg := {}
  topk : TopK := {}
deriving DecidableEq, Repr

/-- The fault registers of a task (R176, R177). -/
structure FaultRegs where
  cause : BitVec 8 := 0
  addr : Word := 0
  pc : Word := 0
  info : Word := 0
  ret : Word := 0
  handler : Bool := false
deriving DecidableEq, Repr

/-- A fault raised: cause, reason, address, code address, source, whether it is asynchronous, CODE and ITAG (R177), and
whether it stood pending when another was delivered to the handler, so that it waits for `ERET` (R318). -/
structure Trap where
  cause : BitVec 8
  reason : BitVec 8 := 0
  addr : Word := 0
  pc : Word := 0
  source : BitVec 3 := 0
  async : Bool := false
  code : BitVec 16 := 0
  itag : BitVec 8 := 0
  later : Bool := false
deriving DecidableEq, Repr

/-- Who a slot's task is (R14, R176, R291, R327): its identity, its job and record, and the kernel reading of its
job. -/
structure Task where
  taskId : Word := 0
  job : Nat := 0
  queue : Nat := 0
  seq : BitVec 32 := 0
  record : Nat := 0
  member : Nat := 0
  spr : Nat := 1
  tenant : Nat := 0
  asid : Nat := 0
  flags : BitVec 5 := 0
  priv : Bool := false
  base : Nat := 0
  lines : Nat := 0
  entry : Word := 0
  handler : Word := 0
  trapMask : BitVec 32 := 0
  part : Nat := 0
  args : Nat := 0
  recsz : Nat := 0
deriving DecidableEq, Repr

/-- A pre-emption request that waits for a yield point (R324): when it becomes full, and whether the mailbox waits
for it. -/
structure PreReq where
  deadline : Word := 0
  mailbox : Bool := false
deriving DecidableEq, Repr

/-- A task slot. -/
structure Slot where
  st : SlotSt := .free
  a : Seq := {}
  x : Seq := {}
  tok : Vector Nat 8 := Vector.replicate 8 0
  dqAx : List Word := []
  dqXa : List Word := []
  bqAx : List Bool := []
  bqXa : List Bool := []
  cq : List Cmd := []
  mq : List Cmd := []
  vq : List Cmd := []
  cAside : List Cmd := []
  mAside : List Cmd := []
  vAside : List Cmd := []
  flight : List Cmd := []
  nextCmd : Nat := 0
  cg : Vector CGrp 8 := Vector.replicate 8 {}
  rng : SMap Rng := []
  locals : SMap Nat := []
  homes : SMap Nat := []
  cfg : MCfg := {}
  acc : SMap (BitVec 4096) := []
  accTag : SMap AccTag := []
  win : Window := {}
  topk : TopK := {}
  v : SMap (BitVec 4096) := []
  m : SMap Mask := []
  mstack : List Mask := []
  quotaT : Nat := 0
  grantT : Nat := 0
  quotaA : Nat := 0
  grantA : Nat := 0
  grantV : Nat := 0
  overCap : Bool := false
  fault : FaultRegs := {}
  overcount : BitVec 32 := 0
  statNum : BitVec 8 := 0
  routeDepth : BitVec 4 := 1
  routeDrops : BitVec 32 := 0
  task : Task := {}
  tin : Option Nat := none
  tinUsed : SMap Bool := []
  groups : List Nat := []
  pre : Option PreReq := none
  ratom : Option Nat := none
  pending : List Trap := []
  xHeld : Bool := false
deriving DecidableEq, Repr

/-- The states of a tile slot (R46), PARKED and GONE being no state of a slot. -/
inductive TileSt where
  | free | filling | live | settling | vacated
deriving DecidableEq, Repr

/-- A reader share (R44): who it names (C in [3:2], T in [1:0]; none for an unused share), n and p. -/
structure Share where
  who : Option Nat := none
  n : Nat := 0
  p : Nat := 0
deriving DecidableEq, Repr

/-- A logical tile slot (R37, R39, R44, R46, R54). `left` says its last tile was parked or saved from it (R58), `parking`
that a `PARK` of it runs (R47). -/
structure Tile where
  serial : BitVec 12 := 0
  st : TileSt := .free
  owner : Nat := 0
  taskId : Word := 0
  tenant : Nat := 0
  asid : Nat := 0
  fmt : Nat := 0
  tid : Nat := 0
  cb : BitVec 256 := 0
  held : Bool := false
  disc : Bool := false
  refill : Option (List Word) := none
  orphan : Bool := false
  share : Vector Share 5 := Vector.replicate 5 {}
  lines : SMap (BitVec 1024) := []
  full : BitVec 288 := 0
  drained : BitVec 4 := 0
  left : Bool := false
  parking : Bool := false
deriving DecidableEq, Repr

/-- A line of the data cache (R99, R103, R116): data, dirty, the slots that touched it, its virtual address, and the
stores not yet at their home (number, slot, tags). The key under which a core holds it says where its home is. -/
structure DLine where
  data : BitVec 1024 := 0
  dirty : Bool := false
  uo : Bool := false
  mask : BitVec 4 := 0
  va : Nat := 0
  stores : List (Nat × Nat × BitVec 16) := []
deriving DecidableEq, Repr

/-- One arbiter (R22): deficits by tenant, and the time of the last grant by slot. -/
structure Arb where
  d : SMap Int := []
  last : SMap Nat := []
deriving DecidableEq, Repr

/-- The retirement in progress in a core and the requests behind it (R66, R336): its phase, array and bank, its
deadline, the requests queued, the counts and REFUSED of RETSTAT, the logical slots still to be moved, the one under
migration (R67), and the registers RETREQ and RETDL. -/
structure Ret where
  phase : Nat := 0
  array : Nat := 0
  bank : Nat := 0
  reqArray : Nat := 0
  reqBank : Nat := 0
  deadline : Word := 0
  queue : List (Nat × Nat) := []
  relaunched : Nat := 0
  failed : Nat := 0
  refused : Bool := false
  todo : List Nat := []
  moving : Option Nat := none
  retdl : BitVec 24 := 100
deriving DecidableEq, Repr

/-- One entry of an error log (R332). -/
structure ErrEnt where
  log0 : Word := 0
  log1 : Word := 0
deriving DecidableEq, Repr

/-- A core. -/
structure Core where
  tiles : SMap Tile := []
  frame : SMap (Option Nat) := []
  capTile : Nat := 512
  capAcc : Nat := 32
  capSlots : Nat := 4
  capD : Nat := 256
  capI : Nat := 128
  tileBanks : BitVec 32 := BitVec.allOnes 32
  parBanks : BitVec 4 := BitVec.allOnes 4
  accBanks : BitVec 8 := BitVec.allOnes 8
  vecBanks : BitVec 4 := BitVec.allOnes 4
  dBanks : BitVec 8 := BitVec.allOnes 8
  iBanks : BitVec 4 := BitVec.allOnes 4
  ret : Ret := {}
  quotaT : SMap Nat := []
  quotaA : SMap Nat := []
  roles : BitVec 4 := 8
  dc : SMap DLine := []
  nextStore : Nat := 0
  desc : SMap TDesc := []
  arbA : Arb := {}
  arbX : Arb := {}
  arbC : Arb := {}
  arbM : Arb := {}
  arbV : Arb := {}
  stall : SMap Word := []
  stallAt : SMap Word := []
  errSel : BitVec 24 := 0
  errLog : SMap (List ErrEnt) := []
  errInj : Word := 0
  health : BitVec 2 := 0
  katFail : BitVec 8 := 0
  suspectAt : Option Word := none
deriving DecidableEq, Repr

/-- What a waiter at a synchronisation engine wants (R123, R125, R127): the operations of full and empty words, a ring
reservation or take, and a barrier. -/
inductive WantKind where
  | sste | sldf | sldw | rres (n : Nat) | rtake (p : PReg) | gbar
deriving DecidableEq, Repr

/-- A waiter (R25): the slot, its instruction's header and destination, its code address and Next, the value to store,
and the scope of its acquire or release. -/
structure Waiter where
  slot : Nat
  kind : WantKind
  h : Hdr
  d : Reg
  pc : Word
  next : Word
  val : Word
  scope : Nat
deriving DecidableEq, Repr

/-- A group (R127, R192, R275): whether it exists, its members by TASKID with whether each takes part in the open
generation and has arrived, whether a generation is open, and the waiters in arrival order. -/
structure Group where
  live : Bool := false
  members : List (Word × Bool × Bool) := []
  opened : Bool := false
  waiters : List Waiter := []
deriving DecidableEq, Repr

/-- The state of a ring entry that is in use (R125, R126). -/
inductive EntSt where
  | reserved (task : Word) | published | hole | taken (task : Word) (hole : Bool) | freed
deriving DecidableEq, Repr

/-- A ring (R125, R194): entry states by entry number, and the waiters in arrival order. -/
structure Ring where
  ent : SMap (Option EntSt) := []
  waiters : List Waiter := []
deriving DecidableEq, Repr

/-- The synchronisation engines (R123, R65): words and full bits by word number (physical bits [23:3]), waiters, the
objects in use by word number, live banks by die, and for each retired bank its first word number and how many of its words
have moved to the overflow area. -/
structure Sync where
  word : SMap Word := []
  full : SMap Bool := []
  wait : SMap (List Waiter) := []
  groups : SMap Group := []
  rings : SMap Ring := []
  banks : SMap (BitVec 16) := []
  spill : SMap Nat := []
deriving DecidableEq, Repr

/-- Bring-up and the global registers of the control window (R301, R316). -/
structure Boot where
  stage : Nat := 0
  asidBase : Nat := 0
  memWin : Nat := 0
  svcBase : Nat := 0
  svcLen : Nat := 0
  mbOp : BitVec 4 := 0
  mbBusy : Bool := false
  mba : Word := 0
  mbb : Word := 0
  mbStat : BitVec 3 := 0
deriving DecidableEq, Repr

/-- A completion record that waits or is written (R304). -/
structure CRec where
  jobSeq : BitVec 32 := 0
  cause : BitVec 8 := 0
  failed : Bool := false
  late : Bool := false
  overCnt : Bool := false
  recs : Nat := 0
  user : List Word := []
  origin : Word := 0
  ftime : Word := 0
deriving DecidableEq, Repr

/-- A job queue (R302, R303, R307). -/
structure JQ where
  base : Nat := 0
  logSize : Nat := 0
  device : Bool := false
  enable : Bool := false
  owner : Nat := 0
  logC : Nat := 0
  linkStop : Bool := false
  sblk : Nat := 0
  cring : Nat := 0
  acl : Nat := 0
  write : Word := 0
  cread : Word := 0
  intr : Nat := 0
  status : Nat := 1
  read : Word := 0
  hostLast : BitVec 32 := 0
  hvalid : Bool := false
  devSeq : BitVec 32 := 0
  cwrite : Word := 0
  haltSeq : BitVec 32 := 0
  denied : BitVec 32 := 0
  prev : SMap Word := []
  waiting : List CRec := []
  history : SMap Word := []
deriving DecidableEq, Repr

/-- The states of a job card (R19). -/
inductive JobSt where
  | none | queued | blocked | eligible | dealing | running | done | failed
deriving DecidableEq, Repr

/-- A kernel header as read at the first deal (R290, R291). -/
structure KHdr where
  base : Nat := 0
  lines : Nat := 0
  entry : Word := 0
  handler : Word := 0
  trapMask : BitVec 32 := 0
  part : Nat := 0
  priv : Bool := false
deriving DecidableEq, Repr

/-- A chunk dealt to a core (its first core for a cluster): runs of records (first, count) (R20). -/
structure Chunk where
  core : Nat := 0
  runs : List (Nat × Nat) := []
deriving DecidableEq, Repr

/-- A job card (R16, R17, R19, R20). -/
structure Job where
  st : JobSt := .none
  queue : Nat := 0
  seq : BitVec 32 := 0
  field : SMap Word := []
  deps : List (Nat × Nat × Bool) := []
  doneWord : Option Nat := none
  dieMask : BitVec 4 := 0
  hdr : Option KHdr := none
  next : Nat := 0
  returned : List Nat := []
  chunks : List Chunk := []
  members : SMap Nat := []
  completed : Nat := 0
  cause : BitVec 8 := 0
  reason : BitVec 8 := 0
  late : Bool := false
  overCnt : Bool := false
  order : Nat := 0
  origin : Word := 0
  recorded : Bool := false
deriving DecidableEq, Repr

/-- A tenant function: its record, its save pool and error counters, its mark key, and its exchange set (R309, R321,
R347, R357). -/
structure Ten where
  valid : Bool := false
  weight : BitVec 4 := 0
  poolM : Nat := 0
  poolH : Nat := 0
  stall : SMap Word := []
  moves : Word := 0
  yields : Word := 0
  savePool : Nat := 0
  saveSize : Nat := 0
  corr : Word := 0
  uncorr : Word := 0
  lost : Word := 0
  key : BitVec 256 := 0
  keyWords : BitVec 4 := 0
  xset : List Nat := []
deriving DecidableEq, Repr

/-- A saved task (R322, R330), by the address of its area: who it is, the pair it left, the other areas of its set, and
whether RESUME has been asked for, with its die mask. What the area has no field for stays here: group memberships and
the remote atomic (R326, R184), an asynchronous fault held, the tin's records in use, the SIG masks held at retirement, the queue entries with their
tags and tokens, how many of each queue stand set aside, the accumulators' TYPE, the tiles without their lines, the
bytes each range slot covers, and the scope of the copy groups. -/
structure Saved where
  task : Task := {}
  kind : Nat := 0
  c : Nat := 0
  t : Nat := 0
  head : Bool := false
  linked : List Nat := []
  resume : Option (BitVec 4) := none
  order : Nat := 0
  groups : List Nat := []
  ratom : Option Nat := none
  pending : List Trap := []
  tinUsed : SMap Bool := []
  heldA : List (BitVec 8) := []
  heldX : List (BitVec 8) := []
  cmds : List (Engine × Cmd) := []
  aside : List Nat := []
  accTag : SMap AccTag := []
  tiles : List Tile := []
  rng : SMap Rng := []
  cgWide : List Bool := []
deriving DecidableEq, Repr

/-- An exchange tag of this package (R220 to R224): the posting, the calendar, the commit, the progress of its `DRUN`,
whether that has finished, whether a `DCAL` has completed, and the mark key the `DRUN` started under. -/
structure XTag where
  posted : Bool := false
  accept : Nat := 0
  recv : Nat := 0
  send : Nat := 0
  calBuf : Nat := 0
  calMax : Nat := 0
  demand : List Nat := []
  asid : Nat := 0
  cal : Option (List CalEntry) := none
  phases : Nat := 0
  repost : Bool := false
  commit : Option Word := none
  running : Bool := false
  act : List Nat := []
  ended : List Nat := []
  sent : Nat := 0
  received : SMap Nat := []
  finished : Bool := false
  shown : Bool := false
  key : Option (BitVec 256) := none
deriving DecidableEq, Repr

/-- The arbiter's view of a tag (R347, R348): postings by member, the calendar computed, acknowledgements, and the
commit. -/
structure ArbTag where
  posts : SMap (Option (Nat × List Nat)) := []
  cal : Option (List CalEntry) := none
  phases : Nat := 0
  repost : Bool := false
  acks : List Nat := []
  commit : Option Word := none
deriving DecidableEq, Repr

/-- An in-switch reduction (R225, R353): the descriptor first presented, contributions by member, the time of the
first arrival, and how it ended. -/
structure Red where
  red : FredDesc
  data : SMap (List Byte) := []
  arrived : List Nat := []
  first : Word := 0
  ended : Bool := false
  localAsid : Nat := 0
  localStatus : Nat := 0
  localSent : Bool := false
  status : Option (BitVec 4) := none
deriving DecidableEq, Repr

/-- A fabric link (R342, R343): its lane rate in Gb/s, whether it is up, since when it retrains, the times of its replays, and
the next SEQ it receives. -/
structure FLink where
  rate : Nat := 224
  up : Bool := true
  retrain : Option Word := none
  replays : List Word := []
  rxSeq : BitVec 12 := 0
deriving DecidableEq, Repr

/-- A memory link or the Lomnik link (R97, R299): since when it is down, whether its 50 ms have passed, and whether it
retrains. -/
structure MLink where
  down : Option Word := none
  lost : Bool := false
  retrain : Bool := false
deriving DecidableEq, Repr

/-- A remote atomic of this package that waits for its reply (R351), or whose reply waits for the instruction to be issued
again. -/
structure RAtom where
  slot : Nat := 0
  live : Bool := true
  dst : Nat := 0
  op : AtomOp
  h : Hdr
  d : Reg := 0
  ord : Nat := 0
  scope : Nat := 0
  next : Word := 0
  pc : Word := 0
  tries : Nat := 0
  sentAt : Word := 0
  heldHome : Bool := false
  old : Option Word := none
deriving DecidableEq, Repr

/-- What this package's homes keep for one source package (R351): the reply cache (number, old value, since when), the
floor, and the atomics held. -/
structure RHome where
  cache : List (Nat × Word × Word) := []
  floor : Nat := 0
  held : List (Nat × AtomOp) := []
deriving DecidableEq, Repr

/-- What the package sends to the rest of the domain. -/
inductive Msg where
  | beat (dst : Nat)
  | flitAck (link : Nat) (seq : BitVec 12)
  | flitReplay (link : Nat) (seq : BitVec 12)
  | atomReq (dst num : Nat) (op : AtomOp)
  | atomReply (dst num : Nat) (r : AtomReply)
  | post (dst tenant tag accept : Nat) (demand : List Nat)
  | calendar (dst tenant tag phases : Nat) (repost : Bool) (entries : List CalEntry)
  | calAck (dst tenant tag : Nat)
  | commitRec (dst tenant tag : Nat) (base : Word)
  | commit (dst tenant tag : Nat) (base : Word)
  | dead (dst pkg : Nat)
  | data (dst tenant tag e : Nat) (bytes : List Byte) (ended : Bool)
  | fred (red : FredDesc) (bytes : List Byte)
  | launchDenied (dst : Nat)
  | buddy (dst : Nat) (img : BuddyImg)
deriving DecidableEq, Repr

/-- The fabric as this package sees it (R341 to R349): its links, the packages declared dead, the time of each package's last
heartbeat, the rates of the packages, the commits recorded with this package as standby, the arbiter and the standby, and
whether nothing has come yet from an arbiter that followed one declared dead. -/
structure Fabric where
  links : SMap FLink := []
  dead : SMap Bool := []
  beatAt : SMap Word := []
  rate : SMap Nat := []
  recorded : SMap (Option Word) := []
  arbiter : Nat := 0
  standby : Nat := 1
  fresh : Bool := false
deriving DecidableEq, Repr

/-- Whose turn it is: a step of the rest of the machine, a grant of A-seq or X-seq issue of a core (R22), the eviction
of a data-cache line or the replacement of a cached descriptor (R116, R203), or the passing of time. -/
inductive Turn where
  | event (i : Instr)
  | grant (core : Nat) (st : Stream)
  | evict (core line : Nat)
  | dropDesc (core key : Nat)
  | tick (ns : Nat)
deriving DecidableEq, Repr

/-- How the instruction in issue went. -/
inductive Went where
  | none | retired | stalled | faulted
deriving DecidableEq, Repr

/-- THE MODEL'S OWN. The instruction in issue: its slot and sequencer, its code address, that of the instruction after
it in the chain (R130) and of its bundle, the registers as its bundle reads them (R144), whether it was a taken
branch, and how it went. -/
structure Cur where
  slot : Nat := 0
  st : Stream := .a
  pc : Word := 0
  next : Word := 0
  bundle : Word := 0
  g : Vector Word 32 := Vector.replicate 32 0
  p : BitVec 8 := 1
  taken : Bool := false
  went : Went := .none
deriving DecidableEq, Repr

/-- The state of the package. -/
structure State where
  time : Word
  pkg : Nat
  mem : Memory
  host : Memory
  peer : SMap Memory
  slots : SMap Slot
  cores : SMap Core
  sync : Sync
  tlb : SMap (Option Leaf)
  pins : List (Nat × Nat × Nat)
  holds : List (Nat × Nat)
  boot : Boot
  queues : SMap JQ
  jobs : SMap Job
  tens : SMap Ten
  saved : SMap (Option Saved)
  xtags : SMap XTag
  arbTags : SMap ArbTag
  reds : SMap (Option Red)
  fab : Fabric
  mlinks : SMap MLink
  lomnik : MLink
  atomNum : Nat
  ratoms : SMap (Option RAtom)
  rhomes : SMap RHome
  buddies : List BuddyImg
  buddyOf : Option Nat
  meas : SMap (BitVec 512)
  retired : List (Nat × Nat × Nat)
  quarantined : List Nat
  scorr : Word
  suncorr : Word
  slost : Word
  dieLog : SMap (List ErrEnt)
  nextTask : Nat
  nextJob : Nat
  nextOrder : Nat
  out : List Msg
  agenda : List Turn
  turn : Nat
  focus : Nat
  cur : Cur
  free : Nat
  lastRead : Word
deriving DecidableEq, Repr

/-- The package right after a module reset (R39, R59, R176, R301 to R309, R320, R321, R332 to R336, R356 to R358): every
register at the reset value its rule gives; where none is given, at the value that log 2 names (DESIGN CHOICE). -/
def State.reset : State where
  time := 0
  pkg := 0
  mem := []
  host := []
  peer := []
  slots := []
  cores := []
  sync := {}
  tlb := []
  pins := []
  holds := []
  boot := {}
  queues := []
  jobs := []
  tens := []
  saved := []
  xtags := []
  arbTags := []
  reds := []
  fab := {}
  mlinks := []
  lomnik := {}
  atomNum := 0
  ratoms := []
  rhomes := []
  buddies := []
  buddyOf := none
  meas := []
  retired := []
  quarantined := []
  scorr := 0
  suncorr := 0
  slost := 0
  dieLog := []
  nextTask := 1
  nextJob := 1
  nextOrder := 0
  out := []
  agenda := []
  turn := 0
  focus := 0
  cur := {}
  free := 0
  lastRead := 0

end Sys2Proof.Machine
end

