-- ==== Sys2Proof/Machine/Basic.lean ====
section
/-! DEFINITION. Access to the parts of the state: slots, cores, sequencers, registers, tokens, and the retirement of an
instruction (R12, R30, R33, R150). -/

namespace Sys2Proof

/-- WAIT, SIG and ITAG of an instruction, zero without a token syllable (R31). -/
def Hdr.wait (h : Hdr) : BitVec 8 :=
  match h.tok with
  | some t => t.wait
  | none => 0

def Hdr.sig (h : Hdr) : BitVec 8 :=
  match h.tok with
  | some t => t.sig
  | none => 0

def Hdr.itag (h : Hdr) : BitVec 8 :=
  match h.tok with
  | some t => t.itag
  | none => 0

end Sys2Proof

namespace Sys2Proof.Machine

/-- What a step or a meaning answers. -/
abbrev Out := Host.Outcome State Fault Refusal

/-! ### Slots, cores, tenants -/

def State.slotAt (s : State) (n : Nat) : Slot := SMap.get s.slots {} n
def State.updSlot (s : State) (n : Nat) (f : Slot → Slot) : State := { s with slots := SMap.upd s.slots {} n f }
def State.coreAt (s : State) (c : Nat) : Core := SMap.get s.cores {} c
def State.updCore (s : State) (c : Nat) (f : Core → Core) : State := { s with cores := SMap.upd s.cores {} c f }
def State.tenAt (s : State) (t : Nat) : Ten := SMap.get s.tens {} t
def State.updTen (s : State) (t : Nat) (f : Ten → Ten) : State := { s with tens := SMap.upd s.tens {} t f }
def State.jobAt (s : State) (j : Nat) : Job := SMap.get s.jobs {} j
def State.updJob (s : State) (j : Nat) (f : Job → Job) : State := { s with jobs := SMap.upd s.jobs {} j f }
def State.queueAt (s : State) (q : Nat) : JQ := SMap.get s.queues {} q
def State.updQueue (s : State) (q : Nat) (f : JQ → JQ) : State := { s with queues := SMap.upd s.queues {} q f }

/-- The core of a slot (numbered 48 × die + core), its die, its place in the core, and its pair (C, T) as
4 × C + T (R42, R320). -/
def coreOf (slot : Nat) : Nat := slot / 4
def dieOf (slot : Nat) : Nat := slot / 192
def placeOf (slot : Nat) : Nat := slot % 4
def pairOf (slot : Nat) : Nat := slot / 4 % 4 * 4 + slot % 4

/-- The sequencer of a slot. -/
def Slot.seq (k : Slot) : Stream → Seq
  | .a => k.a
  | .x => k.x

def Slot.updSeq (k : Slot) (st : Stream) (f : Seq → Seq) : Slot :=
  match st with
  | .a => { k with a := f k.a }
  | .x => { k with x := f k.x }

def State.updSeq (s : State) (n : Nat) (st : Stream) (f : Seq → Seq) : State := s.updSlot n fun k => k.updSeq st f

/-- The slot of the instruction in issue. -/
def State.me (s : State) : Slot := s.slotAt s.cur.slot
def State.updMe (s : State) (f : Slot → Slot) : State := s.updSlot s.cur.slot f
/-- Its sequencer. -/
def State.mySeq (s : State) : Seq := s.me.seq s.cur.st
/-- Its core. -/
def State.myCore (s : State) : Core := s.coreAt (coreOf s.cur.slot)

/-! ### Registers -/

/-- Register `r` of a sequencer; `g0` reads zero (R30). -/
def Seq.rd (q : Seq) (r : Reg) : Word := if r = 0 then 0 else q.g.get ⟨r.toNat, r.isLt⟩

/-- Writes a register; a write to `g0` is discarded (R30, R150). -/
def Seq.wr (q : Seq) (r : Reg) (v : Word) : Seq := if r = 0 then q else { q with g := q.g.set r.toNat v r.isLt }

/-- Predicate `r`; `p0` is true (R30). -/
def Seq.rdP (q : Seq) (r : PReg) : Bool := r == 0 || q.p.getLsbD r.toNat

/-- Writes a predicate; a write to `p0` is discarded. -/
def Seq.wrP (q : Seq) (r : PReg) (b : Bool) : Seq :=
  if r = 0 then q
  else { q with p := if b then q.p ||| BitVec.twoPow 8 r.toNat else q.p &&& ~~~(BitVec.twoPow 8 r.toNat) }

/-- A register as the instruction in issue reads it: every instruction of a bundle reads before any writes (R144). -/
def State.rg (s : State) (r : Reg) : Word := if r = 0 then 0 else s.cur.g.get ⟨r.toNat, r.isLt⟩

/-- A predicate as the instruction in issue reads it. -/
def State.rp (s : State) (r : PReg) : Bool := r == 0 || s.cur.p.getLsbD r.toNat

/-- Writes a register of the sequencer in issue. -/
def State.wg (s : State) (r : Reg) (v : Word) : State := s.updSeq s.cur.slot s.cur.st fun q => q.wr r v

/-- Writes a predicate of the sequencer in issue. -/
def State.wp (s : State) (r : PReg) (b : Bool) : State := s.updSeq s.cur.slot s.cur.st fun q => q.wrP r b

/-- A register or predicate that an engine is still to write (R33). -/
def Seq.awaits (q : Seq) (gs : List Reg) (ps : List PReg) : Bool :=
  gs.any (fun r => r != 0 && q.awG.getLsbD r.toNat) || ps.any (fun r => r != 0 && q.awP.getLsbD r.toNat)

/-- Marks registers that an engine will write. -/
def Seq.await (q : Seq) (gs : List Reg) (ps : List PReg) : Seq :=
  { q with
    awG := gs.foldl (fun m r => if r = 0 then m else m ||| BitVec.twoPow 32 r.toNat) q.awG
    awP := ps.foldl (fun m r => if r = 0 then m else m ||| BitVec.twoPow 8 r.toNat) q.awP }

/-- An engine writes a register of a sequencer, which waits for it no more (R33). -/
def Seq.deliver (q : Seq) (r : Reg) (v : Word) : Seq :=
  { q.wr r v with awG := q.awG &&& ~~~(BitVec.twoPow 32 r.toNat) }

def Seq.deliverP (q : Seq) (r : PReg) (b : Bool) : Seq :=
  { q.wrP r b with awP := q.awP &&& ~~~(BitVec.twoPow 8 r.toNat) }

/-! ### Tokens (R11, R12, R134) -/

/-- Every queue of the mask holds a count. -/
def Slot.hasTok (k : Slot) (mask : BitVec 8) : Bool :=
  (List.finRange 8).all fun i => !mask.getLsbD i || decide (0 < k.tok.get i)

/-- No queue of the mask is full. -/
def Slot.tokFits (k : Slot) (mask : BitVec 8) : Bool :=
  (List.finRange 8).all fun i => !mask.getLsbD i || decide (k.tok.get i < Config.tokenMax)

def Slot.popTok (k : Slot) (mask : BitVec 8) : Slot :=
  { k with tok := Vector.ofFn fun i => if mask.getLsbD i then k.tok.get i - 1 else k.tok.get i }

def Slot.pushTok (k : Slot) (mask : BitVec 8) : Slot :=
  { k with tok := Vector.ofFn fun i => if mask.getLsbD i then k.tok.get i + 1 else k.tok.get i }

/-- The WAIT and SIG bits an executing agent may name (R134). -/
def waitAllowed (ag : Agent) (st : Stream) : BitVec 8 :=
  match ag with
  | .seq => match st with
    | .a => 0x80
    | .x => 0x40
  | .copy => 0x30
  | .matrix => 0x09
  | .vector => 0x06

def sigAllowed (ag : Agent) (st : Stream) : BitVec 8 :=
  match ag with
  | .seq => match st with
    | .a => 0x40
    | .x => 0x80
  | .copy => 0x03
  | .matrix => 0x14
  | .vector => 0x28

/-- Check 14 of R147: the token clause names only queues its agent may use. -/
def tokQueuesOk (h : Hdr) (ag : Agent) (st : Stream) : Bool :=
  (h.wait &&& ~~~(waitAllowed ag st)) == 0 && (h.sig &&& ~~~(sigAllowed ag st)) == 0

/-! ### Retirement (R12, R130, R150) -/

/-- Pushes a SIG mask, or holds it at retirement while a queue it names is full (R12 item 2). -/
def Slot.signal (k : Slot) (st : Stream) (sig : BitVec 8) : Slot :=
  if sig = 0 then k
  else if k.tokFits sig then k.pushTok sig
  else k.updSeq st fun q => { q with held := q.held ++ [sig] }

/-- An instruction retires: WAIT popped, `pc` moved on, the issue counted (a bundle once, at its stop bit, R176), the
address noted for the loop buffer (R145), SIG pushed. -/
def Slot.finish (k : Slot) (st : Stream) (h : Hdr) (pc next : Word) : Slot :=
  ((k.popTok h.wait).updSeq st fun q =>
    { q with
      pc := next
      issued := if st = .a || h.stop then q.issued + 1 else q.issued
      parked := false
      drain := if st = .a || h.stop then none else q.drain
      shaping := false
      loop := { q.loop with trail := (pc :: q.loop.trail).take 64 } }).signal st h.sig

/-- The instruction in issue retires; after a taken branch the loop buffer's trail starts anew (R145). -/
def State.retire (s : State) (h : Hdr) : State :=
  let t := s.updMe fun k =>
    (k.finish s.cur.st h s.cur.pc s.cur.next).updSeq s.cur.st fun q =>
      if s.cur.taken then { q with loop := { q.loop with trail := [] } } else q
  { t with cur := { t.cur with went := .retired } }

/-- The instruction in issue waits. -/
def State.stalled (s : State) : State := { s with cur := { s.cur with went := .stalled } }

/-- The instruction in issue has faulted. -/
def State.faulted (s : State) : State := { s with cur := { s.cur with went := .faulted } }

/-- A taken branch: the instruction after this one is at `target` (R137). -/
def State.jump (s : State) (target : Word) : State := { s with cur := { s.cur with next := target, taken := true } }

/-- Replay from the loop buffer ends (R145). -/
def Seq.cutLoop (q : Seq) : Seq := { q with loop := {} }

/-- A taken branch other than a `LOOP` that keeps its captured body: replay ends (R145). -/
def State.branch (s : State) (target : Word) : State :=
  (s.updSeq s.cur.slot s.cur.st Seq.cutLoop).jump target

/-! ### Stall causes (R97) -/

/-- Adds one to stall cause `c` of tenant `t` on a core, at most once at one fabric time, and to the package total. -/
def State.stallCause (s : State) (core t c : Nat) : State :=
  let k := c * 64 + t
  if SMap.get (s.coreAt core).stallAt 0 k = s.time + 1 then s
  else
    (s.updCore core fun q =>
      { q with stall := SMap.upd q.stall 0 k (· + 1), stallAt := SMap.set q.stallAt 0 k (s.time + 1) }).updTen t
      fun e => { e with stall := SMap.upd e.stall 0 c (· + 1) }

/-! ### Bytes -/

/-- The number whose little-endian bytes are given (R5). -/
def leNat : List Byte → Nat
  | [] => 0
  | b :: r => b.toNat + 256 * leNat r

/-- The `n` low bytes of a number, little-endian. -/
def leBytes : Nat → Nat → List Byte
  | 0, _ => []
  | n + 1, v => BitVec.ofNat 8 v :: leBytes n (v / 256)

/-- Byte `i` of a bit vector. -/
def byteOf {w : Nat} (x : BitVec w) (i : Nat) : Byte := x.extractLsb' (8 * i) 8

/-- A bit vector with byte `i` replaced. -/
def setByte {w : Nat} (x : BitVec w) (i : Nat) (b : Byte) : BitVec w :=
  (x &&& ~~~((BitVec.allOnes 8).setWidth w <<< (8 * i))) ||| (b.setWidth w <<< (8 * i))

/-- Bits `[lo + k - 1 : lo]` of a number. -/
def bits (v lo k : Nat) : Nat := v / 2 ^ lo % 2 ^ k

/-- Bit `i` of a number. -/
def bit (v i : Nat) : Bool := v / 2 ^ i % 2 == 1

/-! ### Cause codes (R317) -/

def cILLEGAL : BitVec 8 := 0x01
def cPRIV : BitVec 8 := 0x02
def cALIGN : BitVec 8 := 0x03
def cXLATE : BitVec 8 := 0x04
def cPROT : BitVec 8 := 0x05
def cTILE_GONE : BitVec 8 := 0x06
def cTILE_VACATED : BitVec 8 := 0x07
def cSTORE_FULL : BitVec 8 := 0x08
def cCAPACITY : BitVec 8 := 0x09
def cSHAPE : BitVec 8 := 0x0A
def cDATA_LOST : BitVec 8 := 0x0B
def cFORMAT : BitVec 8 := 0x0C
def cQUEUE : BitVec 8 := 0x0D
def cKAT : BitVec 8 := 0x0E
def cDEMAND : BitVec 8 := 0x10
def cREMOTE : BitVec 8 := 0x11
def cBREAK : BitVec 8 := 0x12
def cTRAP : BitVec 8 := 0x13
def cPREEMPT : BitVec 8 := 0x14

/-- The reason, address and cause of a check that failed. -/
structure Bad where
  cause : BitVec 8
  reason : BitVec 8 := 0
  addr : Word := 0
deriving DecidableEq, Repr

end Sys2Proof.Machine
end

