-- ==== Sys2Proof/Machine/Mem.lean ====
section
/-! DEFINITION. Memory: homes of data by tier (R95), address translation (R311), the checks of an access (R97, R178,
R200), and the data cache of a core with its write-backs and invalidations (R99, R103, R116, R181). -/

namespace Sys2Proof.Machine

/-! ### Homes -/

/-- The word number of a physical address of the synchronisation tier (R312). -/
def syncKey (pa : Nat) : Nat := pa / 8 % 2 ^ 21

/-- The byte at a home (DESIGN CHOICE, log 1). -/
def State.homeByte (s : State) (l : Loc) : Byte :=
  match l.tier with
  | 0 => SMap.get s.mem 0 l.pa
  | 1 => SMap.get s.host 0 l.pa
  | 2 => byteOf (SMap.get s.sync.word 0 (syncKey l.pa)) (l.pa % 8)
  | _ => SMap.get (SMap.get s.peer [] l.pkg) 0 l.pa

/-- Writes a byte at its home. -/
def State.setHome (s : State) (l : Loc) (b : Byte) : State :=
  match l.tier with
  | 0 => { s with mem := SMap.set s.mem 0 l.pa b }
  | 1 => { s with host := SMap.set s.host 0 l.pa b }
  | 2 => { s with sync := { s.sync with
      word := SMap.upd s.sync.word 0 (syncKey l.pa) fun w => setByte w (l.pa % 8) b } }
  | _ => { s with peer := SMap.upd s.peer [] l.pkg fun m => SMap.set m 0 l.pa b }

/-- `n` bytes of module memory as a number, and their writing: physical accesses of the K9 itself. -/
def State.rdPhys (s : State) (pa n : Nat) : Nat := leNat ((upto n pa).map fun a => SMap.get s.mem 0 a)

/-- Writes bytes at rising addresses of a memory. -/
def writeBytes (m : Memory) (a : Nat) : List Byte → Memory
  | [] => m
  | b :: r => writeBytes (SMap.set m 0 a b) (a + 1) r

def State.wrPhys (s : State) (pa n v : Nat) : State := { s with mem := writeBytes s.mem pa (leBytes n v) }

/-- Writes bytes at the homes of consecutive locations. -/
def State.setHomes (s : State) : List (Loc × Byte) → State
  | [] => s
  | (l, b) :: r => (s.setHome l b).setHomes r

/-! ### Translation (R310, R311, R312, R199) -/

/-- A leaf entry found at a level whose pages have `2 ^ sh` bytes, or the reason it is refused with. -/
def leafOf (pte sh pteAddr : Nat) : Except (BitVec 8) Leaf :=
  let base := bits pte 16 36 * 2 ^ 16
  let tier := bits pte 5 2
  if bits pte 10 6 ≠ 0 ∨ bits pte 61 3 ≠ 0 ∨ base % 2 ^ sh ≠ 0 then .error 7
  else if bit pte 7 && decide (1 < tier) then .error 7
  else if bit pte 9 && decide (tier ≠ 0) then .error 7
  else if tier = 2 ∧ 2 ^ 24 ≤ base then .error 7
  else if bits pte 3 2 = 3 ∧ tier ≠ 2 then .error 2
  else .ok { bits := sh, base := base, write := bit pte 2, kind := bits pte 3 2, tier := tier, dev := bit pte 7,
             pinned := bit pte 8, devOnly := bit pte 9, pkg := bits pte 52 9, pte := pteAddr }

/-- A walk from a table, the levels given by the log2 of what an entry of each maps. -/
def State.walkFrom (s : State) (va : Nat) : List Nat → Nat → Except (BitVec 8) Leaf
  | [], _ => .error 7
  | sh :: rest, table =>
    let pa := table + 8 * (va / 2 ^ sh % (if sh = 16 then 32 else 512))
    let pte := s.rdPhys pa 8
    if !bit pte 0 then .error 1
    else if bit pte 1 then if sh = 39 then .error 7 else leafOf pte sh pa
    else if sh = 16 ∨ bits pte 2 6 ≠ 0 ∨ bits pte 52 12 ≠ 0 then .error 7
    else
      let t := bits pte 8 44 * 2 ^ 8
      if sh ≠ 21 ∧ t % 4096 ≠ 0 then .error 7 else s.walkFrom va rest t

/-- The physical address of an entry of the ASID table (R310). -/
def State.asidEntry (s : State) (asid : Nat) : Nat := s.boot.asidBase + 32 * asid

/-- The walk of a virtual address (R311). An invalid entry of the ASID table reads as a page that is not present
(DEDUCED, log 35). -/
def State.walk (s : State) (asid va : Nat) : Except (BitVec 8) Leaf :=
  let w := s.rdPhys (s.asidEntry asid) 8
  if 2 ^ 48 ≤ va then .error 8
  else if !bit w 0 then .error 1
  else s.walkFrom va [39, 30, 21, 16] (bits w 12 40 * 2 ^ 12)

/-- The key of a held translation by ASID, page size (log2) and page. -/
def tlbKey (asid sh va : Nat) : Nat := (asid * 64 + sh) * 2 ^ 32 + va / 2 ^ sh

/-- The translation held for an address, if any (R199; DEDUCED, log 6). -/
def State.heldLeaf (s : State) (asid va : Nat) : Option Leaf :=
  match SMap.get s.tlb none (tlbKey asid 16 va) with
  | some l => some l
  | none =>
    match SMap.get s.tlb none (tlbKey asid 21 va) with
    | some l => some l
    | none => SMap.get s.tlb none (tlbKey asid 30 va)

/-- The translation of an address: the held one, or a walk (DEDUCED, log 6). -/
def State.translate (s : State) (asid va : Nat) : Except (BitVec 8) Leaf :=
  if 2 ^ 48 ≤ va then .error 8
  else
    match s.heldLeaf asid va with
    | some l => .ok l
    | none => s.walk asid va

/-- Holds a translation. -/
def State.hold (s : State) (asid va : Nat) (l : Leaf) : State :=
  { s with tlb := SMap.set s.tlb none (tlbKey asid l.bits va) (some l) }

/-- Where an address lies under a translation. -/
def Leaf.loc (l : Leaf) (va : Nat) : Loc := ⟨l.tier, if l.tier = 3 then l.pkg else 0, l.base + va % 2 ^ l.bits⟩

/-! ### The checks of an access -/

/-- How the checks of an access come out: the leaf and location of each byte; or a fault; or the stall cause on which it
waits; or a model fault (DESIGN CHOICE, log 19). -/
inductive Acc where
  | ok (bs : List (Nat × Leaf × Loc))
  | bad (b : Bad)
  | wait (cause : Nat)
  | void (pa : Nat)

/-- The memory link that serves a physical address (R360). -/
def linkOf (pa : Nat) : Nat := pa / 2 ^ 16 % 32

/-- A link holds an access: the stall cause while it retrains or is down, or that its data is lost (R97, R299). -/
def MLink.holds (l : MLink) (down : Nat) : Option (Option Nat) :=
  if l.lost then some none else if l.retrain then some (some 4) else if l.down.isSome then some (some down) else none

/-- What holds an access to a peer: nothing while some fabric link carries traffic (R341, R343). -/
def Fabric.holds (f : Fabric) : Option (Option Nat) :=
  let ls := (upto 16 0).map fun k => SMap.get f.links {} k
  if ls.any fun k => k.up && k.retrain.isNone then none
  else if ls.any fun k => k.retrain.isSome then some (some 4)
  else some (some 3)

/-- What stands between an access and its home: nothing, a wait with its cause, or lost data. -/
def State.linkHolds (s : State) (l : Loc) : Option (Option Nat) :=
  match l.tier with
  | 0 => (SMap.get s.mlinks {} (linkOf l.pa)).holds 0
  | 1 => s.lomnik.holds 1
  | 2 => none
  | _ => s.fab.holds

/-- The bytes of an access with their translations, or the first address whose translation fails. -/
def State.transBytes (s : State) (asid : Nat) : List Nat → Except (BitVec 8 × Nat) (List (Nat × Leaf × Loc))
  | [] => .ok []
  | a :: r =>
    match s.translate asid a with
    | .error e => .error (e, a)
    | .ok l =>
      match s.transBytes asid r with
      | .error e => .error e
      | .ok bs => .ok ((a, l, l.loc a) :: bs)

/-- The first byte that a per-page check refuses, as a fault of a cause. -/
def firstRefused (cause : BitVec 8) (chk : Leaf → Option (BitVec 8)) : List (Nat × Leaf × Loc) → Option Bad
  | [] => none
  | (a, l, _) :: r =>
    match chk l with
    | some e => some ⟨cause, e, BitVec.ofNat 64 a⟩
    | none => firstRefused cause chk r

/-- What the links and the address map say of the bytes of an access (DESIGN CHOICE, log 19). -/
def State.reach (s : State) : List (Nat × Leaf × Loc) → Option Acc
  | [] => none
  | (a, _, l) :: r =>
    if l.tier = 0 ∧ Config.moduleBytes ≤ l.pa then some (.void l.pa)
    else
      match s.linkHolds l with
      | some none => some (.bad ⟨cDATA_LOST, 0, BitVec.ofNat 64 a⟩)
      | some (some c) => some (.wait c)
      | none => s.reach r

/-- R178: every page is translated and checked before any byte is touched, XLATE before PROT; `%fault.addr` is the
lowest failing address. An access that runs past 2^48 - 1 fails at its own address (R311; DEDUCED, log 32). -/
def State.access (s : State) (asid va n : Nat) (xl pr : Leaf → Option (BitVec 8)) : Acc :=
  if 2 ^ 48 < va + n then .bad ⟨cXLATE, 8, BitVec.ofNat 64 va⟩
  else
    match s.transBytes asid (upto n va) with
    | .error (e, a) => .bad ⟨cXLATE, e, BitVec.ofNat 64 a⟩
    | .ok bs =>
      match firstRefused cXLATE xl bs with
      | some b => .bad b
      | none =>
        match firstRefused cPROT pr bs with
        | some b => .bad b
        | none =>
          match s.reach bs with
          | some a => a
          | none => .ok bs

/-- Holds the translations an access used (DEDUCED, log 6). -/
def State.holdAll (s : State) (asid : Nat) : List (Nat × Leaf × Loc) → State
  | [] => s
  | (a, l, _) :: r => (s.hold asid a l).holdAll asid r

/-! ### Range tags (R114, R115) -/

/-- Lowers the HOME counter of every tag of an access that has been performed at its home. -/
def lowerTags (m : SMap Nat) (tags : BitVec 16) : SMap Nat :=
  (upto 16 0).foldl (fun c i => if tags.getLsbD i then SMap.upd c 0 i (· - 1) else c) m

def raiseTags (m : SMap Nat) (tags : BitVec 16) : SMap Nat :=
  (upto 16 0).foldl (fun c i => if tags.getLsbD i then SMap.upd c 0 i (· + 1) else c) m

/-- A byte range, first address and length, meets a bound range slot. -/
def Rng.meets (r : Rng) (va n : Nat) : Bool := r.bound && decide (va < r.hi) && decide (r.lo < va + n)

/-- The tags of an access whose footprint is a list of byte ranges (R115). -/
def Slot.tagsOf (k : Slot) (foot : List (Nat × Nat)) : BitVec 16 :=
  let t := (upto 15 0).foldl (fun (m : BitVec 16) i =>
    if foot.any (fun f => (SMap.get k.rng {} i).meets f.1 f.2) then m ||| BitVec.twoPow 16 i else m) 0
  if t = 0 then BitVec.twoPow 16 15 else t

/-- The tags of a copy whose footprint is every byte of the address space (R115; DEDUCED, log 23). -/
def Slot.tagsAll (k : Slot) : BitVec 16 :=
  let t := (upto 15 0).foldl (fun (m : BitVec 16) i =>
    if (SMap.get k.rng {} i).bound then m ||| BitVec.twoPow 16 i else m) 0
  if t = 0 then BitVec.twoPow 16 15 else t

/-- A counter of a tag stands at 65,535, which holds back the issue. -/
def Slot.tagsFull (k : Slot) (tags : BitVec 16) : Bool :=
  (upto 16 0).any fun i => tags.getLsbD i && (decide (65535 ≤ SMap.get k.locals 0 i) || decide (65535 ≤ SMap.get k.homes 0 i))

/-! ### The data cache -/

/-- The key of the line that holds a location of tier 0 or 1, the tiers that are cached (R99), and the first location
of the line of a key. -/
def lineKey (l : Loc) : Nat := l.pa / 128 * 2 + min l.tier 1
def keyLoc (key : Nat) : Loc := ⟨key % 2, 0, key / 2 * 128⟩

/-- The 128 locations of a line. -/
def lineLocs (key : Nat) : List Loc := (upto 128 (key / 2 * 128)).map fun a => { keyLoc key with pa := a }

/-- A line as it stands at its home. -/
def State.homeLine (s : State) (key : Nat) : BitVec 1024 :=
  BitVec.ofNat 1024 (leNat ((lineLocs key).map s.homeByte))

/-- A line of a core, and whether the core holds it. -/
def State.lineAt (s : State) (core key : Nat) : DLine := SMap.get (s.coreAt core).dc {} key
def State.hasLine (s : State) (core key : Nat) : Bool := s.lineAt core key != {}

/-- A store has left the cache: it is on no other line, so it is performed at its home (R101, R116). -/
def State.storesHome (s : State) (core key : Nat) : List (Nat × Nat × BitVec 16) → State
  | [] => s
  | (num, slot, tags) :: r =>
    let elsewhere := (s.coreAt core).dc.any fun e => e.1 != key && e.2.stores.any fun t => t.1 == num
    let t := if elsewhere then s else s.updSlot slot fun k => { k with homes := lowerTags k.homes tags }
    t.storesHome core key r

/-- Writes a dirty line back whole, which performs the stores it carries at their home (R103, R116; DEDUCED, log 64). -/
def State.writeBack (s : State) (core key : Nat) : State :=
  let ln := s.lineAt core key
  if ln.dirty then
    let t := s.setHomes ((lineLocs key).map fun l => (l, byteOf ln.data (l.pa % 128)))
    let t := t.storesHome core key ln.stores
    t.updCore core fun c => { c with dc := SMap.upd c.dc {} key fun x => { x with dirty := false, stores := [] } }
  else s

/-- Removes a line, written back first if it is dirty. -/
def State.invalidate (s : State) (core key : Nat) : State :=
  (s.writeBack core key).updCore core fun c => { c with dc := SMap.erase c.dc key }

/-- The keys of the lines of a core that satisfy a test of their place and contents. -/
def State.linesWhere (s : State) (core : Nat) (p : Loc → DLine → Bool) : List Nat :=
  ((s.coreAt core).dc.filter fun e => p (keyLoc e.1) e.2).map (·.1)

/-- A line names a slot of its core in its mask. -/
def DLine.names (l : DLine) (place : Nat) : Bool := l.mask.getLsbD place

/-- Writes back every dirty line of a slot that satisfies a test. -/
def State.writeBackWhere (s : State) (slot : Nat) (p : DLine → Bool) : State :=
  (s.linesWhere (coreOf slot) fun _ l => l.dirty && l.names (placeOf slot) && p l).foldl
    (fun t k => t.writeBack (coreOf slot) k) s

/-- Invalidates every line of a slot that satisfies a test. -/
def State.invalidateWhere (s : State) (slot : Nat) (p : DLine → Bool) : State :=
  (s.linesWhere (coreOf slot) fun _ l => l.names (placeOf slot) && p l).foldl
    (fun t k => t.invalidate (coreOf slot) k) s

/-- The cache action of a release at a scope (R103); a fence also takes lines of UO pages. -/
def State.releaseCache (s : State) (slot scope : Nat) (fence : Bool) : State :=
  if scope < 2 then s else s.writeBackWhere slot fun l => fence || !l.uo

/-- The cache action of an acquire at a scope (R103). -/
def State.acquireCache (s : State) (slot scope : Nat) (fence : Bool) : State :=
  if scope < 2 then s else s.invalidateWhere slot fun l => !l.dirty && (fence || !l.uo)

/-- Brings the line of a byte into the cache of a slot's core and marks the slot; a full cache replaces a line
(DESIGN CHOICE, log 8). -/
def State.touchLine (s : State) (slot : Nat) (b : Nat × Leaf × Loc) : State :=
  let core := coreOf slot
  let key := lineKey b.2.2
  let c := s.coreAt core
  let s1 :=
    if s.hasLine core key then s
    else
      let s0 :=
        if c.dc.length < c.capD * 8 then s
        else
          let v := (c.dc.getD (Config.evictPick s.free % max 1 c.dc.length) (0, {})).1
          { s.invalidate core v with free := s.free + 1 }
      let ln : DLine := ⟨s0.homeLine key, false, b.2.1.kind == 2, 0, b.1 / 128 * 128, []⟩
      s0.updCore core fun q => { q with dc := SMap.set q.dc {} key ln }
  s1.updCore core fun q =>
    { q with dc := SMap.upd q.dc {} key fun l => { l with mask := l.mask ||| BitVec.twoPow 4 (placeOf slot) } }

/-- Whether a byte is reached through the data cache: RC and UO pages of tiers 0 and 1 (R99, R100, R181). -/
def cached (l : Leaf) : Bool := l.kind != 1 && decide (l.tier < 2)

/-- A byte of tier 0 or 1 as a core sees it through its data cache: of the line it holds, or at its home. -/
def State.viewByte (s : State) (core : Nat) (l : Loc) : Byte :=
  if s.hasLine core (lineKey l) then byteOf (s.lineAt core (lineKey l)).data (l.pa % 128) else s.homeByte l

/-- The byte as a slot's load sees it (DESIGN CHOICE, log 8). -/
def State.loadByte (s : State) (slot : Nat) (b : Nat × Leaf × Loc) : Byte :=
  if cached b.2.1 then s.viewByte (coreOf slot) b.2.2 else s.homeByte b.2.2

/-- The lines an access goes through are brought in. -/
def State.touchAll (s : State) (slot : Nat) : List (Nat × Leaf × Loc) → State
  | [] => s
  | b :: r => (if cached b.2.1 then s.touchLine slot b else s).touchAll slot r

/-- Stores one byte: into its line, or at its home. A store that is ordered as SO (R101) is written through; so is one
whose line has left the cache again for another line of the same access (DESIGN CHOICE, log 8). -/
def State.storeByte (s : State) (slot num : Nat) (tags : BitVec 16) (through : Bool) (b : Nat × Leaf × Loc) (v : Byte) :
    State :=
  if cached b.2.1 && s.hasLine (coreOf slot) (lineKey b.2.2) then
    let core := coreOf slot
    let t := s.updCore core fun q =>
      { q with dc := SMap.upd q.dc {} (lineKey b.2.2) fun l =>
          { l with
            data := setByte l.data (b.2.2.pa % 128) v
            dirty := l.dirty || !through
            stores := if through || l.stores.any (fun e => e.1 == num) then l.stores
              else l.stores ++ [(num, slot, tags)] } }
    if through then t.setHome b.2.2 v else t
  else s.setHome b.2.2 v

def State.storeAll (s : State) (slot num : Nat) (tags : BitVec 16) (through : Bool) :
    List (Nat × Leaf × Loc) → List Byte → State
  | b :: r, v :: vs => (s.storeByte slot num tags through b v).storeAll slot num tags through r vs
  | _, _ => s

/-- Writes back and removes the line of the issuing core that holds an address an atomic goes to (R124). -/
def State.flushLoc (s : State) (slot : Nat) (l : Loc) : State :=
  if decide (l.tier < 2) && s.hasLine (coreOf slot) (lineKey l) then s.invalidate (coreOf slot) (lineKey l) else s

/-- Before a command that reads memory is pushed: the dirty lines of the pushing slot that meet the bytes it will read
are written back (R119). -/
def State.pushWriteBack (s : State) (slot : Nat) (foot : List (Nat × Nat)) : State :=
  s.writeBackWhere slot fun l => foot.any fun f => decide (f.1 < l.va + 128) && decide (l.va < f.1 + f.2)

end Sys2Proof.Machine
end

