-- ==== Sys2Proof/Machine/TileOps.lean ====
section
/-! DEFINITION. Tiles: handles (R39), the checks of a handle (R40, R41), use counts and shares (R44), allocation (R38,
R51), lines and their full bits (R54), and the settlement of an ended task (R49, R50). -/

namespace Sys2Proof.Machine

/-! ### Handles (R39) -/

def hIndex (h : Word) : Nat := bits h.toNat 12 10
def hSerial (h : Word) : BitVec 12 := h.extractLsb' 0 12
/-- The core of a handle, numbered 48 × die + core. -/
def hCore (h : Word) : Nat := 48 * bits h.toNat 30 2 + bits h.toNat 24 6
def hNull (h : Word) : Bool := bits h.toNat 0 32 == 0

/-- The handle of an allocation by `slot` in a core. -/
def mkHandle (core slot idx : Nat) (serial : BitVec 12) : Word :=
  BitVec.ofNat 64 (core / 48 * 2 ^ 30 + core % 48 * 2 ^ 24 + placeOf slot * 2 ^ 22 + idx * 2 ^ 12 + serial.toNat)

def State.tileAt (s : State) (core idx : Nat) : Tile := SMap.get (s.coreAt core).tiles {} idx
def State.updTile (s : State) (core idx : Nat) (f : Tile → Tile) : State :=
  s.updCore core fun c => { c with tiles := SMap.upd c.tiles {} idx f }

/-- The tile a handle names, without any check. -/
def State.tileOf (s : State) (h : Word) : Tile := s.tileAt (hCore h) (hIndex h)
def State.updTileOf (s : State) (h : Word) (f : Tile → Tile) : State := s.updTile (hCore h) (hIndex h) f

/-- The state of a slot that a valid handle may name (R40). -/
def TileSt.usable : TileSt → Bool
  | .filling | .live | .vacated => true
  | .free | .settling => false

/-- R40: TILE_GONE of a stale or null handle, with the reasons of R58. -/
def State.goneReason (s : State) (h : Word) : Option (BitVec 8) :=
  let t := s.tileOf h
  if hNull h || decide (512 ≤ hIndex h) || t.serial != hSerial h then some 1
  else
    match t.st with
    | .free => some (if t.left then 2 else 1)
    | .settling => some 3
    | .filling | .live | .vacated => if t.parking then some 2 else none

/-- A core lies in the cluster of a slot (R41). -/
def sameCluster (slot core : Nat) : Bool := coreOf slot / 4 == core / 4

/-- The checks of a presented handle, R40 before R41 (DEDUCED, log 40). -/
def State.checkTile (s : State) (slot : Nat) (h : Word) : Option Bad :=
  match s.goneReason h with
  | some r => some ⟨cTILE_GONE, r, h⟩
  | none =>
    let t := s.tileOf h
    let k := s.slotAt slot
    if bits h.toNat 24 6 < 48 && sameCluster slot (hCore h) && t.tenant == k.task.tenant && t.asid == k.task.asid then none
    else some ⟨cPROT, 1, h⟩

/-- A slot owns a tile. -/
def Tile.ownedBy (t : Tile) (slot : Nat) : Bool := t.st != .free && t.owner == slot && !t.orphan

/-! ### Counts and shares (R42, R44) -/

/-- The sum of the remaining counts. -/
def Tile.total (t : Tile) : Nat := sumOf (t.share.toList.map (·.n))

/-- A tile whose counts have reached zero settles (R46). -/
def Tile.settleIfZero (t : Tile) : Tile :=
  if !t.held && t.total == 0 && t.st.usable then { t with st := .settling } else t

/-- Take (R44): the share a read of the pair `rd` is charged to; 4 is the open share. -/
def Tile.take (t : Tile) (rd : Nat) : Option Nat :=
  match findIdx (fun (sh : Share) => sh.who == some rd && decide (sh.p < sh.n)) (t.share.toList.take 4) 0 with
  | some (i, _) => some i
  | none => if (t.share.get 4).p < (t.share.get 4).n then some 4 else none

def Tile.updShare (t : Tile) (i : Nat) (f : Share → Share) : Tile :=
  { t with share := Vector.ofFn fun j => if j.val = i then f (t.share.get j) else t.share.get j }

/-- ConsumePlain (R44); none where Take refuses. -/
def Tile.consume (t : Tile) (rd : Nat) : Option Tile :=
  if t.held then some t
  else
    match t.take rd with
    | none => none
    | some i => some ((t.updShare i fun sh => { sh with n := sh.n - 1 }).settleIfZero)

/-- Reserves one read; the share it is reserved in, none for a held tile. -/
def Tile.reserve (t : Tile) (rd : Nat) : Option (Tile × Option Nat) :=
  if t.held then some (t, none)
  else
    match t.take rd with
    | none => none
    | some i => some (t.updShare i fun sh => { sh with p := sh.p + 1 }, some i)

/-- ReserveMatrix (R44) for a handle: the tile reserved and the charge, none where refused. -/
def State.reserveTile (s : State) (slot : Nat) (h : Word) : Option (State × List (Word × Nat)) :=
  match (s.tileOf h).reserve (pairOf slot) with
  | none => none
  | some (t, i) => some (s.updTileOf h fun _ => t, (i.map fun j => (h, j)).toList)

/-- Commit (R44) of a window's charges. -/
def State.commit (s : State) : List (Word × Nat) → State
  | [] => s
  | (h, i) :: r =>
    (s.updTileOf h fun t =>
      if t.serial = hSerial h then (t.updShare i fun sh => { sh with n := sh.n - 1, p := sh.p - 1 }).settleIfZero
      else t).commit r

/-- Discard (R44) of a window's charges. -/
def State.discard (s : State) : List (Word × Nat) → State
  | [] => s
  | (h, i) :: r =>
    (s.updTileOf h fun t =>
      if t.serial = hSerial h then t.updShare i fun sh => { sh with p := sh.p - 1 } else t).discard r

/-- Settle (R44). -/
def Tile.settle (t : Tile) (i : Nat) : Tile := (t.updShare i fun sh => { sh with n := sh.p }).settleIfZero

/-- The discarding of a slot's open window (R44, R49). -/
def State.discardWindow (s : State) (slot : Nat) : State :=
  let w := (s.slotAt slot).win
  (s.discard w.charges).updSlot slot fun k => { k with win := {} }

/-! ### Owned tiles and allocation (R38, R51) -/

/-- The cores of the cluster of a slot. -/
def clusterCores (slot : Nat) : List Nat := upto 4 (coreOf slot / 4 * 4)

/-- The tiles of a core in increasing logical slot. -/
def State.tilesOf (s : State) (core : Nat) : List (Nat × Tile) := (s.coreAt core).tiles

/-- The (core, logical slot) of every tile a slot owns, in its cluster. -/
def State.owned (s : State) (slot : Nat) : List (Nat × Nat) :=
  (clusterCores slot).flatMap fun c => ((s.tilesOf c).filter fun e => e.2.ownedBy slot).map fun e => (c, e.1)

/-- USED of `%cap.part` (R59). -/
def State.used (s : State) (slot : Nat) : Nat := (s.owned slot).length

/-- The lowest free logical slot of a core (R38; DESIGN CHOICE, log 21). -/
def State.lowestFree (s : State) (core : Nat) : Option Nat :=
  (upto (s.coreAt core).capTile 0).find? fun i => (s.tileAt core i).st == .free

/-- The serial after a serial (R39). -/
def nextSerial (v : BitVec 12) : BitVec 12 := if v = 0xFFF then 1 else v + 1

/-- The full bits of a fresh tile: every line empty, but the sidecar of a format other than CB4 (R54). -/
def freshFull (fmt : Nat) : BitVec 288 := if fmt = 3 then 0 else BitVec.allOnes 288 <<< 256

/-- The shares a shares register names (R206): n [11:0], T [13:12], C [15:14] each, and the open share of the rest. -/
def sharesOf (n : Nat) (v : Word) : Vector Share 5 :=
  let f := fun i => bits v.toNat (16 * i) 16
  let used := f 0 % 4096 + f 1 % 4096 + f 2 % 4096 + f 3 % 4096
  Vector.ofFn fun j =>
    if j.val = 4 then { who := none, n := n - used, p := 0 }
    else
      let e := f j.val
      if e % 4096 = 0 then {} else { who := some (bits e 14 2 * 4 + bits e 12 2), n := e % 4096, p := 0 }

/-- The limits of a shares register (R206); false faults ILLEGAL 0x0F. -/
def sharesOk (n : Nat) (v : Word) : Bool :=
  let f := fun i => bits v.toNat (16 * i) 16
  let cnt := fun i => f i % 4096
  let who := fun i => f i / 4096
  let clash := fun i j => cnt i != 0 && cnt j != 0 && who i == who j
  if n = 0xFFFF then cnt 0 + cnt 1 + cnt 2 + cnt 3 == 0
  else decide (cnt 0 + cnt 1 + cnt 2 + cnt 3 ≤ n) &&
    !(clash 0 1 || clash 0 2 || clash 0 3 || clash 1 2 || clash 1 3 || clash 2 3)

/-- Allocates a logical slot of a core for a task slot: the new tile is made by `f` from its serial (R39, R46). -/
def State.allocate (s : State) (slot core idx : Nat) (f : BitVec 12 → Tile) : State × Word :=
  let ser := nextSerial (s.tileAt core idx).serial
  (s.updTile core idx fun _ => f ser, mkHandle core slot idx ser)

/-- A tile as an allocating command makes it (DEDUCED, log 53). -/
def freshTile (k : Slot) (slot : Nat) (ser : BitVec 12) (td : TDesc) (n : Nat) (shares : Word) (disc : Bool)
    (refill : Option (List Word)) : Tile :=
  { serial := ser, st := .filling, owner := slot, taskId := k.task.taskId, tenant := k.task.tenant, asid := k.task.asid,
    fmt := td.fmt, tid := td.tid, cb := td.cb, held := n == 0xFFFF, disc := disc, refill := refill,
    share := if n = 0xFFFF then Vector.replicate 5 {} else sharesOf n shares, full := freshFull td.fmt }

/-! ### Lines (R54, R72, R78) -/

/-- A line of a tile: 0 to 255 hold data, 256 to 287 the sidecar. -/
def Tile.line (t : Tile) (l : Nat) : BitVec 1024 := SMap.get t.lines 0 l
def Tile.isFull (t : Tile) (l : Nat) : Bool := t.full.getLsbD l

/-- The lines of a list are all full. -/
def Tile.allFull (t : Tile) (ls : List Nat) : Bool := ls.all t.isFull

/-- A FILLING tile every line of which is full is LIVE (R46). -/
def Tile.liven (t : Tile) : Tile := if t.st = .filling ∧ t.full = BitVec.allOnes 288 then { t with st := .live } else t

/-- A line lands: data and full bit. -/
def Tile.land (t : Tile) (l : Nat) (v : BitVec 1024) : Tile :=
  ({ t with lines := SMap.set t.lines 0 l v, full := t.full ||| BitVec.twoPow 288 l }).liven

/-- Marks lines full without changing their bytes. -/
def Tile.markFull (t : Tile) (ls : List Nat) : Tile :=
  ({ t with full := ls.foldl (fun m l => m ||| BitVec.twoPow 288 l) t.full }).liven

/-- The `n` bytes at byte `off` of the tile's data (rows of 256 bytes) as a number; they lie in one line. -/
def Tile.num (t : Tile) (off n : Nat) : Nat := bits (t.line (off / 128)).toNat (8 * (off % 128)) (8 * n)

/-- The sidecar scale `b` of row `r` (R78). -/
def Tile.scale (t : Tile) (r b : Nat) : Nat :=
  let off := 32 * r + 2 * b
  bits (t.line (256 + off / 128)).toNat (8 * (off % 128)) 16

/-- Writes `n` bytes at byte `off` of the data (`off` from 32,768 on is the sidecar), without touching full bits. -/
def Tile.put (t : Tile) (off n v : Nat) : Tile :=
  let l := off / 128
  let w := off % 128
  let old := (t.line l).toNat
  let new := old - bits old (8 * w) (8 * n) * 2 ^ (8 * w) + v % 2 ^ (8 * n) * 2 ^ (8 * w)
  { t with lines := SMap.set t.lines 0 l (BitVec.ofNat 1024 new) }

/-- The element size of a format in bits (R71). -/
def elemBits (fmt : Nat) : Nat :=
  match fmt with
  | 1 | 7 => 32
  | 2 | 6 => 16
  | 3 => 4
  | _ => 8

/-- The columns of a tile (R204). -/
def tileCols (fmt : Nat) : Nat := 2048 / elemBits fmt

/-- Element `e` of row `r`, as the bits of its format (R72). -/
def Tile.elem (t : Tile) (r e : Nat) : Nat :=
  let b := elemBits t.fmt
  bits (t.line (2 * r + e * b / 1024)).toNat (e * b % 1024) b

/-! ### Freeing and settlement (R46, R49, R50) -/

/-- The slot holds no tile any more; its serial stays. `left` says the tile was parked or saved. -/
def Tile.gone (t : Tile) (left : Bool) : Tile := { serial := t.serial, left := left }

/-- The tile is VACATED: every data line empty (R57). -/
def Tile.vacate (t : Tile) : Tile := { t with st := .vacated, lines := [], full := freshFull t.fmt, drained := 0 }

/-- What the end of a task does to one tile (R46, R49): the shares that name it are settled; on its own tiles the open
share too, and the held flag is lost. The second part is the number of reads settled, and one for a held tile. -/
def Tile.endTask (t : Tile) (slot : Nat) : Tile × Nat :=
  if t.st = .free ∨ t.st = .settling then
    (if t.ownedBy slot then { t with orphan := true } else t, 0)
  else
    let own := t.ownedBy slot
    let hits := fun (i : Nat) => (i < 4 && (t.share.toList.getD i {}).who == some (pairOf slot)) || (i == 4 && own)
    let reads := sumOf ((upto 5 0).map fun i =>
      let sh := t.share.toList.getD i {}
      if hits i then sh.n - sh.p else 0)
    let after : Fin 5 → Share := fun j =>
      if hits j.val then { t.share.get j with n := (t.share.get j).p } else t.share.get j
    let t1 := { t with share := Vector.ofFn after }
    if own then
      if t.held then ({ t1 with held := false, st := .settling, orphan := true }, reads + 1)
      else (({ t1 with orphan := true }).settleIfZero, reads)
    else (t1.settleIfZero, reads)

/-- The settlement of an ended task over its cluster (R49): the state, and the reads and held tiles settled. -/
def State.settleTask (s : State) (slot : Nat) : State × Nat :=
  (clusterCores slot).foldl (fun (acc : State × Nat) c =>
    (acc.1.tilesOf c).foldl (fun (a : State × Nat) e =>
      let r := e.2.endTask slot
      (a.1.updTile c e.1 fun _ => r.1, a.2 + r.2)) acc) (s, 0)

/-- A started command of a slot works on the tile of a handle. -/
def Slot.worksOn (k : Slot) (h : Word) : Bool :=
  (k.cq ++ k.mq ++ k.vq ++ k.cAside ++ k.mAside ++ k.vAside ++ k.flight).any fun c =>
    c.started && !c.ended && c.handles.contains h

/-- A started command of the cluster still works on the tile of a handle. -/
def State.inFlight (s : State) (h : Word) : Bool := (upto 16 (hCore h / 4 * 16)).any fun n => (s.slotAt n).worksOn h

/-! ### Live consumers (R51) -/

/-- The handles a command consumes when it runs (R43). -/
def Cmd.consumes (c : Cmd) : List Word :=
  match c.instr with
  | .mmul .. => c.ops.take 2
  | .mmulc .. => c.ops.take 1
  | .vld _ _ _ _ cons _ | .vldx _ _ _ _ cons _ => if cons then c.ops.take 1 else []
  | _ => []

/-- A head entry that runs, or whose WAIT queues are nonzero. -/
def Slot.headLive (k : Slot) (q : List Cmd) : Option Cmd :=
  match q with
  | [] => none
  | c :: _ => if c.started || k.hasTok ((c.instr.hdr?.map Hdr.wait).getD 0) then some c else none

/-- LiveConsumer (R51) of a slot's partition. -/
def State.liveConsumer (s : State) (slot : Nat) : Bool :=
  let k := s.slotAt slot
  let mine := fun (h : Word) => (s.tileOf h).ownedBy slot && (s.tileOf h).serial == hSerial h && (s.tileOf h).st.usable
  let settling := (s.owned slot).any fun e => (s.tileAt e.1 e.2).st == .settling
  let byCmd := fun (c : Option Cmd) =>
    match c with
    | none => false
    | some c =>
      c.consumes.any mine ||
        match c.instr with
        | .mdrain .. => k.win.opened && k.win.charges.any fun e => mine e.1
        | _ => false
  settling || byCmd (k.headLive k.mq) || byCmd (k.headLive k.vq)

end Sys2Proof.Machine
end

