-- ==== Sys2Proof/Machine/SyncOps.lean ====
section
/-! DEFINITION. The synchronisation engines: words with full bits and waiters served in arrival order (R25, R123),
dependences of job cards (R19), groups and barriers (R127, R192, R193, R275), rings (R125, R126, R194), and atomics
on a word or on module memory (R124, R183). -/

namespace Sys2Proof.Machine

/-! ### Words -/

def State.syncWord (s : State) (key : Nat) : Word := SMap.get s.sync.word 0 key
def State.syncFull (s : State) (key : Nat) : Bool := SMap.get s.sync.full false key

def State.setSync (s : State) (key : Nat) (v : Word) : State :=
  { s with sync := { s.sync with word := SMap.set s.sync.word 0 key v } }
def State.setFull (s : State) (key : Nat) (b : Bool) : State :=
  { s with sync := { s.sync with full := SMap.set s.sync.full false key b } }

/-- The first word of the group object a word belongs to, if a group uses it (R192). -/
def State.groupOf (s : State) (key : Nat) : Option Nat :=
  let o := key / 4 * 4
  if (SMap.get s.sync.groups {} o).live then some o else none

/-- The words a ring in use occupies: the object's 8 words and its state words (R194). -/
def State.ringSpan (s : State) (o : Nat) : Nat := 8 + max 1 (2 ^ bits (s.syncWord o).toNat 0 5 / 16)

/-- The first word of the ring in use that a word belongs to (R194). -/
def State.ringOf (s : State) (key : Nat) : Option Nat :=
  (s.sync.rings.find? fun e => decide (e.1 ≤ key) && decide (key < e.1 + s.ringSpan e.1)).map (·.1)

/-- A word is a state word of a ring in use (R194). -/
def State.ringState (s : State) (key : Nat) : Bool :=
  match s.ringOf key with
  | some o => decide (o + 8 ≤ key)
  | none => false

/-- A plain use of a word that belongs to a group or to a ring in use: PROT 0x07 (R192, R194). -/
def State.objectWord (s : State) (key : Nat) : Bool := (s.groupOf key).isSome || (s.ringOf key).isSome

/-! ### Dependences (R19) -/

/-- The dependences of a job after a write of `v` to a word. -/
def Job.depWrite (j : Job) (pa : Nat) (v : Word) : Job :=
  { j with deps := j.deps.map fun d => if d.1 = pa ∧ d.2.1 ≤ v.toNat then (d.1, d.2.1, true) else d }

/-- A blocked job whose dependences are all met is eligible (R19). -/
def Job.unblock (j : Job) (order : Nat) : Job :=
  if j.st = .blocked ∧ j.deps.all (fun d => d.2.2) then { j with st := .eligible, order := order } else j

/-- A write of a sync word re-evaluates every dependence that names it (R19). -/
def State.depMet (s : State) (key : Nat) : State :=
  let v := s.syncWord key
  s.jobs.foldl (fun t e =>
    if e.2.deps.any fun d => d.1 / 8 % 2 ^ 21 = key && !d.2.2 then
      let j := e.2.depWrite (((e.2.deps.find? fun d => d.1 / 8 % 2 ^ 21 = key).map (·.1)).getD 0) v
      let j' := j.unblock t.nextOrder
      { t.updJob e.1 fun _ => j' with nextOrder := if j'.st = j.st then t.nextOrder else t.nextOrder + 1 }
    else t) s

/-! ### Waiters (R25, R186) -/

/-- A waiting A-seq instruction completes: its register written, and it retires (R186). -/
def State.completeA (s : State) (w : Waiter) (f : Seq → Seq) : State :=
  s.updSlot w.slot fun k => (k.updSeq .a f).finish .a w.h w.pc w.next

/-- The condition a waiter of a word waits for (R123). -/
def Waiter.ready (w : Waiter) (full : Bool) : Bool :=
  match w.kind with
  | .sste => !full
  | _ => full

/-- The operation of a waiter on its word, done whole (R123, R186). -/
def State.serveOne (s : State) (key : Nat) (w : Waiter) : State :=
  match w.kind with
  | .sste => ((s.setSync key w.val).setFull key true).completeA w id |>.depMet key
  | .sldf => (((s.setFull key false).completeA w fun q => q.wr w.d (s.syncWord key))).acquireCache w.slot w.scope false
  | _ => (s.completeA w fun q => q.wr w.d (s.syncWord key)).acquireCache w.slot w.scope false

/-- Serves waiters of a word while one can be served, in arrival order. -/
def State.serveWord (s : State) (key : Nat) : Nat → State
  | 0 => s
  | n + 1 =>
    let ws := SMap.get s.sync.wait [] key
    match findIdx (fun w => w.ready (s.syncFull key)) ws 0 with
    | none => s
    | some (i, w) =>
      let t := { s with sync := { s.sync with wait := SMap.set s.sync.wait [] key (ws.eraseIdx i) } }
      (t.serveOne key w).serveWord key n

/-- Serves as many waiters of a word as can be served. -/
def State.serve (s : State) (key : Nat) : State := s.serveWord key (SMap.get s.sync.wait [] key).length

/-- A word is written and its full bit set or left; waiters are served and dependences re-evaluated. -/
def State.syncStore (s : State) (key : Nat) (v : Word) (full : Option Bool) : State :=
  let t := s.setSync key v
  let t := match full with
    | some b => t.setFull key b
    | none => t
  (t.depMet key).serve key

/-- A slot leaves every waiter list (R150, R186). -/
def State.leaveWaits (s : State) (slot : Nat) : State :=
  let cut := fun (ws : List Waiter) => ws.filter fun w => w.slot != slot
  { s with sync := { s.sync with
      wait := (s.sync.wait.map fun e => (e.1, cut e.2)).filter fun e => !e.2.isEmpty
      rings := s.sync.rings.map fun e => (e.1, { e.2 with waiters := cut e.2.waiters }) } }

/-! ### Groups (R127, R192, R193, R275) -/

def State.groupAt (s : State) (o : Nat) : Group := SMap.get s.sync.groups {} o
def State.setGroup (s : State) (o : Nat) (g : Group) : State :=
  { s with sync := { s.sync with groups := SMap.set s.sync.groups {} o g } }

/-- The words of a group object show its members and arrivals (R192); `gen` is word 1. -/
def State.showGroup (s : State) (o : Nat) : State :=
  let g := s.groupAt o
  if g.members.isEmpty then
    let t := s.setGroup o {}
    (upto 4 o).foldl (fun t k => (t.setSync k 0).setFull k false) t
  else
    let arrived := (g.members.filter fun m => m.2.1 && m.2.2).length
    let t := (s.setSync o (BitVec.ofNat 64 g.members.length)).setSync (o + 2) (BitVec.ofNat 64 arrived)
    (upto 4 o).foldl (fun t k => t.setFull k true) t

/-- A generation opens: every member takes part, and those that wait have arrived (R275). -/
def Group.start (g : Group) (taskOf : Nat → Word) : Group :=
  { g with
    opened := true
    members := g.members.map fun m => (m.1, true, g.waiters.any fun w => taskOf w.slot == m.1) }

/-- Every member that takes part has arrived (R127). -/
def Group.complete (g : Group) : Bool := g.opened && g.members.all fun m => !m.2.1 || m.2.2

/-- A generation that is complete ends: its waiters depart in arrival order, and the next one opens if a task that
joined meanwhile has arrived (R127, R275). -/
def State.closeGen (s : State) (o : Nat) : State :=
  let g := s.groupAt o
  if g.complete then
    let gen := s.syncWord (o + 1)
    let taskOf := fun n => (s.slotAt n).task.taskId
    let part := fun (w : Waiter) => g.members.any fun m => m.1 == taskOf w.slot && m.2.1
    let go := g.waiters.filter part
    let stay := g.waiters.filter fun w => !part w
    let g1 : Group := { g with opened := false, waiters := stay, members := g.members.map fun m => (m.1, false, false) }
    let g2 := if stay.isEmpty then g1 else g1.start taskOf
    let t := (s.setGroup o g2).setSync (o + 1) (gen + 1)
    go.foldl (fun t w => (t.completeA w fun q => q.wr w.d gen).acquireCache w.slot w.scope false) t
  else s

/-- Completes what can be completed and shows the words. -/
def State.settleGroup (s : State) (o : Nat) : State := ((s.closeGen o).closeGen o).showGroup o

/-- A task joins a group (R193; DEDUCED, log 33). -/
def State.joinGroup (s : State) (o slot : Nat) : State :=
  let k := s.slotAt slot
  let g := s.groupAt o
  let t := s.setGroup o { g with live := true, members := g.members ++ [(k.task.taskId, false, false)] }
  (t.updSlot slot fun k => { k with groups := k.groups ++ [o] }).showGroup o

/-- A task leaves a group (R127, R193). -/
def State.leaveGroup (s : State) (o slot : Nat) : State :=
  let id := (s.slotAt slot).task.taskId
  let g := s.groupAt o
  let t := s.setGroup o { g with members := g.members.filter (fun m => m.1 != id),
                                 waiters := g.waiters.filter fun w => w.slot != slot }
  (t.updSlot slot fun k => { k with groups := k.groups.filter (· != o) }).settleGroup o

/-- A task arrives at a barrier (R127, R275). -/
def State.arrive (s : State) (o : Nat) (w : Waiter) : State :=
  let taskOf := fun n => (s.slotAt n).task.taskId
  let g := s.groupAt o
  let g1 := { g with waiters := g.waiters ++ [w] }
  let g2 :=
    if g.opened then
      { g1 with members := g1.members.map fun m => if m.1 == taskOf w.slot && m.2.1 then (m.1, true, true) else m }
    else g1.start taskOf
  (s.setGroup o g2).settleGroup o

/-- A barrier instruction that is stopped withdraws its arrival (R193). -/
def State.withdraw (s : State) (slot : Nat) : State :=
  let id := (s.slotAt slot).task.taskId
  s.sync.groups.foldl (fun t e =>
    if e.2.waiters.any fun w => w.slot == slot then
      let g := { e.2 with waiters := e.2.waiters.filter (fun w => w.slot != slot),
                          members := e.2.members.map fun m => if m.1 == id then (m.1, m.2.1, false) else m }
      (t.setGroup e.1 g).showGroup e.1
    else t) s

/-! ### Rings (R125, R126, R194 to R196) -/

def State.ringAt (s : State) (o : Nat) : Ring := SMap.get s.sync.rings {} o
def State.setRing (s : State) (o : Nat) (r : Ring) : State :=
  { s with sync := { s.sync with rings := SMap.insert (SMap.erase s.sync.rings o) o r } }

/-- C, and the positions RES, FILL, TAKE and FREEP (R125). -/
def State.ringC (s : State) (o : Nat) : Nat := 2 ^ bits (s.syncWord o).toNat 0 5
def State.ringPos (s : State) (o i : Nat) : Nat := (s.syncWord (o + i)).toNat
def State.setPos (s : State) (o i v : Nat) : State := s.setSync (o + i) (BitVec.ofNat 64 v)

def Ring.entry (r : Ring) (e : Nat) : Option EntSt := SMap.get r.ent none e
def Ring.setEntry (r : Ring) (e : Nat) (v : Option EntSt) : Ring := { r with ent := SMap.set r.ent none e v }

/-- FILL advances over published entries and holes; FREEP over freed ones (R125). -/
def State.advanceRing (s : State) (o : Nat) : Nat → State
  | 0 => s
  | n + 1 =>
    let r := s.ringAt o
    let fill := s.ringPos o 2
    let freep := s.ringPos o 4
    let s1 :=
      if fill < s.ringPos o 1 then
        match r.entry fill with
        | some .published | some .hole => s.setPos o 2 (fill + 1)
        | _ => s
      else s
    let s2 :=
      if freep < s.ringPos o 3 then
        match r.entry freep with
        | some .freed => (s1.setPos o 4 (freep + 1)).setRing o (r.setEntry freep none)
        | _ => s1
      else s1
    s2.advanceRing o n

/-- Reserves `n` entries for a task: the first of them (RRES of R125). -/
def State.ringReserve (s : State) (o n : Nat) (task : Word) : State :=
  let res := s.ringPos o 1
  let r := (upto n res).foldl (fun (r : Ring) e => r.setEntry e (some (.reserved task))) (s.ringAt o)
  (s.setRing o r).setPos o 1 (res + n)

/-- There is room for `n` entries. -/
def State.ringRoom (s : State) (o n : Nat) : Bool := decide (s.ringPos o 1 + n ≤ s.ringPos o 4 + s.ringC o)

/-- Takes the next entry for a task (RTAKE of R125); the second part is its hole flag. -/
def State.ringTake (s : State) (o : Nat) (task : Word) : State × Bool :=
  let e := s.ringPos o 3
  let r := s.ringAt o
  let hole := r.entry e == some .hole
  ((s.setRing o (r.setEntry e (some (.taken task hole)))).setPos o 3 (e + 1), hole)

def State.ringFilled (s : State) (o : Nat) : Bool := decide (s.ringPos o 3 < s.ringPos o 2)

/-- A waiter of a ring can be served. -/
def State.ringReady (s : State) (o : Nat) (w : Waiter) : Bool :=
  match w.kind with
  | .rres n => s.ringRoom o n
  | _ => s.ringFilled o

/-- A waiter of a ring is served whole. -/
def State.serveRingOne (s : State) (o : Nat) (w : Waiter) : State :=
  let task := (s.slotAt w.slot).task.taskId
  match w.kind with
  | .rres n => (s.ringReserve o n task).completeA w fun q => q.wr w.d (s.syncWord (o + 1))
  | .rtake p =>
    let t := s.ringTake o task
    (t.1.completeA w fun q => (q.wr w.d (s.syncWord (o + 3))).wrP p t.2).acquireCache w.slot w.scope false
  | _ => s

/-- The first waiter of each kind may be served; a later one of the same kind never overtakes it (R25). -/
def State.serveRing (s : State) (o : Nat) : Nat → State
  | 0 => s
  | n + 1 =>
    let ws := (s.ringAt o).waiters
    let isRes := fun (w : Waiter) => match w.kind with
      | .rres _ => true
      | _ => false
    let cand := (findIdx isRes ws 0).toList ++ (findIdx (fun w => !isRes w) ws 0).toList
    match cand.find? fun c => s.ringReady o c.2 with
    | none => s
    | some (i, w) =>
      let r := s.ringAt o
      ((s.setRing o { r with waiters := r.waiters.eraseIdx i }).serveRingOne o w).serveRing o n

/-- Moves the positions on and serves the waiters of a ring. -/
def State.settleRing (s : State) (o : Nat) : State :=
  let t := s.advanceRing o ((s.ringAt o).ent.length + 1)
  t.serveRing o (t.ringAt o).waiters.length

/-- Publishes entries (RPUB of R125). -/
def State.ringPublish (s : State) (o e n : Nat) : State :=
  let r := (upto n e).foldl (fun (r : Ring) i => r.setEntry i (some .published)) (s.ringAt o)
  (s.setRing o r).settleRing o

/-- Frees an entry (RFREE of R125). -/
def State.ringFree (s : State) (o e : Nat) : State :=
  (s.setRing o ((s.ringAt o).setEntry e (some .freed))).settleRing o

/-- What the end of a task does to an entry (R126). -/
def EntSt.endTask (e : EntSt) (task : Word) : EntSt :=
  match e with
  | .reserved t => if t = task then .hole else e
  | .taken t _ => if t = task then .freed else e
  | _ => e

/-- A task has ended: its reserved entries become holes, its taken ones are freed (R126), and it leaves its groups
(R193). -/
def State.endSync (s : State) (slot : Nat) : State :=
  let id := (s.slotAt slot).task.taskId
  let t := s.sync.rings.foldl (fun (t : State) e =>
    let r := t.ringAt e.1
    (t.setRing e.1 { r with ent := r.ent.map fun x => (x.1, x.2.map fun v => v.endTask id) }).settleRing e.1) s
  (s.slotAt slot).groups.foldl (fun t o => t.leaveGroup o slot) t

end Sys2Proof.Machine
end

