-- ==== Sys2Proof/Machine/JobOps.lean ====
section
/-! DEFINITION. Job cards: fields (R17), records and their completion, DONE and FAILED (R19), completion records (R304),
save pools (R321), and the memory the K9 itself reaches through an address space. -/

namespace Sys2Proof.Machine

/-! ### Memory reached by the K9 through an address space -/

/-- Bytes at a virtual address, at their homes; none where a page does not translate or its link is lost. -/
def State.rdVirt (s : State) (asid va n : Nat) : Option (List Byte) :=
  match s.access asid va n (fun _ => none) (fun _ => none) with
  | .ok bs => some (bs.map fun b => s.homeByte b.2.2)
  | _ => none

/-- Writes bytes at a virtual address, at their homes; nothing where the access fails. -/
def State.wrVirt (s : State) (asid va : Nat) (bytes : List Byte) : State :=
  match s.access asid va bytes.length (fun _ => none) (fun _ => none) with
  | .ok bs => s.setHomes ((bs.map fun b => b.2.2).zip bytes)
  | _ => s

/-! ### Fields of a card (R17) -/

def Job.f (j : Job) (i : Nat) : Nat := (SMap.get j.field 0 i).toNat
def Job.count (j : Job) : Nat := bits (j.f 2) 32 32
def Job.recsz (j : Job) : Nat := bits (j.f 2) 0 8
def Job.tenant (j : Job) : Nat := bits (j.f 8) 0 6
def Job.asid (j : Job) : Nat := bits (j.f 8) 8 12
def Job.prio (j : Job) : Nat := bits (j.f 8) 20 2
def Job.roles (j : Job) : BitVec 4 := BitVec.ofNat 4 (bits (j.f 9) 4 4)
def Job.affinity (j : Job) : Nat := bits (j.f 9) 16 16
def Job.spr (j : Job) : Nat := bits (j.f 10) 0 3
def Job.part (j : Job) : Nat := bits (j.f 10) 8 10
def Job.acc (j : Job) : Nat := bits (j.f 10) 18 6
def Job.relaunch (j : Job) : Bool := bit (j.f 11) 0
def Job.yieldPolicy (j : Job) : Nat := bits (j.f 11) 1 2
def Job.buddy (j : Job) : Bool := bit (j.f 11) 3
def Job.marked (j : Job) : Bool := bit (j.f 11) 4
/-- The undealt records (R20). -/
def Job.undealt (j : Job) : Nat := j.count - j.next + j.returned.length

/-! ### Completion (R19, R304) -/

/-- A job still has a task: in a slot, dealt and not started, or saved. -/
def State.jobLive (s : State) (id : Nat) : Bool :=
  s.slots.any (fun e => e.2.st != .free && e.2.task.job == id) ||
  s.saved.any (fun e => match e.2 with
    | some v => v.task.job == id
    | none => false)

/-- The completion record of a job. -/
def State.recordOf (s : State) (j : Job) : CRec :=
  { jobSeq := j.seq, cause := j.cause, failed := j.st == .failed, late := j.late, overCnt := j.overCnt,
    recs := j.completed, user := (upto 3 13).map fun i => SMap.get j.field 0 i, origin := j.origin, ftime := s.time }

/-- A job earns LATE once its deadline has passed (R17). -/
def State.lateNow (s : State) (j : Job) : Bool := j.late || (j.f 12 != 0 && decide (j.f 12 < s.time.toNat))

/-- A job is DONE: the DONE word rises by one, with release at system scope, and the completion record waits to be
written (R19, R304). -/
def State.finishJob (s : State) (id : Nat) : State :=
  let j := s.jobAt id
  let j1 := { j with st := .done, late := s.lateNow j, recorded := true }
  let t := s.updJob id fun _ => j1
  let t := match j.doneWord with
    | some pa => t.syncStore (syncKey pa) (t.syncWord (syncKey pa) + 1) none
    | none => t
  t.updQueue j.queue fun q => { q with waiting := q.waiting ++ [t.recordOf j1] }

/-- What the state of a job demands now: DONE when every record has completed; the record of a FAILED job once every
task of it has ended (R19). -/
def State.jobCheck (s : State) (id : Nat) : State :=
  let j := s.jobAt id
  match j.st with
  | .running => if j.completed = j.count then s.finishJob id else s
  | .failed =>
    if !j.recorded && !s.jobLive id then
      let j1 := { j with recorded := true }
      (s.updJob id fun _ => j1).updQueue j.queue fun q => { q with waiting := q.waiting ++ [s.recordOf j1] }
    else s
  | _ => s

/-- A job fails with a cause; the first failure stands (R19). -/
def State.failJob (s : State) (id : Nat) (cause reason : BitVec 8) : State :=
  (s.updJob id fun j =>
    if j.st = .failed ∨ j.st = .done ∨ j.st = .none then j
    else { j with st := .failed, cause := cause, reason := reason, late := s.lateNow j, chunks := [] }).jobCheck id

/-- A member of a record has left CLOSING; the record completes with its last member (R19). -/
def State.memberDone (s : State) (id record spr : Nat) (ovr : Bool) : State :=
  (s.updJob id fun j =>
    let n := SMap.get j.members 0 record + 1
    let j := { j with overCnt := j.overCnt || ovr, late := s.lateNow j }
    if n < spr then { j with members := SMap.set j.members 0 record n }
    else { j with members := SMap.set j.members 0 record 0, completed := j.completed + 1 }).jobCheck id

/-- A record returns to the undealt records (R69, R243). -/
def State.returnRecord (s : State) (id record : Nat) : State :=
  s.updJob id fun j =>
    if j.st = .dealing ∨ j.st = .running then
      { j with st := .dealing, returned := j.returned ++ [record], members := SMap.set j.members 0 record 0 }
    else j

/-- All the records of a job have been dealt: DEALING becomes RUNNING (R19). -/
def Job.dealtAll (j : Job) : Job :=
  if j.st = .dealing ∧ j.undealt = 0 then { j with st := .running } else j

/-! ### Save pools (R321) -/

/-- Pops the head of a tenant's pool. -/
def State.popPool (s : State) (t : Nat) : Option (State × Nat) :=
  let e := s.tenAt t
  if e.savePool = 0 then none
  else some (s.updTen t fun x => { x with savePool := s.rdPhys e.savePool 8 }, e.savePool)

/-- Pushes a free area onto a tenant's pool. -/
def State.pushPool (s : State) (t area : Nat) : State :=
  let e := s.tenAt t
  (s.wrPhys area 8 e.savePool).updTen t fun x => { x with savePool := area }

/-- The tin of a task that has ended goes back to its pool, its records released (R49, R213). -/
def State.releaseTin (s : State) (slot : Nat) : State :=
  let k := s.slotAt slot
  match k.tin with
  | some a => (s.pushPool k.task.tenant a).updSlot slot fun k => { k with tin := none, tinUsed := [] }
  | none => s

end Sys2Proof.Machine
end

