-- ==== Sys2Proof/Machine/Keccak.lean ====
section
/-! DEFINITION. SHAKE256 (named by R316, R357, R358; the function itself is the standard one of FIPS 202, which the
manual cites by name and does not restate). -/

namespace Sys2Proof.Machine

/-- The 24 round constants of Keccak-f[1600]. -/
def keccakRC : List Word :=
  [0x0000000000000001, 0x0000000000008082, 0x800000000000808A, 0x8000000080008000, 0x000000000000808B,
   0x0000000080000001, 0x8000000080008081, 0x8000000000008009, 0x000000000000008A, 0x0000000000000088,
   0x0000000080008009, 0x000000008000000A, 0x000000008000808B, 0x800000000000008B, 0x8000000000008089,
   0x8000000000008003, 0x8000000000008002, 0x8000000000000080, 0x000000000000800A, 0x800000008000000A,
   0x8000000080008081, 0x8000000000008080, 0x0000000080000001, 0x8000000080008008]

/-- The rotation of each lane, by x + 5 y. -/
def keccakRot : List Nat :=
  [0, 1, 62, 28, 27, 36, 44, 6, 55, 20, 3, 10, 43, 25, 39, 41, 45, 15, 21, 8, 18, 2, 61, 56, 14]

/-- One round: theta, rho, pi, chi, iota. -/
def keccakRound (a : List Word) (rc : Word) : List Word :=
  let g := fun (l : List Word) i => l.getD i 0
  let c := (upto 5 0).map fun x => g a x ^^^ g a (x + 5) ^^^ g a (x + 10) ^^^ g a (x + 15) ^^^ g a (x + 20)
  let d := (upto 5 0).map fun x => g c ((x + 4) % 5) ^^^ (g c ((x + 1) % 5)).rotateLeft 1
  let t := (upto 25 0).map fun i => g a i ^^^ g d (i % 5)
  -- pi moves lane (x, y) to (y, 2x + 3y); lane i of the result comes from x = (i%5 + 3*(i/5)) % 5, y = i % 5
  let b := (upto 25 0).map fun i =>
    let j := (i % 5 + 3 * (i / 5)) % 5 + 5 * (i % 5)
    (g t j).rotateLeft (keccakRot.getD j 0)
  let e := (upto 25 0).map fun i =>
    g b i ^^^ (~~~(g b (i / 5 * 5 + (i + 1) % 5)) &&& g b (i / 5 * 5 + (i + 2) % 5))
  match e with
  | x :: r => (x ^^^ rc) :: r
  | [] => []

/-- Keccak-f[1600]. -/
def keccakF (a : List Word) : List Word := keccakRC.foldl keccakRound a

/-- Absorbs one block of 136 bytes. -/
def keccakAbsorb (a : List Word) (block : List Byte) : List Word :=
  let w := fun i => BitVec.ofNat 64 (leNat ((block.drop (8 * i)).take 8))
  keccakF ((upto 25 0).map fun i => if i < 17 then a.getD i 0 ^^^ w i else a.getD i 0)

/-- Absorbs `n` blocks. -/
def keccakBlocks : Nat → List Word → List Byte → List Word
  | 0, a, _ => a
  | n + 1, a, m => keccakBlocks n (keccakAbsorb a (m.take 136)) (m.drop 136)

/-- Squeezes `n` blocks of 136 bytes. -/
def keccakSqueeze : Nat → List Word → List Byte
  | 0, _ => []
  | n + 1, a => ((a.take 17).flatMap fun w => leBytes 8 w.toNat) ++ keccakSqueeze n (keccakF a)

/-- SHAKE256 of a byte string, `n` bytes. -/
def shake256 (m : List Byte) (n : Nat) : List Byte :=
  let q := 136 - m.length % 136
  let pad : List Byte :=
    if q = 1 then [0x9F] else [0x1F] ++ List.replicate (q - 2) 0 ++ [0x80]
  let p := m ++ pad
  (keccakSqueeze (n / 136 + 1) (keccakBlocks (p.length / 136) (List.replicate 25 0) p)).take n

end Sys2Proof.Machine
end

