-- ==== Sys2Proof/Machine/CopyLine.lean ====
section
/-! DEFINITION. One 128-byte line of a linear copy (R215): how it is performed, through the mark stage where R218 says
so (R357), and what it counts in its copy group (R55). -/

namespace Sys2Proof.Machine

/-- The mark of one byte (R357): the key, its source virtual address, the byte (DEDUCED, log 41). -/
def markByte (key : BitVec 256) (a : Nat) (v : Byte) : Byte :=
  let msg := leBytes 32 key.toNat ++ leBytes 8 (bits a 24 24) ++ leBytes 4 (bits a 6 18)
  let s := leNat (shake256 msg 16)
  let c := bits s (2 * (a % 64)) 2
  if c = 1 then BitVec.ofNat 8 (min 255 (v.toNat + 1))
  else if c = 2 then BitVec.ofNat 8 (v.toNat - 1)
  else v

/-- The lines of a length. -/
def lineCount (n : Nat) : Nat := ceilDiv n 128

/-- The first byte and the length of line `l` of a copy of `n` bytes. -/
def linePart (n l : Nat) : Nat × Nat := (128 * l, min 128 (n - 128 * l))

/-- Adds landed bytes to a copy group, if the generation is still the one the copy issued under (R55). -/
def Slot.landed (k : Slot) (cg : Option (BitVec 3)) (gen : Nat) (n : Nat) : Slot :=
  match cg with
  | none => k
  | some i =>
    let g := k.cg.get ⟨i.toNat, i.isLt⟩
    if g.gen.toNat = gen then
      { k with cg := k.cg.set i.toNat { g with land := g.land + BitVec.ofNat 48 n } i.isLt }
    else k

/-- The copy group a command names. -/
def cgOf (cg : BitVec 3) (cgv : Bool) : Option (BitVec 3) := if cgv then some cg else none

/-- The copy group of a copy-engine instruction. -/
def copyGroup : Instr → Option (BitVec 3)
  | .fetch _ _ _ _ _ _ _ cg cgv .. | .fetchT _ _ _ _ _ _ _ cg cgv .. | .fetchMc _ _ _ _ _ _ _ cg cgv .. => cgOf cg cgv
  | .fetchRf _ _ _ _ _ cg cgv _ => cgOf cg cgv
  | .tstore _ _ _ _ _ _ cg cgv => cgOf cg cgv
  | .park _ _ _ cg cgv | .unpark _ _ _ cg cgv => cgOf cg cgv
  | .ccopy _ _ _ _ cg cgv => cgOf cg cgv
  | .cgath _ _ _ _ _ _ _ cg cgv => cgOf cg cgv
  | .cscat _ _ _ _ _ cg cgv => cgOf cg cgv
  | .drun _ cg cgv _ _ => cgOf cg cgv
  | .fred _ _ cg cgv => cgOf cg cgv
  | _ => none

/-- Operand `i` of a command. -/
def Cmd.op (c : Cmd) (i : Nat) : Word := c.ops.getD i 0
def Cmd.opN (c : Cmd) (i : Nat) : Nat := (c.op i).toNat

/-- A copy of a slot has been performed whole: its tags are lowered (R115). -/
def Slot.untag (k : Slot) (tags : BitVec 16) : Slot :=
  { k with locals := lowerTags k.locals tags, homes := lowerTags k.homes tags }

/-- Performs the next sent line of a linear copy: operands destination, source, length (R215, R339). -/
def State.performLine (s : State) (slot : Nat) (c : Cmd) : State × Cmd :=
  let p := linePart (c.opN 2) c.done
  let data := SMap.get c.buf 0 c.done
  let t := s.wrVirt (s.slotAt slot).task.asid (c.opN 0 + p.1) (leBytes p.2 data.toNat)
  (t.updSlot slot fun k => k.landed (copyGroup c.instr) c.cgGen p.2,
    { c with done := c.done + 1, buf := SMap.erase c.buf c.done })

/-- Performs `m` sent lines of a copy. -/
def State.performLines (s : State) (slot : Nat) (c : Cmd) : Nat → State × Cmd
  | 0 => (s, c)
  | m + 1 =>
    let r := s.performLine slot c
    r.1.performLines slot r.2 m

/-- The lines of a copy that are sent and not yet performed. -/
def Cmd.owed (c : Cmd) : Nat := c.sent - c.done

/-- Performs every sent line of the copies of a slot, in flight or at the head (R340: a kill withdraws nothing;
DEDUCED, log 37). -/
def State.performFlight (s : State) (slot : Nat) : State :=
  let k := s.slotAt slot
  ((k.flight ++ k.cq.take 1).foldl (fun t c => (t.performLines slot c c.owed).1) s).updSlot slot fun k =>
    (k.flight.foldl (fun k c => k.untag c.tags) { k with flight := [], cq := k.cq.map fun c => { c with buf := [], sent := c.done } })

end Sys2Proof.Machine
end

