-- ==== Sys2Proof/Machine/Ops.lean ====
section
/-! DEFINITION. The shared operations of the meanings: taking a fault (R170, R177, R317 to R319), the kill and the stop
of a task (R49, R69, R271), the return from a handler (R172), and the issue of an instruction by a sequencer (R12, R33,
R147, R150) or into an engine queue (R10, R201, R230, R249). -/

namespace Sys2Proof.Machine

/-! ### The end of a task -/

/-- The mailbox operation ends with a status (R314). -/
def State.mbDone (s : State) (st : BitVec 3) : State :=
  { s with boot := { s.boot with mbBusy := false, mbStat := st } }

/-- The slot is FREE; nothing of its task is left in it (R15). A pre-emption requested through the mailbox that had not
taken effect ends with ABSENT: the task counts as completed (R28, R322, R324). -/
def State.freeSlot (s : State) (slot : Nat) : State :=
  let t := match (s.slotAt slot).pre with
    | some r => if r.mailbox then s.mbDone 3 else s
    | none => s
  t.updSlot slot fun _ => {}

/-- The old value of an outstanding remote atomic of a slot will be discarded (R184). -/
def State.orphanAtomics (s : State) (slot : Nat) : State :=
  { s with ratoms := s.ratoms.map fun e => (e.1, e.2.map fun r => if r.slot = slot then { r with live := false } else r) }

/-- The stop of a task in the order of R271: copies in flight performed and dirty lines written back (R69 item 2, R340),
the open window discarded, shares, tiles and tin records settled, then ring entries and groups, and the slot FREE
(DEDUCED, log 17). -/
def State.stopTask (s : State) (slot : Nat) : State :=
  let t := (s.performFlight slot).writeBackWhere slot fun _ => true
  let t := (t.leaveWaits slot).discardWindow slot
  let t := (t.settleTask slot).1
  ((((t.releaseTin slot).endSync slot).orphanAtomics slot).freeSlot slot)

/-- The kill of a task (R15, R271): it is stopped and its job fails with the cause (R19; DEDUCED, log 17). -/
def State.killTask (s : State) (slot : Nat) (cause reason : BitVec 8) : State :=
  let job := (s.slotAt slot).task.job
  ((s.stopTask slot).failJob job cause reason).jobCheck job

/-- The slots that run the members of the cluster group of a slot's task (R69, R325). -/
def State.groupSlots (s : State) (slot : Nat) : List Nat :=
  let t := (s.slotAt slot).task
  (s.slots.filter fun e => e.2.st != .free && e.2.task.job == t.job && e.2.task.record == t.record).map (·.1)

/-- R69 and R243: every member of the task's cluster group is stopped; the record is dealt again if the job sets
RELAUNCH, and otherwise the job fails with the cause. The second part says whether it was relaunched. -/
def State.stopAndRelaunch (s : State) (slot : Nat) (cause : BitVec 8) : State × Bool :=
  let t := (s.slotAt slot).task
  let s1 := (s.groupSlots slot).foldl (fun u n => u.stopTask n) s
  let again := (s.jobAt t.job).relaunch
  (if again then (s1.returnRecord t.job t.record).jobCheck t.job else s1.failJob t.job cause 0, again)

/-! ### Taking a fault -/

/-- `%fault.info` (R177). -/
def faultInfo (t : Trap) : Word :=
  t.reason.setWidth 64 ||| (t.source.setWidth 64 <<< 8) ||| ((if t.async then 1 else 0 : Word) <<< 11) |||
    (t.code.setWidth 64 <<< 16) ||| (t.itag.setWidth 64 <<< 32)

/-- The kernel header routes a cause to the user handler, and the task can enter it: not in handler mode, and in a
state that issues (R15, R170, R317). -/
def Slot.routes (k : Slot) (cause : BitVec 8) : Bool :=
  k.task.trapMask.getLsbD cause.toNat && !k.fault.handler &&
    match k.st with
    | .solo | .both | .meetA | .meetX => true
    | _ => false

/-- The state a slot has once its A-seq has been stopped at `RDV` (R15, R150). -/
def SlotSt.leaveRdvA : SlotSt → SlotSt
  | .meetA => .both
  | st => st

/-- A-seq enters handler mode (R170): the fault registers are written, X-seq is held, and A-seq continues at the
handler. Other faults that are pending wait for `ERET` (R318). -/
def Slot.enterHandler (k : Slot) (t : Trap) (ret : Word) : Slot :=
  { k with
    st := k.st.leaveRdvA
    xHeld := true
    pending := k.pending.map fun u => { u with later := true }
    fault := { cause := t.cause, addr := t.addr, pc := t.pc, info := faultInfo t, ret := ret, handler := true }
    a := { k.a with pc := k.task.handler, parked := false, drain := none, shaping := false, loop := {} } }

/-- A fault is delivered (R170, R317): to the user handler where it is routed; otherwise as its cause gives: CAPACITY
lets the task run on (R68), KAT_MISMATCH stops and relaunches it or fails its job (R243), every other cause kills
(DEDUCED, log 54). -/
def State.takeFault (s : State) (slot : Nat) (t : Trap) (ret : Word) : State :=
  if (s.slotAt slot).routes t.cause then
    ((s.leaveWaits slot).withdraw slot).updSlot slot fun k => k.enterHandler t ret
  else if t.cause = cCAPACITY then s
  else if t.cause = cKAT then (s.stopAndRelaunch slot cKAT).1
  else s.killTask slot t.cause t.reason

/-- The set-aside entries of an engine return to its queue, behind what the handler pushed (R52, R172), unless another
fault of that engine is still pending. -/
def Slot.returnAside (k : Slot) : Slot :=
  let pend := fun (n : BitVec 3) => k.pending.any fun t => t.source == n
  let k := if pend 2 then k else { k with cq := k.cq ++ k.cAside, cAside := [] }
  let k := if pend 3 then k else { k with mq := k.mq ++ k.mAside, mAside := [] }
  if pend 4 then k else { k with vq := k.vq ++ k.vAside, vAside := [] }

/-- The return from a handler (R172): handler mode is left, X-seq released, the set-aside entries returned. A-seq
continues at `%fault.ret` (DEDUCED, log 54). -/
def Slot.leaveHandler (k : Slot) : Slot :=
  { k.returnAside with
    fault := { k.fault with handler := false }, xHeld := k.pending.any fun t => t.source == 1
    pending := k.pending.map fun t => { t with later := false } }

/-- A fault waits for A-seq's boundary (R170, R318). -/
def State.raise (s : State) (slot : Nat) (t : Trap) : State := s.updSlot slot fun k => { k with pending := k.pending ++ [t] }

/-- The source of a sequencer's fault (R177). -/
def srcOf : Stream → BitVec 3
  | .a => 0
  | .x => 1

/-- A fault at issue (R144, R148): A-seq's own is delivered at once; a bundle's waits for A-seq's boundary, X-seq held
at it (DEDUCED, log 24). -/
def State.issueFault (s : State) (b : Bad) (code : BitVec 16) (ret : Word) : State :=
  match s.cur.st with
  | .a =>
    (s.takeFault s.cur.slot
      { cause := b.cause, reason := b.reason, addr := b.addr, pc := s.cur.pc, source := 0, code := code } ret).faulted
  | .x =>
    ((s.raise s.cur.slot
      { cause := b.cause, reason := b.reason, addr := b.addr, pc := s.cur.bundle, source := 1, code := code }).updMe
        fun k => { k with xHeld := true }).faulted

/-! ### Issue of a sequencer instruction -/

/-- What the body of a sequencer instruction makes of the state: it can retire, it has been retired by the
synchronisation engine that served it, it waits, it faults, it faults after an effect of the check, or it reaches memory
that does not exist (DESIGN CHOICE, log 19). -/
inductive Body where
  | done (s : State)
  | served (s : State)
  | stall (s : State)
  | bad (b : Bad)
  | badWith (s : State) (b : Bad)
  | void (pa : Nat)

/-- What stands before the body: a queue its agent may not name (check 14), an awaited register, or an empty WAIT queue
(R12, R33, R147, R150). -/
inductive Gate where
  | badQueue | waits | open_
deriving DecidableEq, Repr

def State.gate (s : State) (h : Hdr) (gs : List Reg) (ps : List PReg) : Gate :=
  if !tokQueuesOk h .seq s.cur.st then .badQueue
  else if s.mySeq.awaits gs ps || !s.me.hasTok h.wait then .waits
  else .open_

/-- Check 14 of R147: the fault QUEUE at the instruction (DEDUCED, log 24). -/
def State.badQueue (s : State) : Out := .next (s.issueFault ⟨cQUEUE, 0, s.cur.pc⟩ 0 s.cur.pc)

/-- A sequencer instruction issues: `gs` and `ps` are the registers it reads or writes. -/
def State.issueSeq (s : State) (h : Hdr) (gs : List Reg) (ps : List PReg) (body : State → Body) : Out :=
  match s.gate h gs ps with
  | .badQueue => s.badQueue
  | .waits => .next s.stalled
  | .open_ =>
    match body s with
    | .done t => .next (t.retire h)
    | .served t => .next { t with cur := { t.cur with went := .retired } }
    | .stall t => .next t.stalled
    | .bad b => .next (s.issueFault b 0 s.cur.pc)
    | .badWith t b => .next (t.issueFault b 0 s.cur.pc)
    | .void pa => .fault (.noMemory pa)

/-- A sequencer instruction that only computes: it always retires. -/
def State.issuePure (s : State) (h : Hdr) (gs : List Reg) (ps : List PReg) (f : State → State) : Out :=
  s.issueSeq h gs ps fun t => .done (f t)

/-! ### Issue into an engine queue -/

/-- The header of an engine instruction as its sequencer retires it: the token clause belongs to the command (R12). -/
def bareHdr (h : Hdr) : Hdr := { h with tok := none }

def engineAgent : Engine → Agent
  | .copy => .copy
  | .matrix => .matrix
  | .vector => .vector

/-- The queue of an engine. -/
def Slot.queue (k : Slot) : Engine → List Cmd
  | .copy => k.cq
  | .matrix => k.mq
  | .vector => k.vq

def Slot.setQueue (k : Slot) (e : Engine) (q : List Cmd) : Slot :=
  match e with
  | .copy => { k with cq := q }
  | .matrix => { k with mq := q }
  | .vector => { k with vq := q }

/-- The entries set aside at the head of a queue, with those behind them. -/
def Slot.aside (k : Slot) : Engine → List Cmd
  | .copy => k.cAside
  | .matrix => k.mAside
  | .vector => k.vAside

def Slot.setAside (k : Slot) (e : Engine) (q : List Cmd) : Slot :=
  match e with
  | .copy => { k with cAside := q }
  | .matrix => { k with mAside := q }
  | .vector => { k with vAside := q }

/-- An entry is pushed: at the tail of the queue; behind a set-aside entry, unless the handler pushes it (R52). -/
def Slot.push (k : Slot) (e : Engine) (c : Cmd) : Slot :=
  let c := { c with num := k.nextCmd }
  let k := { k with nextCmd := k.nextCmd + 1 }
  if !(k.aside e).isEmpty && !k.fault.handler then k.setAside e (k.aside e ++ [c])
  else k.setQueue e (k.queue e ++ [c])

/-- The queue holds 64 entries (R10). -/
def Slot.queueFull (k : Slot) (e : Engine) : Bool :=
  decide (Config.queueDepth ≤ (k.queue e).length + if k.fault.handler then 0 else (k.aside e).length)

/-- What the checks an entry makes at issue come to: the state and the command to push, a wait, or a fault. -/
inductive Pushed where
  | cmd (s : State) (c : Cmd)
  | stall (s : State)
  | bad (b : Bad)
  | void (pa : Nat)

/-- What stands before the push: a queue the engine may not name, or an awaited register, a full queue, or a `SHAPE`
that waits for the matrix and vector queues (R175). -/
def State.engGate (s : State) (e : Engine) (h : Hdr) (gs : List Reg) (ps : List PReg) : Gate :=
  if !tokQueuesOk h (engineAgent e) s.cur.st then .badQueue
  else if s.mySeq.awaits gs ps || s.me.queueFull e || (e != .copy && s.me.a.shaping) then .waits
  else .open_

/-- An engine instruction issues: `gs`, `ps` are the registers it names, `ws`, `wps` those the engine will write. -/
def State.issueEng (s : State) (e : Engine) (h : Hdr) (gs : List Reg) (ps : List PReg) (ws : List Reg) (wps : List PReg)
    (mk : State → Pushed) : Out :=
  match s.engGate e h gs ps with
  | .badQueue => s.badQueue
  | .waits => .next s.stalled
  | .open_ =>
    match mk s with
    | .cmd t c =>
      .next (((t.updMe fun k => k.push e c).updSeq s.cur.slot s.cur.st fun q => q.await ws wps).retire (bareHdr h))
    | .stall t => .next t.stalled
    | .bad b => .next (s.issueFault b 0 s.cur.pc)
    | .void pa => .fault (.noMemory pa)

/-- The command of an instruction in issue, with its operand values (R33). -/
def State.mkCmd (s : State) (i : Instr) (ops : List Word) : Cmd := { instr := i, pc := s.cur.pc, ops := ops }

/-! ### The head of an engine queue -/

def srcOfEngine : Engine → BitVec 3
  | .copy => 2
  | .matrix => 3
  | .vector => 4

def Cmd.hdr (c : Cmd) : Hdr := c.instr.hdr?.getD ⟨true, none⟩

/-- The queue with its head replaced, or removed. -/
def Slot.setHead (k : Slot) (e : Engine) (c : Cmd) : Slot := k.setQueue e (c :: (k.queue e).tail)
def Slot.dropHead (k : Slot) (e : Engine) : Slot := k.setQueue e (k.queue e).tail

/-- A fault found at the head: the entry is set aside with those behind it, its tokens unpopped, and the fault waits for
A-seq's boundary (R52, R201, R230, R249; DEDUCED, log 38). -/
def State.headFault (s : State) (slot : Nat) (e : Engine) (c : Cmd) (b : Bad) : State :=
  (s.updSlot slot fun k => (k.setAside e (k.queue e ++ k.aside e)).setQueue e []).raise slot
    { cause := b.cause, reason := b.reason, addr := b.addr, pc := c.pc, source := srcOfEngine e, itag := c.hdr.itag }

/-- The state issues no fault and no wait: the slot's task runs. -/
def SlotSt.runs : SlotSt → Bool
  | .solo | .both | .meetA | .meetX => true
  | _ => false

end Sys2Proof.Machine
end

