-- ==== Sys2Proof/Machine/Operands.lean ====
section
/-! DEFINITION. The operand forms of the formats (R135 to R140): immediates, scaled memory displacements, branch targets,
bit-field specifications, and the predicate registers that lie in a register field. -/

namespace Sys2Proof.Machine

/-- imm11, sign-extended (R136). -/
def imm11 (i : BitVec 11) : Word := i.signExtend 64

/-- imm7 of CMPI, sign-extended before any comparison (R155). -/
def imm7 (i : BitVec 7) : Word := i.signExtend 64

/-- The access size in bytes of a size code (R138). -/
def accessBytes (z : BitVec 3) : Nat := 2 ^ (z.toNat % 4)

/-- The displacement of format F-M: the offset times the access size (R138). -/
def displacement (z : BitVec 3) (o : BitVec 8) : Word := o.signExtend 64 * BitVec.ofNat 64 (accessBytes z)

/-- A loaded value extended as its size code says: codes 4 to 6 sign-extend (R138). -/
def extendLoad (z : BitVec 3) (v : Nat) : Word :=
  match z.toNat with
  | 4 => (BitVec.ofNat 8 v).signExtend 64
  | 5 => (BitVec.ofNat 16 v).signExtend 64
  | 6 => (BitVec.ofNat 32 v).signExtend 64
  | _ => BitVec.ofNat 64 v

/-- The code address of a syllable of a line (R128). -/
def codeAddr (base line syl : Nat) : Word := BitVec.ofNat 64 (base + 64 * line + 4 + 4 * syl)

/-- The line and syllable of a code address, if it is one of an image of `lines` lines (R128, R160). -/
def codePlace (base lines : Nat) (a : Word) : Option (Nat × Nat) :=
  let o := a.toNat - base
  if base ≤ a.toNat ∧ o % 4 = 0 ∧ 4 ≤ o % 64 ∧ o / 64 < lines then some (o / 64, o % 64 / 4 - 1) else none

/-- The target of a format F-B offset: `off` lines from the line that holds the header, syllable `syl` (R137). A line
before the image gives an address outside it. -/
def branchTarget (base : Nat) (pc : Word) (off : BitVec 13) (syl : BitVec 4) : Word :=
  let line := BitVec.ofNat 64 ((pc.toNat - base) / 64)
  BitVec.ofNat 64 base + 64 * (line + off.signExtend 64) + 4 + 4 * syl.setWidth 64

/-- The bit-field specification of BFX and BFI: lsb and width, a width of 0 meaning 64 (R156). -/
def bfLsb (v : Word) : Nat := bits v.toNat 0 6
def bfWidth (v : Word) : Nat := if bits v.toNat 8 6 = 0 then 64 else bits v.toNat 8 6

/-- The selector of the translation instructions (R198): ASID, SIZE, ALL. -/
def selAsid (v : Word) : Nat := bits v.toNat 0 12
def selSize (v : Word) : Nat := bits v.toNat 12 2
def selAll (v : Word) : Bool := bit v.toNat 14

/-- The log2 of the page size a SIZE code names. -/
def sizeBits (z : Nat) : Nat :=
  match z with
  | 0 => 16
  | 1 => 21
  | _ => 30

/-- The scope of a MOD byte of `LD`, `ST`, rings and `XROUTE`: sys unless SCV is set (R179). -/
def scopeLs (h : Hdr) : Nat := if h.mod.getLsbD 1 then (modScopeLs h.mod).toNat else 5

/-- The scope of a MOD byte of a copy-engine instruction (R202). -/
def scopeCp (h : Hdr) : Nat := if h.mod.getLsbD 4 then (modScopeCp h.mod).toNat else 5

/-- NB and PRED of a MOD byte (R202). -/
def modNb (h : Hdr) : Bool := h.mod.getLsbD 0
def modPred (h : Hdr) : PReg := h.mod.extractLsb' 1 3

end Sys2Proof.Machine
end

