-- ==== Sys2Proof/Machine/Flags.lean ====
section
/-! DEFINITION. The conditions of CMP and CMPI (R155) and the sticky flags of `%stat.num` (R82). -/

namespace Sys2Proof.Machine

/-- The condition codes of R155; codes above 9 are not assigned. -/
def condHolds (c : Nat) (x y : Word) : Bool :=
  match c with
  | 0 => x == y
  | 1 => x != y
  | 2 => x.slt y
  | 3 => !x.slt y
  | 4 => y.slt x
  | 5 => !y.slt x
  | 6 => x.ult y
  | 7 => !x.ult y
  | 8 => y.ult x
  | 9 => !y.ult x
  | _ => false

/-- The flags of `%stat.num` (R82). -/
def fMSUB : BitVec 8 := 0x01
def fMINV : BitVec 8 := 0x02
def fMOVF : BitVec 8 := 0x04
def fDSAT : BitVec 8 := 0x08
def fVINV : BitVec 8 := 0x10
def fVOVF : BitVec 8 := 0x20
def fVUNF : BitVec 8 := 0x40
def fVSAT : BitVec 8 := 0x80

/-- A flag, set when the condition holds. -/
def flagIf (b : Bool) (f : BitVec 8) : BitVec 8 := if b then f else 0

/-- Sets sticky flags of a slot (R82). -/
def Slot.setFlags (k : Slot) (f : BitVec 8) : Slot := { k with statNum := k.statNum ||| f }

/-- A write of `%stat.num`: a 1 clears its flag (R82). -/
def Slot.clearFlags (k : Slot) (v : Word) : Slot := { k with statNum := k.statNum &&& ~~~(v.setWidth 8) }

end Sys2Proof.Machine
end

