-- ==== Sys2Proof/Machine/Scalar.lean ====
section
/-! DEFINITION. The scalar instructions of majors 0x01 to 0x0B (R150 to R158). -/

namespace Sys2Proof.Machine

/-! ### The operations (R152, R156) -/

def opMulh (x y : Word) : Word := BitVec.ofInt 64 (x.toInt * y.toInt / 2 ^ 64)
def opMulhu (x y : Word) : Word := BitVec.ofNat 64 (x.toNat * y.toNat / 2 ^ 64)
/-- Division by zero gives all ones; the quotient rounds toward zero (R152). -/
def opDiv (x y : Word) : Word := if y = 0 then BitVec.allOnes 64 else BitVec.ofInt 64 (x.toInt.tdiv y.toInt)
def opDivu (x y : Word) : Word := if y = 0 then BitVec.allOnes 64 else BitVec.ofNat 64 (x.toNat / y.toNat)
def opRem (x y : Word) : Word :=
  if y = 0 then x else BitVec.ofInt 64 (x.toInt - y.toInt * x.toInt.tdiv y.toInt)
def opRemu (x y : Word) : Word := if y = 0 then x else BitVec.ofNat 64 (x.toNat % y.toNat)
def opAndn (x y : Word) : Word := x &&& ~~~y
/-- The shift amount `y[5:0]` (R152). -/
def shAmt (y : Word) : Nat := bits y.toNat 0 6
def opShl (x : Word) (n : Nat) : Word := x <<< n
def opShr (x : Word) (n : Nat) : Word := x >>> n
def opSar (x : Word) (n : Nat) : Word := x.sshiftRight n
def opRot (x : Word) (n : Nat) : Word := (x <<< n) ||| (x >>> (64 - n))
def opMin (x y : Word) : Word := if y.slt x then y else x
def opMax (x y : Word) : Word := if x.slt y then y else x
def opMinu (x y : Word) : Word := if y.ult x then y else x
def opMaxu (x y : Word) : Word := if x.ult y then y else x

/-- The number of leading zero bits among the low `n` bits. -/
def clzFrom (x : Word) : Nat → Nat
  | 0 => 0
  | n + 1 => if x.getLsbD n then 0 else clzFrom x n + 1

/-- The number of set bits among the low `n` bits. -/
def popFrom (x : Word) : Nat → Nat
  | 0 => 0
  | n + 1 => (x.getLsbD n).toNat + popFrom x n

def opClz (x : Word) : Word := BitVec.ofNat 64 (clzFrom x 64)
def opPopc (x : Word) : Word := BitVec.ofNat 64 (popFrom x 64)

/-- SEXT and ZEXT: the field 0, 1 or 2 gives 8, 16 or 32 bits (R156). -/
def opSext (x : Word) (k : BitVec 5) : Word :=
  match k.toNat with
  | 0 => (x.extractLsb' 0 8).signExtend 64
  | 1 => (x.extractLsb' 0 16).signExtend 64
  | _ => (x.extractLsb' 0 32).signExtend 64

def opZext (x : Word) (k : BitVec 5) : Word :=
  match k.toNat with
  | 0 => (x.extractLsb' 0 8).setWidth 64
  | 1 => (x.extractLsb' 0 16).setWidth 64
  | _ => (x.extractLsb' 0 32).setWidth 64

/-- BFX (R156). -/
def opBfx (x spec : Word) : Word := BitVec.ofNat 64 (x.toNat / 2 ^ bfLsb spec % 2 ^ bfWidth spec)

/-- The mask of the bits BFI replaces: lsb to min(lsb + w, 64) - 1 (R156). -/
def bfMask (spec : Word) : Word := BitVec.ofNat 64 ((2 ^ bfWidth spec - 1) * 2 ^ bfLsb spec)

def opBfi (d x spec : Word) : Word := (d &&& ~~~(bfMask spec)) ||| ((x <<< bfLsb spec) &&& bfMask spec)

/-! ### Shared shapes -/

/-- gD := op(G(a), G(b)). -/
def State.alu (s : State) (h : Hdr) (d a b : Reg) (op : Word → Word → Word) : Out :=
  s.issuePure h [d, a, b] [] fun t => t.wg d (op (t.rg a) (t.rg b))

/-- gD := op(G(a)). -/
def State.alu1 (s : State) (h : Hdr) (d a : Reg) (op : Word → Word) : Out :=
  s.issuePure h [d, a] [] fun t => t.wg d (op (t.rg a))

/-- pD := op(pA, pB). -/
def State.plu (s : State) (h : Hdr) (d a b : PReg) (op : Bool → Bool → Bool) : Out :=
  s.issuePure h [] [d, a, b] fun t => t.wp d (op (t.rp a) (t.rp b))

/-! ### Major 0x01 (R151, R152) -/

/-- ADD (R152). -/
def execAdd (h : Hdr) (d a b : Reg) (s : State) : Out := s.alu h d a b (· + ·)
/-- SUB (R152). -/
def execSub (h : Hdr) (d a b : Reg) (s : State) : Out := s.alu h d a b (· - ·)
/-- MUL (R152). -/
def execMul (h : Hdr) (d a b : Reg) (s : State) : Out := s.alu h d a b (· * ·)
/-- MULH (R152). -/
def execMulh (h : Hdr) (d a b : Reg) (s : State) : Out := s.alu h d a b opMulh
/-- MULHU (R152). -/
def execMulhu (h : Hdr) (d a b : Reg) (s : State) : Out := s.alu h d a b opMulhu
/-- DIV (R152). -/
def execDiv (h : Hdr) (d a b : Reg) (s : State) : Out := s.alu h d a b opDiv
/-- DIVU (R152). -/
def execDivu (h : Hdr) (d a b : Reg) (s : State) : Out := s.alu h d a b opDivu
/-- REM (R152). -/
def execRem (h : Hdr) (d a b : Reg) (s : State) : Out := s.alu h d a b opRem
/-- REMU (R152). -/
def execRemu (h : Hdr) (d a b : Reg) (s : State) : Out := s.alu h d a b opRemu
/-- AND (R152). -/
def execAnd (h : Hdr) (d a b : Reg) (s : State) : Out := s.alu h d a b (· &&& ·)
/-- OR (R152). -/
def execOr (h : Hdr) (d a b : Reg) (s : State) : Out := s.alu h d a b (· ||| ·)
/-- XOR (R152). -/
def execXor (h : Hdr) (d a b : Reg) (s : State) : Out := s.alu h d a b (· ^^^ ·)
/-- ANDN (R152). -/
def execAndn (h : Hdr) (d a b : Reg) (s : State) : Out := s.alu h d a b opAndn
/-- SHL (R152). -/
def execShl (h : Hdr) (d a b : Reg) (s : State) : Out := s.alu h d a b (fun x y => opShl x (shAmt y))
/-- SHR (R152). -/
def execShr (h : Hdr) (d a b : Reg) (s : State) : Out := s.alu h d a b (fun x y => opShr x (shAmt y))
/-- SAR (R152). -/
def execSar (h : Hdr) (d a b : Reg) (s : State) : Out := s.alu h d a b (fun x y => opSar x (shAmt y))
/-- ROT (R152). -/
def execRot (h : Hdr) (d a b : Reg) (s : State) : Out := s.alu h d a b (fun x y => opRot x (shAmt y))
/-- MIN (R152). -/
def execMin (h : Hdr) (d a b : Reg) (s : State) : Out := s.alu h d a b opMin
/-- MAX (R152). -/
def execMax (h : Hdr) (d a b : Reg) (s : State) : Out := s.alu h d a b opMax
/-- MINU (R152). -/
def execMinu (h : Hdr) (d a b : Reg) (s : State) : Out := s.alu h d a b opMinu
/-- MAXU (R152). -/
def execMaxu (h : Hdr) (d a b : Reg) (s : State) : Out := s.alu h d a b opMaxu
/-- SEL (R152). -/
def execSel (h : Hdr) (d a b : Reg) (p : PReg) (s : State) : Out :=
  s.issuePure h [d, a, b] [p] fun t => t.wg d (if t.rp p then t.rg a else t.rg b)

/-! ### Immediate forms (R153, R154) -/

/-- ADDI (R153). -/
def execAddi (h : Hdr) (d a : Reg) (i : BitVec 11) (s : State) : Out :=
  s.alu1 h d a fun x => x + imm11 i
/-- ANDI (R153). -/
def execAndi (h : Hdr) (d a : Reg) (i : BitVec 11) (s : State) : Out :=
  s.alu1 h d a fun x => x &&& imm11 i
/-- ORI (R153). -/
def execOri (h : Hdr) (d a : Reg) (i : BitVec 11) (s : State) : Out :=
  s.alu1 h d a fun x => x ||| imm11 i
/-- XORI (R153). -/
def execXori (h : Hdr) (d a : Reg) (i : BitVec 11) (s : State) : Out :=
  s.alu1 h d a fun x => x ^^^ imm11 i
/-- SHLI (R154). -/
def execShli (h : Hdr) (d a : Reg) (n : BitVec 6) (s : State) : Out :=
  s.alu1 h d a fun x => opShl x n.toNat
/-- SHRI (R154). -/
def execShri (h : Hdr) (d a : Reg) (n : BitVec 6) (s : State) : Out :=
  s.alu1 h d a fun x => opShr x n.toNat
/-- SARI (R154). -/
def execSari (h : Hdr) (d a : Reg) (n : BitVec 6) (s : State) : Out :=
  s.alu1 h d a fun x => opSar x n.toNat
/-- ROTI (R154). -/
def execRoti (h : Hdr) (d a : Reg) (n : BitVec 6) (s : State) : Out :=
  s.alu1 h d a fun x => opRot x n.toNat

/-! ### Comparisons (R155) -/

/-- CMPI. -/
def execCmpi (h : Hdr) (p : PReg) (a : Reg) (c : BitVec 4) (i : BitVec 7) (s : State) : Out :=
  s.issuePure h [a] [p] fun t => t.wp p (condHolds c.toNat (t.rg a) (imm7 i))
/-- CMP. -/
def execCmp (h : Hdr) (p : PReg) (c : BitVec 6) (a b : Reg) (s : State) : Out :=
  s.issuePure h [a, b] [p] fun t => t.wp p (condHolds c.toNat (t.rg a) (t.rg b))

/-! ### Bit-field and count (R156) -/

/-- CLZ. -/
def execClz (h : Hdr) (d a : Reg) (s : State) : Out := s.alu1 h d a opClz
/-- POPC. -/
def execPopc (h : Hdr) (d a : Reg) (s : State) : Out := s.alu1 h d a opPopc
/-- SEXT. -/
def execSext (h : Hdr) (d a : Reg) (k : BitVec 5) (s : State) : Out := s.alu1 h d a fun x => opSext x k
/-- ZEXT. -/
def execZext (h : Hdr) (d a : Reg) (k : BitVec 5) (s : State) : Out := s.alu1 h d a fun x => opZext x k
/-- BFX. -/
def execBfx (h : Hdr) (d a b : Reg) (s : State) : Out := s.alu h d a b opBfx
/-- BFI: gD is read as well as written. -/
def execBfi (h : Hdr) (d a b : Reg) (s : State) : Out :=
  s.issuePure h [d, a, b] [] fun t => t.wg d (opBfi (t.rg d) (t.rg a) (t.rg b))

/-! ### Predicates (R157) and constants (R158) -/

/-- PAND. -/
def execPand (h : Hdr) (d a b : PReg) (s : State) : Out := s.plu h d a b (· && ·)
/-- POR. -/
def execPor (h : Hdr) (d a b : PReg) (s : State) : Out := s.plu h d a b (· || ·)
/-- PXOR. -/
def execPxor (h : Hdr) (d a b : PReg) (s : State) : Out := s.plu h d a b (· ^^ ·)
/-- PNOT. -/
def execPnot (h : Hdr) (d a : PReg) (s : State) : Out := s.issuePure h [] [d, a] fun t => t.wp d (!t.rp a)
/-- PMOV. -/
def execPmov (h : Hdr) (d a : PReg) (s : State) : Out := s.issuePure h [] [d, a] fun t => t.wp d (t.rp a)
/-- LI (R158). -/
def execLi (h : Hdr) (d : Reg) (lo hi : BitVec 32) (s : State) : Out :=
  s.issuePure h [d] [] fun t => t.wg d (hi.setWidth 64 <<< 32 ||| lo.setWidth 64)

end Sys2Proof.Machine
end

