-- ==== Sys2Proof/Machine/Fetch.lean ====
section
/-! DEFINITION. Instruction fetch: lines and chains (R128 to R131), the checks of R147 that look at the bits around an
instruction, and the bundles of the X stream (R143, R144). -/

namespace Sys2Proof.Machine

/-- How the reading of a code line comes out. -/
inductive LineRead where
  | ok (v : Nat)
  | bad (b : Bad)
  | wait (cause : Nat)
  | void (pa : Nat)
deriving DecidableEq, Repr

/-- Line `idx` of the code image of a slot's task: its captured copy where the loop buffer holds one (R145), or the line
at its home (DEDUCED, log 9; DEDUCED, log 10). `pc` is the code address that is fetched. -/
def State.codeLine (s : State) (slot : Nat) (st : Stream) (idx : Nat) (pc : Word) : LineRead :=
  let k := s.slotAt slot
  let lb := (k.seq st).loop.lines
  if lb.any fun e => e.1 == idx then .ok (SMap.get lb 0 idx).toNat
  else
    let va := k.task.base + 64 * idx
    match s.translate k.task.asid va with
    | .error e => .bad ⟨cXLATE, e, pc⟩
    | .ok l =>
      let loc := l.loc va
      if loc.tier = 0 ∧ Config.moduleBytes ≤ loc.pa then .void loc.pa
      else
        match s.linkHolds loc with
        | some none => .bad ⟨cDATA_LOST, 0, pc⟩
        | some (some c) => .wait c
        | none => .ok (leNat ((upto 64 loc.pa).map fun a => s.homeByte { loc with pa := a }))

/-! ### Link words (R129) -/

def linkOwner (line : Nat) : Nat := bits line 30 2
def linkEnd (line : Nat) : Bool := bit line 29
def linkCount (line : Nat) : Nat := bits line 25 4
def linkNext (line : Nat) : Nat := bits line 0 25

/-- The owner code of a stream. -/
def ownerOf : Stream → Nat
  | .a => 0
  | .x => 1

/-- Syllable `i` of a line. -/
def syllable (line i : Nat) : Nat := bits line (32 + 32 * i) 32

/-- The code address after an instruction that ends before syllable `syl` of line `idx` (R130). Past the end of a chain it
is an address that no fetch accepts. -/
def nextAddr (base line idx syl : Nat) : Word :=
  if syl ≤ linkCount line ∨ linkEnd line then codeAddr base idx syl else codeAddr base (linkNext line) 0

/-- One instruction as fetched: itself, its code address, its length, and the code address after it. -/
structure Fetched where
  instr : Instr
  pc : Word
  next : Word
  last : Bool
deriving DecidableEq, Repr

/-- How a fetch comes out. -/
inductive FetchRes where
  | ok (i : Fetched)
  | bad (b : Bad)
  | wait (cause : Nat)
  | void (pa : Nat)
deriving DecidableEq, Repr

/-- The instruction at a code address (R130, R132, checks 1 to 11 of R147). `last` says that no valid syllable follows it
in its line (DEDUCED, log 9; DEDUCED, log 10). -/
def State.fetchAt (s : State) (slot : Nat) (st : Stream) (pc : Word) : FetchRes :=
  let k := s.slotAt slot
  match codePlace k.task.base k.task.lines pc with
  | none => .bad ⟨cILLEGAL, 0x03, pc⟩
  | some (idx, syl) =>
    match s.codeLine slot st idx pc with
    | .bad b => .bad b
    | .wait c => .wait c
    | .void pa => .void pa
    | .ok line =>
      let n := linkCount line
      if linkOwner line = 3 ∨ n = 15 then .bad ⟨cILLEGAL, 0x01, BitVec.ofNat 64 (k.task.base + 64 * idx)⟩
      else if linkOwner line ≠ ownerOf st then .bad ⟨cILLEGAL, 0x02, pc⟩
      else if n < syl then .bad ⟨cILLEGAL, 0x03, pc⟩
      else
        match decode (some st) ((upto (n + 1 - syl) syl).map (syllable line)) with
        | .bad why off => .bad ⟨cILLEGAL, why.reason, codeAddr k.task.base idx (syl + off)⟩
        | .ok i len => .ok ⟨i, pc, nextAddr k.task.base line idx (syl + len), decide (n < syl + len)⟩

/-! ### Bundles (R143, R144) -/

/-- How the fetch of a bundle comes out: its instructions in order; a fault; a wait. -/
inductive BundleRes where
  | ok (is : List Fetched)
  | bad (b : Bad)
  | wait (cause : Nat)
  | void (pa : Nat)
deriving DecidableEq, Repr

/-- Collects the instructions of a bundle up to the first with S set; at most 15 fit a line. -/
def State.collect (s : State) (slot : Nat) (pc : Word) : Nat → BundleRes
  | 0 => .bad ⟨cILLEGAL, 0x0C, 0⟩
  | n + 1 =>
    match s.fetchAt slot .x pc with
    | .bad b => .bad b
    | .wait c => .wait c
    | .void pa => .void pa
    | .ok f =>
      if (f.instr.hdr?.map Hdr.stop).getD true || f.last then .ok [f]
      else
        match s.collect slot f.next n with
        | .ok r => .ok (f :: r)
        | e => e

/-- The `g` registers an X-stream instruction writes. -/
def Instr.gDest : Instr → List Reg
  | .add _ d _ _ | .sub _ d _ _ | .mul _ d _ _ | .mulh _ d _ _ | .mulhu _ d _ _ | .div _ d _ _ | .divu _ d _ _
  | .rem _ d _ _ | .remu _ d _ _ | .and _ d _ _ | .or _ d _ _ | .xor _ d _ _ | .andn _ d _ _ | .shl _ d _ _
  | .shr _ d _ _ | .sar _ d _ _ | .rot _ d _ _ | .min _ d _ _ | .max _ d _ _ | .minu _ d _ _ | .maxu _ d _ _
  | .sel _ d _ _ _ | .addi _ d _ _ | .andi _ d _ _ | .ori _ d _ _ | .xori _ d _ _ | .shli _ d _ _ | .shri _ d _ _
  | .sari _ d _ _ | .roti _ d _ _ | .clz _ d _ | .popc _ d _ | .sext _ d _ _ | .zext _ d _ _ | .bfx _ d _ _
  | .bfi _ d _ _ | .li _ d _ _ | .call _ d _ | .loop _ d _ _ | .dqpop _ d | .qcancel _ d _ | .sysrd _ d _
  | .mtopkrd _ d _ | .vext _ d _ _ _ => [d]
  | .brl .. => [31]
  | _ => []

/-- The predicates an X-stream instruction writes. -/
def Instr.pDest : Instr → List PReg
  | .cmpi _ p _ _ _ | .cmp _ p _ _ _ | .pand _ p _ _ | .por _ p _ _ | .pxor _ p _ _ | .pnot _ p _ | .pmov _ p _
  | .brq _ p _ _ _ => [p]
  | _ => []

/-- No element of a list stands in it twice. -/
def noTwice {α : Type} [DecidableEq α] : List α → Bool
  | [] => true
  | x :: r => !r.contains x && noTwice r

def Instr.isDqpop : Instr → Bool
  | .dqpop .. => true
  | _ => false

def Instr.isDqpush : Instr → Bool
  | .dqpush .. => true
  | _ => false

def Instr.isBqpush : Instr → Bool
  | .bqpush .. => true
  | _ => false

/-- The limits of a bundle (R143). A bundle holds one instruction of the matrix and one of the vector class, so no two
of its instructions write one vector register or mask. -/
def bundleOk (is : List Instr) : Bool :=
  let cnt := fun (c : Cls) => (is.filter fun i => i.info.cls == c).length
  decide (is.length ≤ 4) && decide (cnt .scalar ≤ 2) && decide (cnt .matrix ≤ 1) && decide (cnt .vector ≤ 1) &&
    (is.dropLast.all fun i => i.info.cls != .control) &&
    decide ((is.filter Instr.isDqpop).length ≤ 1) && decide ((is.filter Instr.isDqpush).length ≤ 1) &&
    decide ((is.filter Instr.isBqpush).length ≤ 1) &&
    noTwice ((is.flatMap Instr.gDest).filter (· != 0)) && noTwice ((is.flatMap Instr.pDest).filter (· != 0))

/-- The bundle at a code address: each instruction passes checks 1 to 11, then the bundle rules (R147). -/
def State.fetchBundle (s : State) (slot : Nat) (pc : Word) : BundleRes :=
  match s.collect slot pc 15 with
  | .ok is =>
    let stops := is.getLast?.all fun f => (f.instr.hdr?.map Hdr.stop).getD true
    if stops && bundleOk (is.map Fetched.instr) then .ok is else .bad ⟨cILLEGAL, 0x0C, pc⟩
  | e => e

/-- The code address that follows the instruction a sequencer stands at (R130). -/
def State.nextOf (s : State) (slot : Nat) (st : Stream) : Word :=
  let pc := ((s.slotAt slot).seq st).pc
  match s.fetchAt slot st pc with
  | .ok f => f.next
  | _ => pc

end Sys2Proof.Machine
end

