-- ==== Sys2Proof/Machine/Results.lean ====
section
/-! DEFINITION. What an engine instruction writes into registers (R33), what a copy adds to its copy group at issue (R55),
and the removal of a queue entry (R27). -/

namespace Sys2Proof.Machine

/-- The registers an engine instruction returns values in: `g` registers it only writes, `g` registers it also reads, and
predicates. -/
structure EngOut where
  w : List Reg := []
  rw : List Reg := []
  p : List PReg := []
deriving DecidableEq, Repr

/-- The predicate of a `.nb` form (R53, R202). -/
def nbPred (h : Hdr) : List PReg := if modNb h then [modPred h] else []

/-- The number of set bits of a core mask. -/
def maskCount (mc : BitVec 4) : Nat := ((upto 4 0).filter fun i => mc.getLsbD i).length

/-- The destination registers of a multicast: `d` and those after it (R207). -/
def mcRegs (d : Reg) (mc : BitVec 4) : List Reg := (upto (maskCount mc) d.toNat).map (BitVec.ofNat 5)

def Instr.engOut : Instr → EngOut
  | .fetch h d .. | .fetchT h d .. => { w := [d], p := nbPred h }
  | .fetchMc h d _ _ _ _ _ _ _ _ _ _ mc => { w := mcRegs d mc, p := nbPred h }
  | .talloc h d .. => { w := [d], p := nbPred h }
  | .tquery _ d _ _ => { w := [d] }
  | .park _ d .. => { w := [d] }
  | .unpark h d .. => { w := [d], p := nbPred h }
  | .cgath h d .. => { w := [d], p := nbPred h }
  | .btnext _ d k _ => { w := [d], rw := [k] }
  | .dcal _ d _ => { w := [d] }
  | .dstat _ d _ _ => { w := [d] }
  | .mtopkrd _ d _ => { w := [d] }
  | .vext _ d _ _ _ => { w := [d] }
  | _ => {}

/-- The registers that will be written. -/
def EngOut.gs (o : EngOut) : List Reg := o.w ++ o.rw

/-- `Bytes(td)`: the full size of a tile of a format (R55). -/
def tileBytes (fmt : Nat) : Nat := if fmt = 3 then 36864 else 32768

/-- What a copy adds to the expected count of its group at issue (R55, R207, R210, R213, R215, R217, R225). -/
def Cmd.bytes (c : Cmd) : Nat :=
  match c.instr with
  | .fetch .. | .fetchT .. | .fetchRf .. | .tstore .. => tileBytes c.td.fmt
  | .fetchMc _ _ _ _ _ _ _ _ _ _ _ _ mc => maskCount mc * tileBytes c.td.fmt
  | .park .. | .unpark .. => 36864
  | .ccopy .. => c.opN 2
  | .cgath .. | .cscat .. => 32768
  | .fred .. => 64
  | _ => 0

def Instr.isDrun : Instr → Bool
  | .drun .. => true
  | _ => false

/-- A `DRUN` lowers the pending count its issue raised, in its own generation (R55). -/
def Slot.unpend (k : Slot) (c : Cmd) : Slot :=
  match copyGroup c.instr with
  | none => k
  | some i =>
    let g := k.cg.get ⟨i.toNat, i.isLt⟩
    if Instr.isDrun c.instr && g.gen.toNat == c.cgGen then
      { k with cg := k.cg.set i.toNat { g with pend := g.pend - 1 } i.isLt }
    else k

/-- The sequencer that pushes into an engine's queue (R142). -/
def pusher : Engine → Stream
  | .copy => .a
  | .matrix | .vector => .x

/-- An engine writes a `g` register of the sequencer that pushed the entry. -/
def Slot.deliver (k : Slot) (e : Engine) (r : Reg) (v : Word) : Slot := k.updSeq (pusher e) fun q => q.deliver r v

/-- An engine writes a predicate of the sequencer that pushed the entry. -/
def Slot.deliverP (k : Slot) (e : Engine) (r : PReg) (b : Bool) : Slot :=
  k.updSeq (pusher e) fun q => q.deliverP r b

/-- A register an engine both reads and writes keeps its value and waits no more. -/
def Slot.keepReg (k : Slot) (e : Engine) (r : Reg) : Slot :=
  k.updSeq (pusher e) fun q => { q with awG := q.awG &&& ~~~(BitVec.twoPow 32 r.toNat) }

/-- An entry is removed as if it had been performed with no effect (R27). -/
def Slot.cancel (k : Slot) (e : Engine) (c : Cmd) : Slot :=
  let o := Instr.engOut c.instr
  let k := k.untag c.tags
  let k := k.landed (copyGroup c.instr) c.cgGen c.bytes
  let k := k.unpend c
  let k := o.w.foldl (fun k r => k.deliver e r 0) k
  let k := o.rw.foldl (fun k r => k.keepReg e r) k
  o.p.foldl (fun k p => k.deliverP e p false) k

/-- `QCANCEL` removes an entry: it carries the tag and has not started (R27). -/
def Cmd.cancels (c : Cmd) (tag : BitVec 8) : Bool := !c.started && c.hdr.itag == tag

/-- The entries that `QCANCEL` removes from an engine of a slot, those set aside included. -/
def Slot.cancelled (k : Slot) (e : Engine) (tag : BitVec 8) : List Cmd :=
  (k.queue e ++ k.aside e).filter fun c => c.cancels tag

/-- Removes them, with all that R27 gives. -/
def Slot.cancelAll (k : Slot) (e : Engine) (tag : BitVec 8) : Slot :=
  let gone := k.cancelled e tag
  let keep := fun (q : List Cmd) => q.filter fun c => !c.cancels tag
  gone.foldl (fun k c => k.cancel e c) ((k.setQueue e (keep (k.queue e))).setAside e (keep (k.aside e)))

end Sys2Proof.Machine
end

