-- ==== Sys2Proof/Machine/Control.lean ====
section
/-! DEFINITION. Branches, calls and loops (R145, R159 to R161), the sequencer queues (R162, R163), task control (R164,
R165, R168, R169), traps and the return from the handler (R171 to R173), and `SHAPE` (R175). -/

namespace Sys2Proof.Machine

/-! ### Branches (R137, R159, R160) -/

/-- The target of an F-B branch of the instruction in issue. -/
def State.target (s : State) (off : BitVec 13) (syl : BitVec 4) : Word :=
  branchTarget s.me.task.base s.cur.pc off syl

/-- BR (R159). -/
def execBr (h : Hdr) (p : PReg) (neg : Bool) (off : BitVec 13) (syl : BitVec 4) (s : State) : Out :=
  s.issuePure h [] [p] fun t => if t.rp p != neg then t.branch (t.target off syl) else t

/-- BRL (R159): when taken it writes `g31 := Next`. -/
def execBrl (h : Hdr) (p : PReg) (neg : Bool) (off : BitVec 13) (syl : BitVec 4) (s : State) : Out :=
  s.issuePure h [31] [p] fun t =>
    if t.rp p != neg then (t.wg 31 t.cur.next).branch (t.target off syl) else t

/-- JMPR (R160). -/
def execJmpr (h : Hdr) (a : Reg) (s : State) : Out := s.issuePure h [a] [] fun t => t.branch (t.rg a)

/-- CALL (R160): the target is read before `gD` is written. -/
def execCall (h : Hdr) (d a : Reg) (s : State) : Out :=
  s.issuePure h [d, a] [] fun t => (t.wg d t.cur.next).branch (t.rg a)

/-- RET (R160). -/
def execRet (h : Hdr) (a : Reg) (s : State) : Out := s.issuePure h [a] [] fun t => t.branch (t.rg a)

/-! ### LOOP and the loop buffer (R145, R161) -/

/-- The lines of a code image that a list of code addresses lies in. -/
def State.linesOf (s : State) (slot : Nat) (st : Stream) (pcs : List Word) : SMap (BitVec 512) :=
  let t := (s.slotAt slot).task
  pcs.foldl (fun m pc =>
    match codePlace t.base t.lines pc with
    | none => m
    | some (i, _) =>
      match s.codeLine slot st i pc with
      | .ok v => SMap.set m 0 i (BitVec.ofNat 512 v)
      | _ => m) []

/-- What a taken `LOOP` makes of the loop buffer: it keeps the body it replays, captures one of at most 64 instructions
without a taken branch, or drops what it held (DEDUCED, log 9). -/
def State.capture (s : State) (slot : Nat) (st : Stream) (pc target : Word) : LoopBuf :=
  let lb := ((s.slotAt slot).seq st).loop
  let trail := pc :: lb.trail
  match findIdx (· == target) trail 0 with
  | none => {}
  | some (i, _) =>
    if 64 ≤ i then {}
    else if lb.first = target ∧ lb.last = pc ∧ lb.lines ≠ [] then lb
    else { trail := lb.trail, first := target, last := pc, lines := s.linesOf slot st (trail.take (i + 1)) }

/-- LOOP (R161). -/
def execLoop (h : Hdr) (c : Reg) (off : BitVec 13) (syl : BitVec 4) (s : State) : Out :=
  s.issuePure h [c] [] fun t =>
    let n := t.rg c
    if n = 0 then t.updSeq t.cur.slot t.cur.st Seq.cutLoop
    else
      let u := t.wg c (n - 1)
      if n - 1 = 0 then u.updSeq t.cur.slot t.cur.st Seq.cutLoop
      else
        let to_ := t.target off syl
        let lb := t.capture t.cur.slot t.cur.st t.cur.pc to_
        (u.updSeq t.cur.slot t.cur.st fun q => { q with loop := lb }).jump to_

/-! ### Sequencer queues (R13, R162, R163) -/

/-- The outbound data queue of a sequencer, its depth, and its inbound one. -/
def Slot.dqOut (k : Slot) : Stream → List Word
  | .a => k.dqAx
  | .x => k.dqXa
def dqDepth : Stream → Nat
  | .a => Config.dqAxDepth
  | .x => Config.dqXaDepth
def Slot.dqIn (k : Slot) : Stream → List Word
  | .a => k.dqXa
  | .x => k.dqAx
def Slot.setDqOut (k : Slot) (st : Stream) (q : List Word) : Slot :=
  match st with
  | .a => { k with dqAx := q }
  | .x => { k with dqXa := q }
def Slot.setDqIn (k : Slot) (st : Stream) (q : List Word) : Slot :=
  match st with
  | .a => { k with dqXa := q }
  | .x => { k with dqAx := q }

/-- The branch-outcome queues likewise. -/
def Slot.bqOut (k : Slot) : Stream → List Bool
  | .a => k.bqAx
  | .x => k.bqXa
def Slot.bqIn (k : Slot) : Stream → List Bool
  | .a => k.bqXa
  | .x => k.bqAx
def Slot.setBqOut (k : Slot) (st : Stream) (q : List Bool) : Slot :=
  match st with
  | .a => { k with bqAx := q }
  | .x => { k with bqXa := q }
def Slot.setBqIn (k : Slot) (st : Stream) (q : List Bool) : Slot :=
  match st with
  | .a => { k with bqXa := q }
  | .x => { k with bqAx := q }

/-- DQPUSH (R162): a push into a full queue stalls. -/
def execDqpush (h : Hdr) (a : Reg) (s : State) : Out :=
  s.issueSeq h [a] [] fun t =>
    let q := t.me.dqOut t.cur.st
    if q.length < dqDepth t.cur.st then .done (t.updMe fun k => k.setDqOut t.cur.st (q ++ [t.rg a])) else .stall t

/-- DQPOP (R162): a pop from an empty queue stalls. -/
def execDqpop (h : Hdr) (d : Reg) (s : State) : Out :=
  s.issueSeq h [d] [] fun t =>
    match t.me.dqIn t.cur.st with
    | [] => .stall t
    | v :: r => .done ((t.updMe fun k => k.setDqIn t.cur.st r).wg d v)

/-- BQPUSH (R162). -/
def execBqpush (h : Hdr) (p : PReg) (s : State) : Out :=
  s.issueSeq h [] [p] fun t =>
    let q := t.me.bqOut t.cur.st
    if q.length < Config.bqDepth then .done (t.updMe fun k => k.setBqOut t.cur.st (q ++ [t.rp p])) else .stall t

/-- BRQ (R163): pops one bit, writes it to `pN`, and branches when it differs from `neg`. -/
def execBrq (h : Hdr) (p : PReg) (neg : Bool) (off : BitVec 13) (syl : BitVec 4) (s : State) : Out :=
  s.issueSeq h [] [p] fun t =>
    match t.me.bqIn t.cur.st with
    | [] => .stall t
    | o :: r =>
      let u := (t.updMe fun k => k.setBqIn t.cur.st r).wp p o
      .done (if o != neg then u.branch (t.target off syl) else u)

/-! ### Task control (R15, R164, R165, R168, R169) -/

/-- A fault of the sequencer's state (reason 0x0D). -/
def badState (pc : Word) : Bad := ⟨cILLEGAL, 0x0D, pc⟩

/-- FORK (R164): valid in SOLO only; X-seq starts at the target. -/
def execFork (h : Hdr) (off : BitVec 13) (syl : BitVec 4) (s : State) : Out :=
  s.issueSeq h [] [] fun t =>
    if t.me.st = .solo then
      let to_ := t.target off syl
      .done (t.updMe fun k => { k with st := .both, x := { k.x with pc := to_, loop := {}, parked := false } })
    else .bad (badState t.cur.pc)

def Instr.isRdv : Instr → Bool
  | .rdv .. => true
  | _ => false

/-- X-seq's waiting bundle is its `RDV` alone. -/
def State.xRdvAlone (s : State) (slot : Nat) : Bool :=
  match s.fetchAt slot .x (s.slotAt slot).x.pc with
  | .ok f => Instr.isRdv f.instr
  | _ => false

/-- The other sequencer's `RDV` retires with this one's. -/
def State.retireRdv (s : State) (slot : Nat) (st : Stream) : State :=
  let next := s.nextOf slot st
  s.updSlot slot fun k => k.finish st ⟨true, none⟩ (k.seq st).pc next

/-- RDV (R15, R165). In MEET both retire together and X-seq goes idle. Where X-seq waits at a bundle that holds more than
its `RDV`, A-seq is left waiting, and the step issues that bundle at once (R144). -/
def execRdv (h : Hdr) (s : State) : Out :=
  s.issueSeq h [] [] fun t =>
    let n := t.cur.slot
    match t.cur.st, t.me.st with
    | .a, .solo => .done t
    | .a, .both => .stall (t.updMe fun k => { k with st := .meetA })
    | .a, .meetX =>
      if t.xRdvAlone n then .done ((t.retireRdv n .x).updSlot n fun k => { k with st := .solo })
      else .stall (t.updMe fun k => { k with st := .meetA })
    | .x, .both => .stall (t.updMe fun k => { k with st := .meetX })
    | .x, .meetA => .done ((t.retireRdv n .a).updSlot n fun k => { k with st := .solo })
    | _, _ => .stall t

/-- EXIT (R165): valid while X-seq is idle; the slot enters CLOSING. -/
def execExit (h : Hdr) (s : State) : Out :=
  s.issueSeq h [] [] fun t =>
    if t.me.st = .solo then .done (t.updMe fun k => { k with st := .closing }) else .bad (badState t.cur.pc)

/-- NOP (R168). -/
def execNop (h : Hdr) (s : State) : Out := s.issuePure h [] [] id

/-- The counts that `QCANCEL` writes (R169; DEDUCED, log 36). -/
def cancelCounts (c m v : Nat) : Word := BitVec.ofNat 64 (c + m * 2 ^ 16 + v * 2 ^ 32)

/-- QCANCEL (R27, R169; DEDUCED, log 36). -/
def execQcancel (h : Hdr) (d : Reg) (tag : BitVec 8) (s : State) : Out :=
  s.issuePure h [d] [] fun t =>
    let k := t.me
    let n := cancelCounts (k.cancelled .copy tag).length (k.cancelled .matrix tag).length (k.cancelled .vector tag).length
    (t.updMe fun k => ((k.cancelAll .copy tag).cancelAll .matrix tag).cancelAll .vector tag).wg d n

/-! ### Traps (R171 to R173) -/

/-- TRAP (R171): the fault is taken; `%fault.ret` is Next. -/
def execTrap (h : Hdr) (code : BitVec 16) (s : State) : Out :=
  match s.gate h [] [] with
  | .badQueue => s.badQueue
  | .waits => .next s.stalled
  | .open_ => .next (s.issueFault ⟨cTRAP, 0, 0⟩ code s.cur.next)

/-- ERET (R172): handler mode is left, and A-seq continues at `%fault.ret`. -/
def execEret (h : Hdr) (s : State) : Out :=
  s.issueSeq h [] [] fun t =>
    if t.me.fault.handler then .done ((t.updMe Slot.leaveHandler).branch t.me.fault.ret) else .bad (badState t.cur.pc)

/-- BREAK (R173): it retires, and then raises BREAK, which waits for the boundary that follows. -/
def execBrk (h : Hdr) (code : BitVec 16) (s : State) : Out :=
  s.issuePure h [] [] fun t =>
    t.raise t.cur.slot { cause := cBREAK, pc := t.cur.pc, source := srcOf t.cur.st, code := code }

/-! ### SHAPE (R175) -/

/-- What `SHAPE` grants: the partition, the vector registers, the accumulators. -/
def State.shapeGrants (s : State) (g : Word) (acc : BitVec 6) : Nat × Nat × Nat :=
  let k := s.me
  let v := bits g.toNat 16 6
  (min (bits g.toNat 0 10) (min k.quotaT s.myCore.capTile), if v = 0 ∨ 32 < v then 32 else v,
    min acc.toNat (min k.quotaA s.myCore.capAcc))

/-- The grants are set; accumulators and vector registers beyond them are cleared (R175). -/
def Slot.grant (k : Slot) (part vreg acc : Nat) : Slot :=
  { k with
    grantT := part, grantV := vreg, grantA := acc
    acc := k.acc.filter fun e => decide (e.1 < 128 * acc)
    accTag := k.accTag.filter fun e => decide (e.1 < acc)
    v := k.v.filter fun e => decide (e.1 < vreg) }

/-- SHAPE (R175): it waits until the slot's matrix and vector queues are empty, their issue held meanwhile. -/
def execShape (h : Hdr) (d a : Reg) (acc : BitVec 6) (s : State) : Out :=
  s.issueSeq h [d, a] [] fun t =>
    let k := t.me
    if k.mq.isEmpty && k.vq.isEmpty && k.mAside.isEmpty && k.vAside.isEmpty then
      let g := t.shapeGrants (t.rg a) acc
      .done ((t.updMe fun k => k.grant g.1 g.2.1 g.2.2).wg d (BitVec.ofNat 64 g.1))
    else .stall (t.updMe fun k => { k with a := { k.a with shaping := true } })

end Sys2Proof.Machine
end

