-- ==== Sys2Proof/Machine/Tensor.lean ====
section
/-! DEFINITION. Tensor descriptors and the descriptor cache (R79, R203, R310), elements and scales of a tensor (R204), and
the bytes a binding or a tile copy covers (R114, R115). -/

namespace Sys2Proof.Machine

/-! ### Descriptors -/

/-- The format codes that name an element format a tile can have (R71); UE8M8 is for block scales only. -/
def fmtOk (fmt : Nat) : Bool := decide (1 ≤ fmt) && decide (fmt ≤ 7)

/-- A descriptor entry, from its 128 bytes as a number (R203). -/
def parseDesc (tid v : Nat) : TDesc :=
  let w := fun i => bits v (64 * i) 64
  let rank := bits (w 1) 8 3
  let dim := fun (i x : Nat) => if i < rank then x else 1
  let stride := fun (i x : Nat) => if i < rank then x else 0
  { tid := tid, base := w 0, fmt := bits (w 1) 0 4, mark := bit (w 1) 4, disc := bit (w 1) 5, rank := rank,
    pad := bits (w 1) 32 (elemBits (bits (w 1) 0 4)), d0 := dim 0 (bits (w 2) 0 32), d1 := dim 1 (bits (w 2) 32 32),
    d2 := dim 2 (bits (w 3) 0 32), d3 := dim 3 (bits (w 3) 32 32), s1 := stride 1 (w 4), s2 := stride 2 (w 5),
    s3 := stride 3 (w 6), scales := w 7, cb := BitVec.ofNat 256 (bits v 512 256) }

/-- Codebook entry `c` (R78). -/
def TDesc.cbEntry (t : TDesc) (c : Nat) : Nat := bits t.cb.toNat (16 * c) 16

/-- A codebook entry with E = 0xFF refuses the load of a CB4 descriptor (R79). -/
def TDesc.cbBad (t : TDesc) : Bool := t.fmt == 3 && (upto 16 0).any fun c => bits (t.cbEntry c) 7 8 == 0xFF

def descKey (asid tid : Nat) : Nat := asid * 65536 + tid

/-- The descriptor an instruction of a slot names: the copy its core holds, or one read from the table and cached
(R203); the codebook is checked at the load (R79), RANK and FORMAT at each issue (DESIGN CHOICE, log 7). -/
def State.descFor (s : State) (slot : Nat) (tid : Nat) : Except Bad (State × TDesc) :=
  let core := coreOf slot
  let asid := (s.slotAt slot).task.asid
  let key := descKey asid tid
  let addr := BitVec.ofNat 64 tid
  let chk := fun (t : State) (d : TDesc) =>
    if d.rank = 0 ∨ 4 < d.rank ∨ !fmtOk d.fmt then .error ⟨cFORMAT, 1, addr⟩ else .ok (t, d)
  if (s.coreAt core).desc.any fun e => e.1 == key then chk s (SMap.get (s.coreAt core).desc {} key)
  else
    let e := s.asidEntry asid
    if s.rdPhys (e + 24) 2 ≤ tid then .error ⟨cXLATE, 6, addr⟩
    else
      let d := parseDesc tid (s.rdPhys (bits (s.rdPhys (e + 16) 8) 7 45 * 128 + 128 * tid) 128)
      if d.cbBad then .error ⟨cFORMAT, 1, addr⟩
      else chk (s.updCore core fun c => { c with desc := SMap.set c.desc {} key d }) d

/-! ### Elements (R204) -/

/-- The upper indices a register names. -/
def upper (u : Word) : Nat × Nat := (bits u.toNat 0 32, bits u.toNat 32 32)

/-- An element lies in the tensor. -/
def TDesc.inside (t : TDesc) (r c : Nat) (u : Word) : Bool :=
  decide (r < t.d1) && decide (c < t.d0) && decide ((upper u).1 < t.d2) && decide ((upper u).2 < t.d3)

/-- The address of element (`r`, 0). -/
def TDesc.rowAddr (t : TDesc) (r : Nat) (u : Word) : Nat :=
  (t.base + (upper u).2 * t.s3 + (upper u).1 * t.s2 + r * t.s1) % 2 ^ 64

/-- The address of element (`r`, `c`): of its byte for CB4. -/
def TDesc.elemAddr (t : TDesc) (r c : Nat) (u : Word) : Nat :=
  (t.rowAddr r u + c * elemBits t.fmt / 8) % 2 ^ 64

/-- The address of the scale of block `b` of row `r`. -/
def TDesc.scaleAddr (t : TDesc) (r b : Nat) (u : Word) : Nat :=
  (t.scales + 2 * ((((upper u).2 * t.d2 + (upper u).1) * t.d1 + r) * ceilDiv t.d0 32 + b)) % 2 ^ 64

/-- A block scale lies in the tensor. -/
def TDesc.scaleIn (t : TDesc) (r b : Nat) (u : Word) : Bool := t.inside r (32 * b) u

/-! ### The bytes a tensor covers (R114) -/

/-- The first byte of the tensor, and the first after its last element; an empty tensor covers none. -/
def TDesc.span (t : TDesc) : Nat × Nat :=
  if t.d0 * t.d1 * t.d2 * t.d3 = 0 then (t.base, t.base)
  else
    let last := t.base + (t.d3 - 1) * t.s3 + (t.d2 - 1) * t.s2 + (t.d1 - 1) * t.s1
    (t.base, last + ceilDiv (t.d0 * elemBits t.fmt) 8)

/-- The byte ranges of the in-tensor elements of rows `r0 …` and columns `c0 …`, and of their block scales (R115). -/
def TDesc.foot (t : TDesc) (r0 c0 rows cols : Nat) (u : Word) : List (Nat × Nat) :=
  let n := min cols (t.d0 - c0)
  if n = 0 ∨ !t.inside r0 c0 u then []
  else
    let rs := upto (min rows (t.d1 - r0)) r0
    let data := rs.map fun r => (t.elemAddr r c0 u, ceilDiv (n * elemBits t.fmt) 8)
    if t.fmt = 3 then data ++ rs.map fun r => (t.scaleAddr r (c0 / 32) u, 2 * ceilDiv n 32) else data

end Sys2Proof.Machine
end

