-- ==== Sys2Proof/Machine/MemInstr.lean ====
section
/-! DEFINITION. Loads and stores (R178 to R181), fences and `DRAIN` (R113, R116, R118, R187 to R189), and range
bindings (R114, R190, R191). -/

namespace Sys2Proof.Machine

/-! ### Copies still to be performed (R102, R113) -/

/-- An entry reads or writes memory: a copy, or one whose addresses come from memory (DEDUCED, log 11). -/
def Cmd.touches (c : Cmd) : Bool :=
  match c.instr with
  | .talloc .. | .tcon .. | .trel .. | .tadj .. | .tsettle .. | .tquery .. | .dcal .. | .dstat .. => false
  | _ => true

/-- Every copy of the slot has been performed, but for entries set aside by a fault, which start again after `ERET`
(DEDUCED, log 11). -/
def Slot.copiesDone (k : Slot) : Bool := k.flight.isEmpty && !k.cq.any Cmd.touches

/-! ### LD and ST (R180, R181) -/

/-- XLATE of a load or store: a peer page (R95). -/
def lsXl (l : Leaf) : Option (BitVec 8) := if l.tier = 3 then some 3 else none
/-- PROT of a store: no write permission, then a page of the synchronisation tier (R180). -/
def stPr (l : Leaf) : Option (BitVec 8) := if !l.write then some 5 else if l.tier = 2 then some 6 else none

/-- An access is ordered as SO: it touches an uncached page (R101, R110, R180). -/
def anySO (bs : List (Nat × Leaf × Loc)) : Bool := bs.any fun b => !cached b.2.1

/-- The address of an F-M form. -/
def State.lsAddr (s : State) (b : Reg) (z : BitVec 3) (o : BitVec 8) : Word := s.rg b + displacement z o

/-- A wait of the slot in issue on a memory: counted, the instruction unretired (R97). -/
def State.memWait (s : State) (cause : Nat) : State := s.stallCause (coreOf s.cur.slot) s.me.task.tenant cause

/-- A byte as an `LD` sees it: a state word of a ring in use reads a free value (R194; DESIGN CHOICE, log 14). -/
def State.ldByte (s : State) (slot : Nat) (b : Nat × Leaf × Loc) : Byte :=
  if b.2.2.tier = 2 ∧ s.ringState (syncKey b.2.2.pa) then byteOf (Config.freeRingWord s.free) (b.2.2.pa % 8)
  else s.loadByte slot b

/-- LD (R180). An acquire takes its cache action once the load is performed (R103; DEDUCED, log 69). -/
def execLd (h : Hdr) (d b : Reg) (z : BitVec 3) (o : BitVec 8) (s : State) : Out :=
  s.issueSeq h [d, b] [] fun t =>
    let n := t.cur.slot
    let a := (t.lsAddr b z o).toNat
    match t.access t.me.task.asid a (accessBytes z) lsXl (fun _ => none) with
    | .bad e => .bad e
    | .wait c => .stall (t.memWait c)
    | .void pa => .void pa
    | .ok bs =>
      if t.me.tagsFull (t.me.tagsOf [(a, accessBytes z)]) then .stall t
      else
        let u := (t.holdAll t.me.task.asid bs).touchAll n bs
        let v := leNat (bs.map fun x => u.ldByte n x)
        let u := { u.wg d (extendLoad z v) with free := u.free + 1 }
        .done (if h.mod.getLsbD 0 then u.acquireCache n (scopeLs h) false else u)

/-- ST (R180, R181). A store of which every piece is cached is tagged HOME until its line is written back; one with an SO
piece is written through (R101). A release first writes back, and waits for the slot's copies (R103, R104;
DEDUCED, log 69). -/
def execSt (h : Hdr) (d b : Reg) (z : BitVec 3) (o : BitVec 8) (s : State) : Out :=
  s.issueSeq h [d, b] [] fun t =>
    let n := t.cur.slot
    let a := (t.lsAddr b z o).toNat
    match t.access t.me.task.asid a (accessBytes z) lsXl stPr with
    | .bad e => .bad e
    | .wait c => .stall (t.memWait c)
    | .void pa => .void pa
    | .ok bs =>
      let tags := t.me.tagsOf [(a, accessBytes z)]
      let rel := h.mod.getLsbD 0
      if t.me.tagsFull tags || (rel && !t.me.copiesDone) then .stall t
      else
        let u := if rel then t.releaseCache n (scopeLs h) false else t
        let u := (u.holdAll t.me.task.asid bs).touchAll n bs
        let num := t.myCore.nextStore
        let so := anySO bs
        let u := u.storeAll n num tags so bs (leBytes (accessBytes z) (t.rg d).toNat)
        let u := u.updCore (coreOf n) fun c => { c with nextStore := num + 1 }
        .done (if so then u else u.updMe fun k => { k with homes := raiseTags k.homes tags })

/-! ### Fences (R113, R116) -/

/-- FENCE (R113): the write-back, the wait, the invalidation (DEDUCED, log 11). -/
def execFence (h : Hdr) (scope : BitVec 3) (s : State) : Out :=
  s.issueSeq h [] [] fun t =>
    let u := t.releaseCache t.cur.slot scope.toNat true
    if u.me.copiesDone then .done (u.acquireCache u.cur.slot scope.toNat true) else .stall u

/-- `Covered(L)` of R116, for a line by its virtual address. -/
def Slot.covered (k : Slot) (mask : BitVec 16) (va : Nat) : Bool :=
  ((upto 15 0).any fun i => mask.getLsbD i && (SMap.get k.rng {} i).meets va 128) ||
    (mask.getLsbD 15 && (upto 128 va).any fun a => !(upto 15 0).any fun i => (SMap.get k.rng {} i).meets a 1)

/-- The counters that `FENCER` waits for stand at zero. -/
def Slot.tagsZero (k : Slot) (mask : BitVec 16) (scope : Nat) : Bool :=
  (upto 16 0).all fun i => !mask.getLsbD i || SMap.get (if scope ≤ 1 then k.locals else k.homes) 0 i == 0

/-- FENCER (R116, R188). -/
def execFencer (h : Hdr) (scope : BitVec 3) (mask : BitVec 16) (s : State) : Out :=
  s.issueSeq h [] [] fun t =>
    let n := t.cur.slot
    let cov := fun (l : DLine) => t.me.covered mask l.va
    let u := if scope.toNat < 2 then t else t.writeBackWhere n cov
    if u.me.tagsZero mask scope.toNat then .done (if scope.toNat < 2 then u else u.invalidateWhere n cov) else .stall u

/-! ### DRAIN (R118, R189) -/

/-- The entries that stand before a marker in a queue; a handler's `DRAIN` does not see those set aside. -/
def Slot.before (k : Slot) (e : Engine) (mark : Nat) : Bool :=
  (k.queue e ++ if k.fault.handler then [] else k.aside e).any fun c => decide (c.num < mark)

/-- Every marker has reached the head of its queue, and no write of the slot awaits its acknowledgement. -/
def Slot.drained (k : Slot) (eng : BitVec 3) (mark : Nat) : Bool :=
  (!eng.getLsbD 0 || !k.before .copy mark) && (!eng.getLsbD 1 || !k.before .matrix mark) &&
    (!eng.getLsbD 2 || !k.before .vector mark) && k.flight.isEmpty

/-- DRAIN (R118): its markers stand behind the entries pushed before its first attempt (DEDUCED, log 11). -/
def execDrain (h : Hdr) (eng : BitVec 3) (s : State) : Out :=
  s.issueSeq h [] [] fun t =>
    let mark := t.mySeq.drain.getD t.me.nextCmd
    if t.me.drained eng mark then .done t
    else .stall (t.updSeq t.cur.slot t.cur.st fun q => { q with drain := some mark })

/-! ### Range bindings (R114, R190, R191) -/

/-- The counters of a range slot stand at zero. -/
def Slot.rngIdle (k : Slot) (n : Nat) : Bool := SMap.get k.locals 0 n == 0 && SMap.get k.homes 0 n == 0

/-- Binds a range slot once its counters stand at zero. -/
def State.bindRng (t : State) (n : Nat) (r : Rng) : Body :=
  if t.me.rngIdle n then .done (t.updMe fun k => { k with rng := SMap.set k.rng {} n r }) else .stall t

/-- The registers RNGBIND names. -/
def rngRegs (a : Reg) (kind lreg : Bool) (len : BitVec 31) : List Reg :=
  if !kind && lreg then [a, len.extractLsb' 0 5] else [a]

/-- RNGBIND (R190): KIND 0 an address and a length, KIND 1 a tensor. -/
def execRngbind (h : Hdr) (n : BitVec 4) (a : Reg) (kind lreg : Bool) (len : BitVec 31) (s : State) : Out :=
  s.issueSeq h (rngRegs a kind lreg len) [] fun t =>
    if kind then
      let tid := bits (t.rg a).toNat 0 16
      match t.descFor t.cur.slot tid with
      | .error b => .bad b
      | .ok (u, td) =>
        u.bindRng n.toNat { bound := true, tensor := true, ident := BitVec.ofNat 64 tid, lo := td.span.1, hi := td.span.2 }
    else
      let l := if lreg then (t.rg (len.extractLsb' 0 5)).toNat else len.toNat
      if l = 0 ∨ 2 ^ 40 < l then .bad ⟨cILLEGAL, 0x0F, 0⟩
      else
        let base := (t.rg a).toNat
        t.bindRng n.toNat { bound := true, ident := t.rg a, len := l, lo := base, hi := base + l }

/-- RNGFREE (R191): freeing an unbound range slot only waits. -/
def execRngfree (h : Hdr) (n : BitVec 4) (s : State) : Out :=
  s.issueSeq h [] [] fun t => t.bindRng n.toNat {}

end Sys2Proof.Machine
end

