-- ==== Sys2Proof/Machine/Atomics.lean ====
section
/-! DEFINITION. Atomics (R94, R124, R182 to R184) and the first half of a remote atomic (R351). -/

namespace Sys2Proof.Machine

/-! ### The operation at the home -/

/-- The new value of an atomic, none where nothing is written: a compare-and-swap that fails (R182). -/
def atomNew (op : AtomOp) (old : Nat) : Option Nat :=
  let w := 8 * op.size
  let y := op.y.toNat % 2 ^ w
  let less := if op.uns then decide (y < old) else decide (sgn w y < sgn w old)
  match op.kind with
  | .add => some ((old + y) % 2 ^ w)
  | .fadd => some (if op.size = 2 then fadd16 old y else fadd32 old y)
  | .min => some (if less then y else old)
  | .max => some (if less then old else y)
  | .and => some (old &&& y)
  | .or => some (old ||| y)
  | .xor => some (old ^^^ y)
  | .swap => some y
  | .cas => if old = y then some (op.z.toNat % 2 ^ w) else none

/-- The atomic performed at a home of this package in one step: the state and the old value (R124, R183). A write of a
sync word re-evaluates dependences (R19) and leaves its full bit. -/
def State.atomHome (s : State) (tier : Nat) (op : AtomOp) : State × Nat :=
  if tier = 2 then
    let key := syncKey op.pa
    let w := (s.syncWord key).toNat
    let o := 8 * (op.pa % 8)
    let old := bits w o (8 * op.size)
    match atomNew op old with
    | none => (s, old)
    | some v => (s.syncStore key (BitVec.ofNat 64 (w - old * 2 ^ o + v * 2 ^ o)) none, old)
  else
    let old := s.rdPhys op.pa op.size
    match atomNew op old with
    | none => (s, old)
    | some v => (s.wrPhys op.pa op.size v, old)

/-! ### Issue -/

/-- XLATE of an atomic: host memory (R124). -/
def atXl (l : Leaf) : Option (BitVec 8) := if l.tier = 1 then some 4 else none
/-- PROT of an access that changes memory: no write permission. -/
def wrPr (l : Leaf) : Option (BitVec 8) := if !l.write then some 5 else none

/-- The size in bytes of a size code (R182). -/
def atomBytes (sz : BitVec 2) : Nat := 2 ^ (sz.toNat + 1)

/-- A remote atomic is sent once; its slot waits for the reply (R184, R351). -/
def State.sendAtomic (s : State) (dst : Nat) (op : AtomOp) (h : Hdr) (d : Reg) (ord scope : Nat) : State :=
  match s.me.ratom with
  | some _ => s
  | none =>
    let n := s.atomNum
    let r : RAtom := { slot := s.cur.slot, dst := dst, op := op, h := h, d := d, ord := ord, scope := scope,
                       next := s.cur.next, pc := s.cur.pc, sentAt := s.time }
    { s.updMe fun k => { k with ratom := some n } with
      atomNum := n + 1
      ratoms := SMap.set s.ratoms none n (some r)
      out := s.out ++ [.atomReq dst n op] }

/-- The reply that waits for a remote atomic in issue (R184). -/
def State.atomReply (s : State) : Option Word := s.me.ratom.bind fun n => (SMap.get s.ratoms none n).bind fun r => r.old

/-- A remote atomic of a slot is over. -/
def State.endAtomic (s : State) (slot num : Nat) : State :=
  { s.updSlot slot fun k => { k with ratom := none } with ratoms := SMap.set s.ratoms none num none }

/-- An atomic issues (R183): ALIGN, XLATE, PROT in this order (R318); then the operation at the home, ordered as its ORD
gives. -/
def State.atomic (s : State) (h : Hdr) (kind : AtomKind) (uns : Bool) (d a b c : Reg) (sz ord : BitVec 2)
    (scope : BitVec 3) : Out :=
  s.issueSeq h [d, a, b, c] [] fun t =>
    let n := t.cur.slot
    let sz := atomBytes sz
    let x := (t.rg a).toNat
    if x % sz ≠ 0 then .bad ⟨cALIGN, 1, t.rg a⟩
    else
      match t.access t.me.task.asid x sz atXl wrPr with
      | .bad e => .bad e
      | .wait w => .stall (t.memWait w)
      | .void pa => .void pa
      | .ok bs =>
        match bs with
        | [] => .stall t
        | (_, _, loc) :: _ =>
          let op : AtomOp := ⟨kind, sz, uns, loc.pa, t.rg b, t.rg c⟩
          let rel := ord.getLsbD 1
          if loc.tier = 2 ∧ t.objectWord (syncKey loc.pa) then .bad ⟨cPROT, 7, t.rg a⟩
          else if t.me.tagsFull (t.me.tagsOf [(x, sz)]) || (rel && !t.me.copiesDone) then .stall t
          else
            let u := (if rel then t.releaseCache n scope.toNat false else t).holdAll t.me.task.asid bs
            let fin := fun (v : State) => Body.done (if ord.getLsbD 0 then v.acquireCache n scope.toNat false else v)
            if loc.tier = 3 then
              match t.atomReply with
              | some old => fin ((u.endAtomic n (t.me.ratom.getD 0)).wg d old)
              | none => .stall ((u.sendAtomic loc.pkg op h d ord.toNat scope.toNat).memWait 3)
            else
              let r := (u.flushLoc n loc).atomHome loc.tier op
              fin (r.1.wg d (BitVec.ofNat 64 r.2))

/-- AADD (R182). -/
def execAadd (h : Hdr) (d a b : Reg) (sz ord : BitVec 2) (scope : BitVec 3) (s : State) : Out :=
  s.atomic h .add false d a b 0 sz ord scope
/-- AFADD (R94, R182). -/
def execAfadd (h : Hdr) (d a b : Reg) (sz ord : BitVec 2) (scope : BitVec 3) (s : State) : Out :=
  s.atomic h .fadd false d a b 0 sz ord scope
/-- AMIN (R182). -/
def execAmin (h : Hdr) (d a b : Reg) (sz ord : BitVec 2) (scope : BitVec 3) (u : Bool) (s : State) : Out :=
  s.atomic h .min u d a b 0 sz ord scope
/-- AMAX (R182). -/
def execAmax (h : Hdr) (d a b : Reg) (sz ord : BitVec 2) (scope : BitVec 3) (u : Bool) (s : State) : Out :=
  s.atomic h .max u d a b 0 sz ord scope
/-- AAND (R182). -/
def execAand (h : Hdr) (d a b : Reg) (sz ord : BitVec 2) (scope : BitVec 3) (s : State) : Out :=
  s.atomic h .and false d a b 0 sz ord scope
/-- AOR (R182). -/
def execAor (h : Hdr) (d a b : Reg) (sz ord : BitVec 2) (scope : BitVec 3) (s : State) : Out :=
  s.atomic h .or false d a b 0 sz ord scope
/-- AXOR (R182). -/
def execAxor (h : Hdr) (d a b : Reg) (sz ord : BitVec 2) (scope : BitVec 3) (s : State) : Out :=
  s.atomic h .xor false d a b 0 sz ord scope
/-- ASWP (R182). -/
def execAswp (h : Hdr) (d a b : Reg) (sz ord : BitVec 2) (scope : BitVec 3) (s : State) : Out :=
  s.atomic h .swap false d a b 0 sz ord scope
/-- ACAS (R182). -/
def execAcas (h : Hdr) (d a b : Reg) (sz ord : BitVec 2) (scope : BitVec 3) (c : Reg) (s : State) : Out :=
  s.atomic h .cas false d a b c sz ord scope

end Sys2Proof.Machine
end

