-- ==== Sys2Proof/Machine/SyncWords.lean ====
section
/-! DEFINITION. Full/empty sync words (R123, R185, R186), groups (R127, R192, R193), rings (R125, R126, R194 to R196) and
expert spill (R197). -/

namespace Sys2Proof.Machine

/-! ### The address of a synchronisation object -/

/-- XLATE of a sync-word instruction: a peer page, or a page of another tier (R185, R200). -/
def swXl (l : Leaf) : Option (BitVec 8) := if l.tier = 3 then some 3 else if l.tier = 2 then none else some 5
/-- XLATE of a group, a ring or an `XROUTE` probe (R193, R196, R200). -/
def objXl (l : Leaf) : Option (BitVec 8) := if l.tier = 2 then none else some 5
def noPr (_ : Leaf) : Option (BitVec 8) := none

/-- The checks of an object of `size` bytes at `x`, then what is done with the number of its first word. -/
def State.atWord (t : State) (x : Word) (size : Nat) (xl pr : Leaf → Option (BitVec 8)) (f : State → Nat → Body) : Body :=
  if x.toNat % size ≠ 0 then .bad ⟨cALIGN, 1, x⟩
  else
    match t.access t.me.task.asid x.toNat 8 xl pr with
    | .bad e => .bad e
    | .wait c => .stall (t.memWait c)
    | .void pa => .void pa
    | .ok bs =>
      match bs with
      | [] => .stall t
      | (_, _, loc) :: _ => f (t.holdAll t.me.task.asid bs) (syncKey loc.pa)

/-- A waiter for the instruction in issue. -/
def State.waiter (s : State) (kind : WantKind) (h : Hdr) (d : Reg) (val : Word) (scope : Nat) : Waiter :=
  ⟨s.cur.slot, kind, h, d, s.cur.pc, s.cur.next, val, scope⟩

/-- Joins the waiters of a word, once (R186). -/
def State.joinWord (s : State) (key : Nat) (w : Waiter) : State :=
  let ws := SMap.get s.sync.wait [] key
  if ws.any fun v => v.slot == w.slot then s
  else { s with sync := { s.sync with wait := SMap.set s.sync.wait [] key (ws ++ [w]) } }

/-- Joins the waiters of a ring, once. -/
def State.joinRing (s : State) (o : Nat) (w : Waiter) : State :=
  let r := s.ringAt o
  if r.waiters.any fun v => v.slot == w.slot then s else s.setRing o { r with waiters := r.waiters ++ [w] }

/-! ### Sync words (R123, R185) -/

/-- SLDF (R123): waits for full, loads, sets empty; an acquire. -/
def execSldf (h : Hdr) (d a : Reg) (scope : BitVec 3) (s : State) : Out :=
  s.issueSeq h [d, a] [] fun t => t.atWord (t.rg a) 8 swXl wrPr fun t key =>
    if t.objectWord key then .bad ⟨cPROT, 7, t.rg a⟩
    else if t.syncFull key then
      .done ((((t.setFull key false).wg d (t.syncWord key)).serve key).acquireCache t.cur.slot scope.toNat false)
    else .stall (t.joinWord key (t.waiter .sldf h d 0 scope.toNat))

/-- The value `SLDW` loads: free for a state word of a ring in use (R194; DESIGN CHOICE, log 14). -/
def State.sldwVal (s : State) (key : Nat) : Word :=
  if s.ringState key then Config.freeRingWord s.free else s.syncWord key

/-- SLDW (R123): waits for full, loads, leaves full; an acquire. It may read the words of groups and rings. -/
def execSldw (h : Hdr) (d a : Reg) (scope : BitVec 3) (s : State) : Out :=
  s.issueSeq h [d, a] [] fun t => t.atWord (t.rg a) 8 swXl noPr fun t key =>
    if t.syncFull key || t.ringState key then
      .done (({ t.wg d (t.sldwVal key) with free := t.free + 1 }).acquireCache t.cur.slot scope.toNat false)
    else .stall (t.joinWord key (t.waiter .sldw h d 0 scope.toNat))

/-- SSTE (R123): waits for empty, stores, sets full; a release. -/
def execSste (h : Hdr) (d a : Reg) (scope : BitVec 3) (s : State) : Out :=
  s.issueSeq h [d, a] [] fun t => t.atWord (t.rg a) 8 swXl wrPr fun t key =>
    if t.objectWord key then .bad ⟨cPROT, 7, t.rg a⟩
    else if !t.me.copiesDone then .stall t
    else
      let t := t.releaseCache t.cur.slot scope.toNat false
      if t.syncFull key then .stall (t.joinWord key (t.waiter .sste h d (t.rg d) scope.toNat))
      else .done (t.syncStore key (t.rg d) (some true))

/-- SSTF (R123): stores and sets full without waiting; a release. -/
def execSstf (h : Hdr) (d a : Reg) (scope : BitVec 3) (s : State) : Out :=
  s.issueSeq h [d, a] [] fun t => t.atWord (t.rg a) 8 swXl wrPr fun t key =>
    if t.objectWord key then .bad ⟨cPROT, 7, t.rg a⟩
    else if !t.me.copiesDone then .stall t
    else .done ((t.releaseCache t.cur.slot scope.toNat false).syncStore key (t.rg d) (some true))

/-- SECLR (R123): sets empty; plain. -/
def execSeclr (h : Hdr) (a : Reg) (s : State) : Out :=
  s.issueSeq h [a] [] fun t => t.atWord (t.rg a) 8 swXl wrPr fun t key =>
    if t.objectWord key then .bad ⟨cPROT, 7, t.rg a⟩ else .done ((t.setFull key false).serve key)

/-! ### Groups (R192, R193) -/

/-- Whether the words of a group object allow `GJOIN`: a group in use, all full, or all empty and zero (R192). -/
def State.groupReady (s : State) (o : Nat) : Bool :=
  (upto 4 o).all (fun k => s.syncFull k) || (upto 4 o).all fun k => !s.syncFull k && s.syncWord k == 0

def Group.has (g : Group) (task : Word) : Bool := g.members.any fun m => m.1 == task

/-- GJOIN (R193; DEDUCED, log 33). -/
def execGjoin (h : Hdr) (d a : Reg) (s : State) : Out :=
  s.issueSeq h [d, a] [] fun t => t.atWord (t.rg a) 32 objXl wrPr fun t o =>
    if !t.groupReady o || (t.ringOf o).isSome then .bad ⟨cPROT, 7, t.rg a⟩
    else if (t.groupAt o).has t.me.task.taskId then .done (t.wg d (t.syncWord o))
    else if 8 ≤ t.me.groups.length then .bad ⟨cILLEGAL, 0x0F, t.rg a⟩
    else
      let u := t.joinGroup o t.cur.slot
      .done (u.wg d (u.syncWord o))

/-- GLEAVE (R193). -/
def execGleave (h : Hdr) (d a : Reg) (s : State) : Out :=
  s.issueSeq h [d, a] [] fun t => t.atWord (t.rg a) 32 objXl wrPr fun t o =>
    if (t.groupAt o).has t.me.task.taskId then
      let u := t.leaveGroup o t.cur.slot
      .done (u.wg d (u.syncWord o))
    else .done (t.wg d 0)

/-- GBAR (R127, R193): the arrival is a release, the departure an acquire. -/
def execGbar (h : Hdr) (d a : Reg) (scope : BitVec 3) (s : State) : Out :=
  s.issueSeq h [d, a] [] fun t => t.atWord (t.rg a) 32 objXl wrPr fun t o =>
    let g := t.groupAt o
    if !g.has t.me.task.taskId then .bad ⟨cPROT, 8, t.rg a⟩
    else if g.waiters.any fun w => w.slot == t.cur.slot then .stall t
    else if !t.me.copiesDone then .stall t
    else
      let u := (t.releaseCache t.cur.slot scope.toNat false).arrive o (t.waiter .gbar h d 0 scope.toNat)
      if (u.groupAt o).waiters.any fun w => w.slot == u.cur.slot then .stall u else .served u

/-! ### Rings (R194 to R196) -/

/-- The object of a ring instruction: initialised, with LOGC in 1 to 16; the engine then knows it as a ring in use. -/
def State.atRing (t : State) (x : Word) (f : State → Nat → Body) : Body :=
  t.atWord x 64 objXl wrPr fun t o =>
    let logc := bits (t.syncWord o).toNat 0 5
    if !t.syncFull o || logc = 0 || 16 < logc then .bad ⟨cPROT, 7, x⟩
    else f (if t.sync.rings.any fun e => e.1 == o then t else t.setRing o {}) o

def WantKind.isRres : WantKind → Bool
  | .rres _ => true
  | _ => false

/-- A waiter of the same kind stands before a new arrival (R25). -/
def State.ringBehind (s : State) (o : Nat) (res : Bool) : Bool :=
  (s.ringAt o).waiters.any fun w => WantKind.isRres w.kind == res

/-- RRES (R125, R196). -/
def execRres (h : Hdr) (d a b : Reg) (s : State) : Out :=
  s.issueSeq h [d, a, b] [] fun t => t.atRing (t.rg a) fun t o =>
    let n := (t.rg b).toNat
    if n = 0 ∨ t.ringC o < n then .bad ⟨cILLEGAL, 0x0F, t.rg a⟩
    else if t.ringRoom o n && !t.ringBehind o true then
      .done ((t.ringReserve o n t.me.task.taskId).wg d (t.syncWord (o + 1)))
    else .stall (t.joinRing o (t.waiter (.rres n) h d 0 0))

/-- The entries of `RPUB` are reserved by the task and not yet published. -/
def State.holdsEntries (s : State) (o e n : Nat) (task : Word) : Bool :=
  decide (n ≤ s.ringC o) && (upto n e).all fun i => (s.ringAt o).entry i == some (.reserved task)

/-- RPUB (R125, R196): a release of the producer's earlier writes. -/
def execRpub (h : Hdr) (e a b : Reg) (s : State) : Out :=
  s.issueSeq h [e, a, b] [] fun t => t.atRing (t.rg a) fun t o =>
    let n := (t.rg b).toNat
    if !t.holdsEntries o (t.rg e).toNat n t.me.task.taskId then .bad ⟨cPROT, 9, t.rg a⟩
    else if !t.me.copiesDone then .stall t
    else .done ((t.releaseCache t.cur.slot (scopeLs h) false).ringPublish o (t.rg e).toNat n)

/-- RTAKE (R125): an acquire of the entry's publication. -/
def execRtake (h : Hdr) (d a : Reg) (p : PReg) (s : State) : Out :=
  s.issueSeq h [d, a] [p] fun t => t.atRing (t.rg a) fun t o =>
    if t.ringFilled o && !t.ringBehind o false then
      let r := t.ringTake o t.me.task.taskId
      .done (((r.1.wg d (t.syncWord (o + 3))).wp p r.2).acquireCache t.cur.slot (scopeLs h) false)
    else .stall (t.joinRing o (t.waiter (.rtake p) h d 0 (scopeLs h)))

/-- An entry is held by the task that took it. -/
def EntSt.takenBy (e : EntSt) (task : Word) : Bool :=
  match e with
  | .taken t _ => t == task
  | _ => false

/-- RFREE (R125, R196). -/
def execRfree (h : Hdr) (e a : Reg) (s : State) : Out :=
  s.issueSeq h [e, a] [] fun t => t.atRing (t.rg a) fun t o =>
    match (t.ringAt o).entry (t.rg e).toNat with
    | none => .bad ⟨cPROT, 9, t.rg a⟩
    | some v =>
      if v.takenBy t.me.task.taskId then .done (t.ringFree o (t.rg e).toNat) else .bad ⟨cPROT, 9, t.rg a⟩

/-! ### XROUTE (R197) -/

/-- Rank `i` of the list held in two registers. -/
def rank (lo hi : Word) (i : Nat) : Nat := if i < 4 then bits lo.toNat (16 * i) 16 else bits hi.toNat (16 * (i - 4)) 16

/-- No expert examined had room: the result "dropped" after `i` probes. -/
def State.dropRoute (t : State) (d : Reg) (i : Nat) : State :=
  (t.wg d (0xFFFFFFFF0000FFFF + BitVec.ofNat 64 (i * 65536))).updMe fun k => { k with routeDrops := k.routeDrops + 1 }

/-- The probes from rank `i` on; each reads and, where the expert has room, raises one word. -/
def State.probe (t : State) (d : Reg) (lo hi table : Word) (i : Nat) : Nat → Body
  | 0 => .done (t.dropRoute d i)
  | m + 1 =>
    let e := rank lo hi i
    if e = 0xFFFF then .done (t.dropRoute d i)
    else
      let x := table + 8 * BitVec.ofNat 64 e
      t.atWord x 8 objXl wrPr fun t key =>
        if t.objectWord key then .bad ⟨cPROT, 7, x⟩
        else
          let w := t.syncWord key
          let filled := bits w.toNat 0 32
          if filled < bits w.toNat 32 32 then
            .done ((t.syncStore key (w + 1) none).wg d (BitVec.ofNat 64 (filled * 2 ^ 32 + i * 65536 + e)))
          else t.probe d lo hi table (i + 1) m

/-- XROUTE (R197): its probes are acquire-release at package scope. -/
def execXroute (h : Hdr) (d a b : Reg) (s : State) : Out :=
  s.issueSeq h [d, a, a + 1, b] [] fun t =>
    if !t.me.copiesDone then .stall t
    else
      match (t.releaseCache t.cur.slot 4 false).probe d (t.rg a) (t.rg (a + 1)) (t.rg b) 0 t.me.routeDepth.toNat with
      | .done u => .done (u.acquireCache u.cur.slot 4 false)
      | r => r

end Sys2Proof.Machine
end

