-- ==== Sys2Proof/Machine/Waits.lean ====
section
/-! DEFINITION. Copy groups (R55, R214), `AWAIT` (R23, R167), and translation maintenance (R198, R199). -/

namespace Sys2Proof.Machine

/-! ### Copy groups (R55, R214) -/

def Slot.cgAt (k : Slot) (i : BitVec 3) : CGrp := k.cg.get ⟨i.toNat, i.isLt⟩
def Slot.setCg (k : Slot) (i : BitVec 3) (g : CGrp) : Slot := { k with cg := k.cg.set i.toNat g i.isLt }

/-- The copies of a group have landed: landed equals expected and none is pending. -/
def CGrp.landedAll (g : CGrp) : Bool := g.land == g.exp && g.pend == 0

/-- CGRP (R214): the counts start at zero in a new generation. -/
def execCgrp (h : Hdr) (cg : BitVec 3) (s : State) : Out :=
  s.issuePure h [] [] fun t => t.updMe fun k => k.setCg cg { gen := (k.cgAt cg).gen + 1 }

/-- The acquire that completes a wait for a copy group (R55). -/
def State.acquireGroup (s : State) (cg : BitVec 3) : State :=
  if (s.me.cgAt cg).wide then s.acquireCache s.cur.slot 2 false else s

/-- CWAIT (R55, R214). -/
def execCwait (h : Hdr) (cg : BitVec 3) (s : State) : Out :=
  s.issueSeq h [] [] fun t => if (t.me.cgAt cg).landedAll then .done (t.acquireGroup cg) else .stall t

/-! ### AWAIT (R167) -/

/-- A sequencer that waits in `AWAIT` is no requester (R23). -/
def State.park (t : State) : State := t.updSeq t.cur.slot t.cur.st fun q => { q with parked := true }

/-- An `AWAIT` of a condition: parked while a WAIT queue is empty or the condition fails. -/
def State.awaitOn (s : State) (h : Hdr) (gs : List Reg) (body : State → Body) : Out :=
  match s.gate h gs [] with
  | .waits => .next s.park.stalled
  | _ => s.issueSeq h gs [] body

/-- AWAIT (R167). KIND 0 waits for its WAIT tokens alone. -/
def execAwait (h : Hdr) (kind : BitVec 4) (reg : Reg) (s : State) : Out :=
  match kind.toNat with
  | 1 =>
    s.awaitOn h [] fun t =>
      let cg := reg.extractLsb' 0 3
      if (t.me.cgAt cg).landedAll then .done (t.acquireGroup cg) else .stall t.park
  | 2 => s.awaitOn h [] fun t => if t.me.dqXa.isEmpty then .stall t.park else .done t
  | 3 => s.awaitOn h [] fun t => if t.me.bqXa.isEmpty then .stall t.park else .done t
  | 4 => s.awaitOn h [reg] fun t => if t.time.ult (t.rg reg) then .stall t.park else .done t
  | 5 =>
    s.awaitOn h [reg] fun t => t.atWord (t.rg reg) 8 swXl noPr fun t key =>
      if t.syncFull key || t.ringState key then .done t else .stall t.park
  | _ => s.awaitOn h [] fun t => .done t

/-! ### A slot whose work is over (R15, R166) -/

/-- A dirty line of a slot waits for a link that is down. -/
def State.writesHeld (s : State) (slot : Nat) : Bool :=
  (s.coreAt (coreOf slot)).dc.any fun e =>
    e.2.dirty && e.2.names (placeOf slot) && match s.linkHolds (keyLoc e.1) with
      | some (some _) => true
      | _ => false

/-- Every engine queue of a slot is empty and every write of it can be acknowledged at system scope. -/
def State.quiet (s : State) (slot : Nat) : Bool :=
  let k := s.slotAt slot
  k.cq.isEmpty && k.mq.isEmpty && k.vq.isEmpty && k.cAside.isEmpty && k.mAside.isEmpty && k.vAside.isEmpty &&
    k.flight.isEmpty && !s.writesHeld slot

/-- The wait of a parked sequencer may have ended (R23): its tokens are there and its condition holds, or it would
fault. A `YIELD` waits for the slot to be quiet (R166). -/
def State.awaitEnded (s : State) (slot : Nat) : Instr → Bool
  | .await h kind reg =>
    let k := s.slotAt slot
    k.hasTok h.wait &&
      match kind.toNat with
      | 1 => (k.cgAt (reg.extractLsb' 0 3)).landedAll
      | 2 => !k.dqXa.isEmpty
      | 3 => !k.bqXa.isEmpty
      | 4 => !s.time.ult (k.a.rd reg)
      | 5 =>
        match s.translate k.task.asid (k.a.rd reg).toNat with
        | .error _ => true
        | .ok l =>
          let key := syncKey (l.loc (k.a.rd reg).toNat).pa
          l.tier != 2 || s.syncFull key || s.ringState key
      | _ => true
  | .yield .. => s.quiet slot
  | _ => true

/-! ### Translation maintenance (R198, R199) -/

/-- The statuses of R198. -/
def stDONE : Nat := 0
def stBUSY : Nat := 1
def stFULL : Nat := 2
def stABSENT : Nat := 3

/-- Two ranges of page size `2^b` and `2^c` that hold `x` and `y` meet. -/
def pagesMeet (b x c y : Nat) : Bool := let m := max b c; x / 2 ^ m == y / 2 ^ m

/-- What an XINV names: an ASID, and a page or the whole of it. -/
structure InvSel where
  asid : Nat
  all : Bool
  bits : Nat
  va : Nat
deriving DecidableEq, Repr

def invSel (a b : Word) : InvSel := ⟨selAsid b, selAll b, sizeBits (selSize b), a.toNat⟩

/-- The selector names the page of size `2^sh` that holds `va`, in an address space. -/
def InvSel.names (i : InvSel) (asid sh va : Nat) : Bool := asid == i.asid && (i.all || pagesMeet sh va i.bits i.va)

/-- The parts of a TLB key. -/
def keyAsid (k : Nat) : Nat := k / 2 ^ 32 / 64
def keyBits (k : Nat) : Nat := k / 2 ^ 32 % 64
def keyVa (k : Nat) : Nat := k % 2 ^ 32 * 2 ^ keyBits k

/-- The held translations an XINV names. -/
def State.named (s : State) (i : InvSel) : SMap (Option Leaf) :=
  s.tlb.filter fun e => i.names (keyAsid e.1) (keyBits e.1) (keyVa e.1)

/-- A pin (ASID, page size, page) is named. -/
def InvSel.pinNamed (i : InvSel) (p : Nat × Nat × Nat) : Bool := i.names p.1 p.2.1 (p.2.2 * 2 ^ p.2.1)

/-- The copies of a slot with sent lines still to be performed (R339). -/
def Slot.carrying (k : Slot) : List Cmd := (k.flight ++ k.cq.take 1).filter fun c => decide (c.done < c.sent)

/-- A sent line still waits in the named pages: XINV waits for it (R199, R339). -/
def State.invWaits (s : State) (i : InvSel) : Bool :=
  s.slots.any fun e =>
    e.2.task.asid == i.asid && e.2.carrying.any fun c =>
      i.all || (upto c.owed c.done).any fun l =>
        pagesMeet 7 (c.opN 0 + 128 * l) i.bits i.va || pagesMeet 7 (c.opN 1 + 128 * l) i.bits i.va

/-- Dirty lines that lie in a page of a removed translation are written back, so that the stores already translated are
performed (DEDUCED, log 22). -/
def State.flushPage (s : State) (l : Leaf) : State :=
  s.cores.foldl (fun t e =>
    (t.linesWhere e.1 fun p x => x.dirty && p.tier == l.tier && decide (l.base ≤ p.pa) &&
      decide (p.pa < l.base + 2 ^ l.bits)).foldl (fun u k => u.writeBack e.1 k) t) s

/-- XINV (R199): its status, and none while it waits (DEDUCED, log 6; DEDUCED, log 22). -/
def State.xinv (s : State) (i : InvSel) (force : Bool) : Option (State × Nat) :=
  if !force && s.pins.any i.pinNamed then some (s, stBUSY)
  else if s.invWaits i then none
  else
    let gone := s.named i
    let t := gone.foldl (fun u e => match e.2 with
      | some l => u.flushPage l
      | none => u) s
    some ({ t with
      tlb := t.tlb.filter fun e => !i.names (keyAsid e.1) (keyBits e.1) (keyVa e.1)
      pins := t.pins.filter fun p => !i.pinNamed p }, stDONE)

/-- XPIN (R199). -/
def State.xpin (s : State) (asid sh va : Nat) : State × Nat :=
  match s.walk asid va with
  | .error _ => (s, stABSENT)
  | .ok l =>
    if l.bits ≠ sh then (s, stABSENT)
    else
      let p := (asid, sh, va / 2 ^ sh)
      if s.pins.contains p then (s.hold asid va l, stDONE)
      else if 1024 ≤ s.pins.length then (s, stFULL)
      else ({ s.hold asid va l with pins := s.pins ++ [p] }, stDONE)

/-- XUNPIN (R199). -/
def State.xunpin (s : State) (asid sh va : Nat) : State × Nat :=
  let p := (asid, sh, va / 2 ^ sh)
  if s.pins.contains p then ({ s with pins := s.pins.erase p }, stDONE) else (s, stABSENT)

/-- A privileged instruction in a task without privilege faults PRIV (R147 check 13). -/
def State.needPriv (t : State) (f : Body) : Body := if t.me.task.priv then f else .bad ⟨cPRIV, 0, t.cur.pc⟩

/-- XINV (R198, R199). -/
def execXinv (h : Hdr) (d a b : Reg) (force : Bool) (s : State) : Out :=
  s.issueSeq h [d, a, b] [] fun t => t.needPriv <|
    if selSize (t.rg b) = 3 then .bad ⟨cILLEGAL, 0x09, t.cur.pc⟩
    else
      match t.xinv (invSel (t.rg a) (t.rg b)) force with
      | none => .stall t
      | some (u, st) => .done (u.wg d (BitVec.ofNat 64 st))

/-- XPIN and XUNPIN share their selector. -/
def State.pinOp (s : State) (h : Hdr) (d a b : Reg) (f : State → Nat → Nat → Nat → State × Nat) : Out :=
  s.issueSeq h [d, a, b] [] fun t => t.needPriv <|
    if selSize (t.rg b) = 3 then .bad ⟨cILLEGAL, 0x09, t.cur.pc⟩
    else
      let r := f t (selAsid (t.rg b)) (sizeBits (selSize (t.rg b))) (t.rg a).toNat
      .done (r.1.wg d (BitVec.ofNat 64 r.2))

/-- XPIN (R198, R199). -/
def execXpin (h : Hdr) (d a b : Reg) (s : State) : Out := s.pinOp h d a b State.xpin
/-- XUNPIN (R198, R199). -/
def execXunpin (h : Hdr) (d a b : Reg) (s : State) : Out := s.pinOp h d a b State.xunpin

end Sys2Proof.Machine
end

