-- ==== Sys2Proof/Machine/Arbiter.lean ====
section
/-! DEFINITION. Arbitration between tenants (R22, R23) and the requesters of sequencer issue. -/

namespace Sys2Proof.Machine

/-- The five arbiters of a core (R22). -/
inductive ArbId where
  | seqA | seqX | copy | matrix | vector
deriving DecidableEq, Repr

def arbOf : Stream → ArbId
  | .a => .seqA
  | .x => .seqX

def arbOfEngine : Engine → ArbId
  | .copy => .copy
  | .matrix => .matrix
  | .vector => .vector

def Core.arb (c : Core) : ArbId → Arb
  | .seqA => c.arbA
  | .seqX => c.arbX
  | .copy => c.arbC
  | .matrix => c.arbM
  | .vector => c.arbV

def Core.setArb (c : Core) (i : ArbId) (a : Arb) : Core :=
  match i with
  | .seqA => { c with arbA := a }
  | .seqX => { c with arbX := a }
  | .copy => { c with arbC := a }
  | .matrix => { c with arbM := a }
  | .vector => { c with arbV := a }

/-- The deficit counters after replenishment, by tenant. -/
def replenish (w : Nat → Nat) (d : SMap Int) : SMap Int :=
  (upto 64 0).foldl (fun m t => if 0 < w t then SMap.upd m 0 t (fun x => min (x + w t) (w t)) else m) d

/-- The tenant of a pool with the largest counter, ties to the lowest; `best` is what was found so far. -/
def pickTenant (d : SMap Int) (pool : List Nat) : Option Nat :=
  pool.foldl (fun best t =>
    match best with
    | none => some t
    | some b =>
      if SMap.get d 0 b < SMap.get d 0 t ∨ (SMap.get d 0 b = SMap.get d 0 t ∧ t < b) then some t else some b) none

/-- The requester granted longest ago, ties to the lowest slot. -/
def pickSlot (last : SMap Nat) (reqs : List Nat) : Option Nat :=
  reqs.foldl (fun best n =>
    match best with
    | none => some n
    | some b =>
      if SMap.get last 0 n < SMap.get last 0 b ∨ (SMap.get last 0 n = SMap.get last 0 b ∧ n < b) then some n else some b) none

/-- One choice of an arbiter among (slot, tenant) requesters, charged (R22). -/
def Arb.choose (a : Arb) (w : Nat → Nat) (reqs : List (Nat × Nat)) : Option (Arb × Nat) :=
  let ready := reqs.map (·.2)
  let heavy := ready.filter fun t => decide (0 < w t)
  let d := if !heavy.isEmpty && heavy.all (fun t => decide (SMap.get a.d 0 t ≤ 0)) then replenish w a.d else a.d
  match pickTenant d (if heavy.isEmpty then ready else heavy) with
  | none => none
  | some t =>
    match pickSlot a.last ((reqs.filter fun r => r.2 == t).map (·.1)) with
    | none => none
    | some n =>
      some ({ d := if 0 < w t then SMap.upd d 0 t (· - 1) else d
              last := SMap.set a.last 0 n (1 + maxOf (a.last.map (·.2))) }, n)

/-- An arbiter of a core chooses among slots. -/
def State.arbitrate (s : State) (core : Nat) (i : ArbId) (slots : List Nat) : Option (State × Nat) :=
  let reqs := slots.map fun n => (n, (s.slotAt n).task.tenant)
  match ((s.coreAt core).arb i).choose (fun t => (s.tenAt t).weight.toNat) reqs with
  | none => none
  | some (a, n) => some (s.updCore core fun c => c.setArb i a, n)

/-- The slots of a core. -/
def slotsOf (core : Nat) : List Nat := upto 4 (4 * core)

/-- The slot's state lets a sequencer issue. -/
def SlotSt.issues : SlotSt → Stream → Bool
  | .solo, .a | .both, _ | .meetA, _ | .meetX, _ => true
  | _, _ => false

/-- A pending fault may be delivered now: in handler mode an asynchronous one waits, and one that stood pending when the
handler was entered (R170, R318). -/
def Slot.dueFaults (k : Slot) : List Trap := k.pending.filter fun t => !((t.async || t.later) && k.fault.handler)

/-- A fault of the slot waits for A-seq's boundary and may be delivered. -/
def State.deliverable (s : State) (slot : Nat) : Bool := !(s.slotAt slot).dueFaults.isEmpty

/-- A sequencer requests issue (R23): one that waits in `AWAIT` or `YIELD` does so once its wait has ended. -/
def State.requests (s : State) (slot : Nat) (st : Stream) : Bool :=
  let k := s.slotAt slot
  k.st.issues st &&
    match st with
    | .x => !k.xHeld
    | .a =>
      !k.a.parked || s.deliverable slot ||
        match s.fetchAt slot .a k.a.pc with
        | .ok f => s.awaitEnded slot f.instr
        | _ => true

def State.seqRequesters (s : State) (core : Nat) (st : Stream) : List Nat :=
  (slotsOf core).filter fun n => s.requests n st

end Sys2Proof.Machine
end

