-- ==== Sys2Proof/Machine/IssueFaults.lean ====
section
/-! DEFINITION. The fault of an instruction or bundle that fails a check at issue (R147, R148). -/

namespace Sys2Proof.Machine

/-- ILLEGAL (R147): the sequencer in issue takes the fault with the reason and address of the first check that fails. No
effect where no sequencer is in issue. -/
def execIllegal (reason : BitVec 8) (addr : Word) (s : State) : Out :=
  if s.me.st.issues s.cur.st then .next (s.issueFault ⟨cILLEGAL, reason, addr⟩ 0 s.cur.pc) else .next s

end Sys2Proof.Machine
end

