-- ==== Sys2Proof/Machine/CopyMem.lean ====
section
/-! DEFINITION. What copies share: their accesses to memory (R215, R218), and the images of tiles and commands in tin
records and save areas (R212, R328, R329). -/

namespace Sys2Proof.Machine

/-! ### Accesses of a copy -/

/-- PROT of a copy's write: no write permission, or a page of the synchronisation tier (R200; DEDUCED, log 25). -/
def cpPr (l : Leaf) : Option (BitVec 8) := if !l.write then some 5 else if l.tier = 2 then some 6 else none

/-- A peer page of a package that has been declared dead fails (R215, R346). -/
def State.peerDead (s : State) (bs : List (Nat × Leaf × Loc)) : Option Nat :=
  (bs.find? fun b => b.2.2.tier == 3 && SMap.get s.fab.dead false b.2.2.pkg).map (·.1)

/-- One access of a copy: page by page in increasing address (R215; DEDUCED, log 25; DEDUCED, log 32). -/
def State.copyAccess (s : State) (asid va n : Nat) (wr : Bool) : Acc :=
  match s.access asid va n (fun _ => none) (if wr then cpPr else fun _ => none) with
  | .ok bs =>
    match s.peerDead bs with
    | some a => .bad ⟨cREMOTE, 1, BitVec.ofNat 64 a⟩
    | none => .ok bs
  | a => a

/-- How a part of a copy comes out. -/
inductive Part (α : Type) where
  | ok (v : α)
  | bad (b : Bad)
  | wait (cause : Nat)
  | void (pa : Nat)

/-- The bytes an access of a copy reads. -/
def State.copyRead (s : State) (asid va n : Nat) : Part (List Byte) :=
  match s.copyAccess asid va n false with
  | .ok bs => .ok (bs.map fun b => s.homeByte b.2.2)
  | .bad b => .bad b
  | .wait c => .wait c
  | .void pa => .void pa

/-- An access of a copy writes bytes. -/
def State.copyWrite (s : State) (asid va : Nat) (v : List Byte) : Part State :=
  match s.copyAccess asid va v.length true with
  | .ok bs => .ok ((s.holdAll asid bs).setHomes ((bs.map fun b => b.2.2).zip v))
  | .bad b => .bad b
  | .wait c => .wait c
  | .void pa => .void pa

/-- One part after another. -/
def Part.bind {α β : Type} (p : Part α) (f : α → Part β) : Part β :=
  match p with
  | .ok v => f v
  | .bad b => .bad b
  | .wait c => .wait c
  | .void pa => .void pa

/-- A part for each element of a list, in order; the first that does not come out ends it. -/
def Part.each {α β : Type} (f : α → Part β) : List α → Part (List β)
  | [] => .ok []
  | x :: r =>
    match f x with
    | .ok v =>
      match Part.each f r with
      | .ok vs => .ok (v :: vs)
      | e => e
    | .bad b => .bad b
    | .wait c => .wait c
    | .void pa => .void pa

/-- The key a copy of a slot's task takes when it starts: none where the job is not MARKED or the tenant's key is not set
(R218, R357; DEDUCED, log 41). -/
def State.markKeyOf (s : State) (slot : Nat) : Option (BitVec 256) :=
  let t := (s.slotAt slot).task
  let e := s.tenAt t.tenant
  if (s.jobAt t.job).marked && e.keyWords == 0xF then some e.key else none

/-- The bytes a copy reads from a source, marked where they come from device-only pages and leave the package (R218). -/
def State.copyOut (s : State) (asid va n : Nat) (key : Option (BitVec 256)) (leaves : Bool) : Part (List Byte) :=
  match s.copyAccess asid va n false with
  | .bad b => .bad b
  | .wait c => .wait c
  | .void pa => .void pa
  | .ok bs =>
    match key, leaves, bs.find? fun b => b.2.1.devOnly with
    | none, true, some b => .bad ⟨cPROT, 0x0A, BitVec.ofNat 64 b.1⟩
    | some k, true, some _ =>
      .ok (bs.map fun b => if b.2.1.devOnly then markByte k b.1 (s.homeByte b.2.2) else s.homeByte b.2.2)
    | _, _, _ => .ok (bs.map fun b => s.homeByte b.2.2)

/-- The physical module memory of the K9's own areas, behind its links: a wait, or lost data. -/
def State.physReach (s : State) (pa : Nat) : Part Unit :=
  if Config.moduleBytes ≤ pa then .void pa
  else
    match (SMap.get s.mlinks {} (linkOf pa)).holds 0 with
    | none => .ok ()
    | some (some c) => .wait c
    | some none => .bad ⟨cDATA_LOST, 0, BitVec.ofNat 64 pa⟩

/-! ### Commands as words (R208, R328) -/

def engineCode : Engine → Nat
  | .copy => 0
  | .matrix => 1
  | .vector => 2

/-- The eight words of a command entry. -/
def Cmd.words (c : Cmd) (e : Engine) (kind : Nat) : List Word :=
  let syls := encode c.instr
  let syl := fun i => syls.getD i 0
  BitVec.ofNat 64 (engineCode e + kind * 4 + (if c.charged then 16 else 0) + syls.length * 32 + c.done * 2 ^ 24) ::
    BitVec.ofNat 64 (syl 0 + syl 1 * 2 ^ 32) :: BitVec.ofNat 64 (syl 2 + syl 3 * 2 ^ 32) ::
    (upto 5 0).map c.op

/-- The instruction of a command entry. -/
def wordsInstr (w : List Word) : Option Instr :=
  let a := (w.getD 1 0).toNat
  let b := (w.getD 2 0).toNat
  let syls := [bits a 0 32, bits a 32 32, bits b 0 32, bits b 32 32]
  match decode none (syls.take (bits (w.getD 0 0).toNat 5 3)) with
  | .ok i _ => some i
  | .bad .. => none

/-- A command entry read back; the second part is its KIND. -/
def wordsCmd (w : List Word) : Option (Cmd × Nat) :=
  let v := (w.getD 0 0).toNat
  match wordsInstr w with
  | none => none
  | some i =>
    some ({ instr := i, ops := w.drop 3, charged := bit v 4, done := bits v 24 40, recorded := bits v 2 2 == 1,
            waiting := bits v 2 2 == 2 }, bits v 2 2)

/-! ### Tiles as words (R212, R329) -/

/-- The state codes of `TQUERY` and of a tile record. -/
def TileSt.code : TileSt → Nat
  | .filling => 1
  | .live => 2
  | .vacated => 3
  | .free | .settling => 0

def stateOfCode (n : Nat) : TileSt :=
  match n with
  | 1 => .filling
  | 2 => .live
  | 3 => .vacated
  | _ => .free

/-- N as a program sees it: 0xFFFF for a held tile (R42). -/
def Tile.count (t : Tile) : Nat := if t.held then 0xFFFF else t.total

/-- The common part of `TQUERY` sel 0 and of word 0 of a tile record. -/
def Tile.head (t : Tile) : Nat :=
  t.count + t.st.code * 2 ^ 16 + (if t.held then 2 ^ 18 else 0) + (if t.disc then 2 ^ 19 else 0) +
    (if t.refill.isSome then 2 ^ 20 else 0) + t.fmt * 2 ^ 32

/-- A share as `TQUERY` gives it. -/
def Share.word (h : Share) : Nat :=
  let w := h.who.getD 0
  h.n + h.p * 2 ^ 16 + w % 4 * 2 ^ 32 + w / 4 * 2 ^ 34 + (if h.who.isSome then 2 ^ 36 else 0)

def Tile.shareAt (t : Tile) (i : Nat) : Share := t.share.toList.getD i {}

/-- `TQUERY` (R212). -/
def Tile.query (t : Tile) (sel : Nat) : Nat :=
  match sel with
  | 0 => t.head + if t.orphan then 2 ^ 21 else 0
  | 5 => (t.shareAt 4).n + (t.shareAt 4).p * 2 ^ 16
  | k => (t.shareAt (k - 1)).word

/-- Writes words at rising physical addresses. -/
def State.wrWords (s : State) (pa : Nat) : List Word → State
  | [] => s
  | w :: r => (s.wrPhys pa 8 w.toNat).wrWords (pa + 8) r

def State.rdWords (s : State) (pa n : Nat) : List Word := (upto n 0).map fun i => BitVec.ofNat 64 (s.rdPhys (pa + 8 * i) 8)

/-- The state part of a tile record at `pa` (its data and sidecar lie below). -/
def State.wrTileState (s : State) (pa : Nat) (t : Tile) (old : Word) : State :=
  let st := pa + 0x9000
  let s := s.wrWords st
    (BitVec.ofNat 64 (t.head + t.tid * 2 ^ 48) :: ((upto 4 0).map fun i => BitVec.ofNat 64 (t.shareAt i).word) ++
      [BitVec.ofNat 64 (t.query 5), old, 0])
  let s := s.wrPhys (st + 0x40) 48 t.full.toNat
  s.wrWords (st + 0x70) (t.refill.getD (List.replicate 8 0))

/-- Line `l` of a tile record. -/
def State.wrTileLine (s : State) (pa l : Nat) (v : BitVec 1024) : State := s.wrPhys (pa + 128 * l) 128 v.toNat
def State.rdTileLine (s : State) (pa l : Nat) : BitVec 1024 := BitVec.ofNat 1024 (s.rdPhys (pa + 128 * l) 128)

/-- The share a record word gives. -/
def shareOf (w : Nat) : Share :=
  { who := if bit w 36 then some (bits w 34 2 * 4 + bits w 32 2) else none, n := bits w 0 16, p := bits w 16 16 }

/-- The codebook of a tensor as a slot's core knows it. -/
def State.cbOf (s : State) (slot tid : Nat) : BitVec 256 :=
  match s.descFor slot tid with
  | .ok (_, td) => td.cb
  | .error _ => 0

/-- The tile a record holds, for a slot's task under a serial: its lines are still to land. -/
def State.rdTileState (s : State) (slot pa : Nat) (ser : BitVec 12) : Tile :=
  let st := pa + 0x9000
  let w := s.rdPhys st 8
  let k := s.slotAt slot
  let held := bit w 18
  { serial := ser, st := stateOfCode (bits w 16 2), owner := slot, taskId := k.task.taskId, tenant := k.task.tenant,
    asid := k.task.asid, fmt := bits w 32 4, tid := bits w 48 16, cb := s.cbOf slot (bits w 48 16), held := held,
    disc := bit w 19, refill := if bit w 20 then some (s.rdWords (st + 0x70) 8) else none
    share := if held then Vector.replicate 5 {}
      else Vector.ofFn fun j =>
        if j.val = 4 then { shareOf (s.rdPhys (st + 0x28) 8) with who := none } else shareOf (s.rdPhys (st + 8 + 8 * j.val) 8)
    full := BitVec.ofNat 288 (s.rdPhys (st + 0x40) 36) }

end Sys2Proof.Machine
end

