-- ==== Sys2Proof/Machine/CopyIssue.lean ====
section
/-! DEFINITION. The issue of copy-engine instructions (R201): operands, the checks their entries mark at issue, the copy
group, the range tags, the write-back of R119, and the push. -/

namespace Sys2Proof.Machine

/-! ### The push of a copy -/

/-- What a copy does to its copy group at issue (R55). -/
def Slot.expectCopy (k : Slot) (c : Cmd) : Slot :=
  match copyGroup c.instr with
  | none => k
  | some i =>
    let g := k.cgAt i
    k.setCg i
      { g with
        exp := g.exp + BitVec.ofNat 48 c.bytes
        pend := if Instr.isDrun c.instr then g.pend + 1 else g.pend
        wide := g.wide || decide (2 ≤ scopeCp c.hdr) }

/-- The generation of a command's copy group. -/
def Slot.genOf (k : Slot) (i : Instr) : Nat :=
  match copyGroup i with
  | none => 0
  | some g => (k.cgAt g).gen.toNat

/-- The tags of a footprint: none is known where its addresses come from memory (R115). -/
def Slot.tagsFor (k : Slot) : Option (List (Nat × Nat)) → BitVec 16
  | some f => k.tagsOf f
  | none => k.tagsAll

/-- The write-back before a command that reads the bytes of `rd`, or unknown bytes, starts (R119). -/
def State.pushRead (s : State) (slot : Nat) : Option (List (Nat × Nat)) → State
  | some f => s.pushWriteBack slot f
  | none => s.writeBackWhere slot fun _ => true

/-- A copy: tagged by its footprint `foot`, its reads of `rd` written back, counted in its group, and pushed. -/
def State.pushCopy (t : State) (i : Instr) (ops : List Word) (td : TDesc) (foot rd : Option (List (Nat × Nat))) : Pushed :=
  let tags := t.me.tagsFor foot
  if t.me.tagsFull tags then .stall t
  else
    let c := { t.mkCmd i ops with td := td, tags := tags, cgGen := t.me.genOf i }
    let u := (t.pushRead t.cur.slot rd).updMe fun k =>
      { k.expectCopy c with locals := raiseTags k.locals tags, homes := raiseTags k.homes tags }
    .cmd u c

/-- A copy-engine instruction that touches no memory. -/
def State.pushPlain (t : State) (i : Instr) (ops : List Word) (td : TDesc) : Pushed := .cmd t { t.mkCmd i ops with td := td }

/-- A copy-engine instruction issues, reading `gs`, its results as R33 gives. -/
def State.issueCopy (s : State) (i : Instr) (h : Hdr) (gs : List Reg) (mk : State → Pushed) : Out :=
  let o := Instr.engOut i
  s.issueEng .copy h (gs ++ o.gs) o.p o.gs o.p mk

/-! ### FETCH (R205 to R208) -/

/-- The tensor identifier a register names. -/
def tidOf (v : Word) : Nat := bits v.toNat 0 16

/-- The coordinates of a tile copy (R204). -/
def badCoords (td : TDesc) (r c : Word) : Option Bad :=
  if bits r.toNat 32 32 ≠ 0 ∨ bits c.toNat 32 32 ≠ 0 then some ⟨cILLEGAL, 0x0F, 0⟩
  else if td.fmt = 3 ∧ c.toNat % 32 ≠ 0 then some ⟨cALIGN, 2, c⟩
  else none

/-- A tile copy names a tensor: its descriptor, then its coordinates (R203, R204). -/
def State.withTensor (t : State) (tv r c : Word) (f : State → TDesc → Pushed) : Pushed :=
  match t.descFor t.cur.slot (tidOf tv) with
  | .error b => .bad b
  | .ok (u, td) =>
    match badCoords td r c with
    | some b => .bad b
    | none => f u td

/-- The bytes of the tensor a fetch reads (R115). -/
def fetchFoot (td : TDesc) (tr : Bool) (r c u : Word) : List (Nat × Nat) :=
  if tr then td.foot r.toNat c.toNat (tileCols td.fmt) 128 u else td.foot r.toNat c.toNat 128 (tileCols td.fmt) u

/-- The issue shared by the forms of `FETCH` that allocate. -/
def State.issueFetch (s : State) (i : Instr) (h : Hdr) (t r c sh u : Reg) (n : BitVec 16) (tr : Bool) : Out :=
  s.issueCopy i h [t, r, c, sh, u] fun x =>
    x.withTensor (x.rg t) (x.rg r) (x.rg c) fun y td =>
      if !sharesOk n.toNat (x.rg sh) then .bad ⟨cILLEGAL, 0x0F, 0⟩
      else if tr ∧ td.fmt = 3 then .bad ⟨cFORMAT, 1, BitVec.ofNat 64 td.tid⟩
      else
        let f := fetchFoot td tr (x.rg r) (x.rg c) (x.rg u)
        y.pushCopy i [x.rg t, x.rg r, x.rg c, x.rg sh, x.rg u] td (some f) (some f)

/-- FETCH (R205, R206, R207). -/
def execFetch (h : Hdr) (d t r : Reg) (n : BitVec 16) (c sh : Reg) (cg : BitVec 3) (cgv disc rcmd : Bool) (u : Reg)
    (s : State) : Out :=
  s.issueFetch (.fetch h d t r n c sh cg cgv disc rcmd u) h t r c sh u n false

/-- FETCH_T (R205, R206, R207). -/
def execFetchT (h : Hdr) (d t r : Reg) (n : BitVec 16) (c sh : Reg) (cg : BitVec 3) (cgv disc rcmd : Bool) (u : Reg)
    (s : State) : Out :=
  s.issueFetch (.fetchT h d t r n c sh cg cgv disc rcmd u) h t r c sh u n true

/-- FETCH_MC (R205, R206, R207). -/
def execFetchMc (h : Hdr) (d t r : Reg) (n : BitVec 16) (c sh : Reg) (cg : BitVec 3) (cgv disc rcmd : Bool) (u : Reg)
    (mc : BitVec 4) (s : State) : Out :=
  s.issueFetch (.fetchMc h d t r n c sh cg cgv disc rcmd u mc) h t r c sh u n false

/-- FETCH_RF (R205, R208). -/
def execFetchRf (h : Hdr) (d t r c : Reg) (cg : BitVec 3) (cgv : Bool) (u : Reg) (s : State) : Out :=
  let i : Instr := .fetchRf h d t r c cg cgv u
  s.issueCopy i h [d, t, r, c, u] fun x =>
    x.withTensor (x.rg t) (x.rg r) (x.rg c) fun y td =>
      let f := fetchFoot td false (x.rg r) (x.rg c) (x.rg u)
      y.pushCopy i [x.rg d, x.rg t, x.rg r, x.rg c, x.rg u] td (some f) (some f)

/-! ### Tiles (R209 to R213) -/

/-- TALLOC (R209). -/
def execTalloc (h : Hdr) (d t sh : Reg) (disc : Bool) (n : BitVec 16) (s : State) : Out :=
  let i : Instr := .talloc h d t sh disc n
  s.issueCopy i h [t, sh] fun x =>
    match x.descFor x.cur.slot (tidOf (x.rg t)) with
    | .error b => .bad b
    | .ok (y, td) =>
      if !sharesOk n.toNat (x.rg sh) then .bad ⟨cILLEGAL, 0x0F, 0⟩ else y.pushPlain i [x.rg t, x.rg sh] td

/-- TSTORE (R210). -/
def execTstore (h : Hdr) (t r c hd u : Reg) (cg : BitVec 3) (cgv : Bool) (s : State) : Out :=
  let i : Instr := .tstore h t r c hd u cg cgv
  s.issueCopy i h [t, r, c, hd, u] fun x =>
    x.withTensor (x.rg t) (x.rg r) (x.rg c) fun y td =>
      y.pushCopy i [x.rg t, x.rg r, x.rg c, x.rg hd, x.rg u] td (some (fetchFoot td false (x.rg r) (x.rg c) (x.rg u))) (some [])

/-- TCON (R211, R212). -/
def execTcon (h : Hdr) (hd : Reg) (s : State) : Out :=
  s.issueCopy (.tcon h hd) h [hd] fun x => x.pushPlain (.tcon h hd) [x.rg hd] {}

/-- TREL (R211, R212). -/
def execTrel (h : Hdr) (hd : Reg) (s : State) : Out :=
  s.issueCopy (.trel h hd) h [hd] fun x => x.pushPlain (.trel h hd) [x.rg hd] {}

/-- TADJ (R211, R212). -/
def execTadj (h : Hdr) (hd b : Reg) (s : State) : Out :=
  s.issueCopy (.tadj h hd b) h [hd, b] fun x => x.pushPlain (.tadj h hd b) [x.rg hd, x.rg b] {}

/-- TSETTLE (R211, R212). -/
def execTsettle (h : Hdr) (hd : Reg) (k : BitVec 3) (s : State) : Out :=
  s.issueCopy (.tsettle h hd k) h [hd] fun x => x.pushPlain (.tsettle h hd k) [x.rg hd] {}

/-- TQUERY (R211, R212). -/
def execTquery (h : Hdr) (d hd : Reg) (sel : BitVec 3) (s : State) : Out :=
  s.issueCopy (.tquery h d hd sel) h [hd] fun x => x.pushPlain (.tquery h d hd sel) [x.rg hd] {}

/-- PARK (R213): its memory side is the tin, which no range of virtual addresses names. -/
def execPark (h : Hdr) (d a : Reg) (cg : BitVec 3) (cgv : Bool) (s : State) : Out :=
  s.issueCopy (.park h d a cg cgv) h [a] fun x => x.pushCopy (.park h d a cg cgv) [x.rg a] {} (some []) (some [])

/-- UNPARK (R213). -/
def execUnpark (h : Hdr) (d a : Reg) (cg : BitVec 3) (cgv : Bool) (s : State) : Out :=
  s.issueCopy (.unpark h d a cg cgv) h [a] fun x => x.pushCopy (.unpark h d a cg cgv) [x.rg a] {} (some []) (some [])

/-! ### Linear, gathered and scattered copies (R215 to R217) -/

/-- Two byte ranges meet. -/
def rangesMeet (a n b m : Nat) : Bool := decide (a < b + m) && decide (b < a + n)

/-- CCOPY (R215). -/
def execCcopy (h : Hdr) (d a n : Reg) (cg : BitVec 3) (cgv : Bool) (s : State) : Out :=
  let i : Instr := .ccopy h d a n cg cgv
  s.issueCopy i h [d, a, n] fun x =>
    let l := (x.rg n).toNat
    let dst := (x.rg d).toNat
    let src := (x.rg a).toNat
    if l = 0 ∨ 2 ^ 40 < l ∨ rangesMeet dst l src l then .bad ⟨cILLEGAL, 0x0F, 0⟩
    else x.pushCopy i [x.rg d, x.rg a, x.rg n] {} (some [(dst, l), (src, l)]) (some [(src, l)])

/-- The mask registers of `CGATH` and `CSCAT` (R216). -/
def maskRegs (m : Reg) : List Reg := if m = 0 then [] else [m, m + 1]

/-- The row count is one of 1 to 128. -/
def rowsOk (v : Word) : Bool := decide (1 ≤ v.toNat) && decide (v.toNat ≤ 128)

/-- CGATH (R216, R217). -/
def execCgath (h : Hdr) (d t l : Reg) (n : BitVec 16) (r m : Reg) (cg : BitVec 3) (cgv : Bool) (s : State) : Out :=
  let i : Instr := .cgath h d t l n r m cg cgv
  s.issueCopy i h ([t, l, r] ++ maskRegs m) fun x =>
    match x.descFor x.cur.slot (tidOf (x.rg t)) with
    | .error b => .bad b
    | .ok (y, td) =>
      if !rowsOk (x.rg r) then .bad ⟨cILLEGAL, 0x0F, 0⟩
      else if td.fmt = 3 then .bad ⟨cFORMAT, 1, BitVec.ofNat 64 td.tid⟩
      else y.pushCopy i [x.rg t, x.rg l, x.rg r, x.rg m, x.rg (m + 1)] td none none

/-- CSCAT (R216, R217). -/
def execCscat (h : Hdr) (d l r m : Reg) (cg : BitVec 3) (cgv : Bool) (s : State) : Out :=
  let i : Instr := .cscat h d l r m cg cgv
  s.issueCopy i h ([d, l, r] ++ maskRegs m) fun x =>
    if !rowsOk (x.rg r) then .bad ⟨cILLEGAL, 0x0F, 0⟩
    else x.pushCopy i [x.rg d, x.rg l, x.rg r, x.rg m, x.rg (m + 1)] {} none none

/-! ### Block tables, exchange and reduction (R219, R222, R225) -/

/-- BTNEXT (R219). -/
def execBtnext (h : Hdr) (d k t : Reg) (s : State) : Out :=
  s.issueCopy (.btnext h d k t) h [k, t] fun x => x.pushCopy (.btnext h d k t) [x.rg k, x.rg t] {} none none

/-- DPOST (R222): its footprint is the posting record. -/
def execDpost (h : Hdr) (a : Reg) (s : State) : Out :=
  s.issueCopy (.dpost h a) h [a] fun x =>
    let f := [((x.rg a).toNat, 2368)]
    x.pushCopy (.dpost h a) [x.rg a] {} (some f) (some f)

/-- DCAL (R222). -/
def execDcal (h : Hdr) (d a : Reg) (s : State) : Out :=
  s.issueCopy (.dcal h d a) h [a] fun x => x.pushPlain (.dcal h d a) [x.rg a] {}

/-- DRUN (R222, R223): its buffers are known only to the posting (DEDUCED, log 23). -/
def execDrun (h : Hdr) (cg : BitVec 3) (cgv : Bool) (a b : Reg) (s : State) : Out :=
  s.issueCopy (.drun h cg cgv a b) h [a, b] fun x => x.pushCopy (.drun h cg cgv a b) [x.rg a, x.rg b] {} none none

/-- DSTAT (R222, R224). -/
def execDstat (h : Hdr) (d a : Reg) (sel : BitVec 3) (s : State) : Out :=
  s.issueCopy (.dstat h d a sel) h [a] fun x => x.pushPlain (.dstat h d a sel) [x.rg a] {}

/-- The words of a reduction descriptor at an address, read at issue (R225). -/
def State.fredWords (s : State) (asid va : Nat) : Part (List Nat) :=
  (s.copyRead asid va 128).bind fun bs => .ok ((upto 16 0).map fun i => leNat ((bs.drop (8 * i)).take 8))

/-- FRED (R225): its footprint is its descriptor, its contribution and its status record. -/
def execFred (h : Hdr) (a : Reg) (cg : BitVec 3) (cgv : Bool) (s : State) : Out :=
  s.issueCopy (.fred h a cg cgv) h [a] fun x =>
    let va := (x.rg a).toNat
    if va % 64 ≠ 0 then .bad ⟨cALIGN, 2, x.rg a⟩
    else
      let y := x.pushWriteBack x.cur.slot [(va, 128)]
      match y.fredWords y.me.task.asid va with
      | .bad b => .bad b
      | .wait c => .stall (y.memWait c)
      | .void pa => .void pa
      | .ok w =>
        let fmt := bits (w.getD 0 0) 32 4
        let src := (w.getD 1 0, w.getD 2 0)
        if fmt ≠ 1 ∧ fmt ≠ 2 ∧ fmt ≠ 7 then .bad ⟨cFORMAT, 1, x.rg a⟩
        else y.pushCopy (.fred h a cg cgv) [x.rg a] {} (some [(va, 128), src, (w.getD 6 0, 64)]) (some [src])

end Sys2Proof.Machine
end

