-- ==== Sys2Proof/Machine/Exchange.lean ====
section
/-! DEFINITION. Demand-posted exchange (R220 to R224, R347 to R350) and in-switch reduction (R225, R353): what the
exchange agent, the arbiter and the switch do, and the heads of `DPOST`, `DCAL`, `DRUN`, `DSTAT` and `FRED`. -/

namespace Sys2Proof.Machine

/-! ### How the head of a copy entry comes out -/

/-- The head of an engine queue: its WAIT popped, it runs or is over at once; a refused `.nb` form; a wait with its stall
cause; a fault. -/
inductive Head where
  | runs (s : State) (c : Cmd)
  | over_ (s : State) (c : Cmd)
  | refused (s : State) (c : Cmd)
  | wait (cause : Option Nat)
  | bad (b : Bad)
  | void (pa : Nat)

/-- A part that a head needs. -/
def Part.head {α : Type} (p : Part α) (f : α → Head) : Head :=
  match p with
  | .ok v => f v
  | .bad b => .bad b
  | .wait c => .wait (some c)
  | .void pa => .void pa

/-! ### Tags -/

def tagKey (tenant tag : Nat) : Nat := tenant * 65536 + tag
def State.xtagAt (s : State) (key : Nat) : XTag := SMap.get s.xtags {} key
def State.updXtag (s : State) (key : Nat) (f : XTag → XTag) : State := { s with xtags := SMap.upd s.xtags {} key f }
def State.arbTagAt (s : State) (key : Nat) : ArbTag := SMap.get s.arbTags {} key
def State.updArbTag (s : State) (key : Nat) (f : ArbTag → ArbTag) : State :=
  { s with arbTags := SMap.upd s.arbTags {} key f }
def State.send (s : State) (m : Msg) : State := { s with out := s.out ++ [m] }

/-- A package has been declared dead (R346). -/
def State.isDead (s : State) (p : Nat) : Bool := SMap.get s.fab.dead false p

/-- The members of a tenant's exchange set, and the live ones, in increasing order. -/
def State.members (s : State) (tenant : Nat) : List Nat :=
  (upto Config.packages 0).filter fun p => (s.tenAt tenant).xset.contains p
def State.liveMembers (s : State) (tenant : Nat) : List Nat := (s.members tenant).filter fun p => !s.isDead p

/-- The fabric rate of a package in bytes per ns (R347). -/
def State.rateOf (s : State) (p : Nat) : Nat :=
  if p = s.pkg then sumOf ((upto 16 0).map fun l => let k := SMap.get s.fab.links {} l; if k.up then k.rate else 0)
  else SMap.get s.fab.rate 3584 p

/-! ### Decomposition (R347) -/

/-- The grants to member `j`, in increasing source. -/
def grantsTo (j : Nat) (d : Nat → Nat → Nat) : List Nat → Nat → List (Nat × Nat × Nat)
  | [], _ => []
  | i :: r, cap =>
    let g := min (d i j) cap
    (i, j, g) :: grantsTo j d r (cap - g)

/-- The destination a source takes in a phase: the largest grant to a destination not taken, ties to the lowest. -/
def pickDest (g : List (Nat × Nat × Nat)) (i : Nat) (taken : List Nat) : Option (Nat × Nat × Nat) :=
  (g.filter fun e => e.1 == i && e.2.1 != i && !taken.contains e.2.1 && decide (0 < e.2.2)).foldl (fun best e =>
    match best with
    | none => some e
    | some b => if b.2.2 < e.2.2 ∨ (b.2.2 = e.2.2 ∧ e.2.1 < b.2.1) then some e else some b) none

/-- The entries of one phase. -/
def phaseEntries (g : List (Nat × Nat × Nat)) : List Nat → List Nat → List (Nat × Nat × Nat)
  | [], _ => []
  | i :: r, taken =>
    match pickDest g i taken with
    | none => phaseEntries g r taken
    | some e => e :: phaseEntries g r (e.2.1 :: taken)

/-- The phases of a decomposition, from phase `ph` at time `t` on. -/
def decomposeFrom (rate : Nat → Nat) (members : List Nat) :
    Nat → List (Nat × Nat × Nat) → Nat → Nat → List CalEntry
  | 0, _, _, _ => []
  | n + 1, g, t, ph =>
    let es := phaseEntries g members []
    if es.isEmpty then []
    else
      let len := maxOf (es.map fun e => ceilDiv e.2.2 (min (rate e.1) (rate e.2.1)) + 200)
      let rest := g.filter fun e => !es.any fun x => x.1 == e.1 && x.2.1 == e.2.1
      es.map (fun e => ⟨ph, e.1, e.2.1, e.2.2, t, len⟩) ++ decomposeFrom rate members n rest (t + len) (ph + 1)

/-- The calendar of an exchange over its live members. -/
def decompose (rate : Nat → Nat) (members : List Nat) (d : Nat → Nat → Nat) (acc : Nat → Nat) : List CalEntry :=
  let g := (members.flatMap fun j => grantsTo j d members (acc j)).filter fun e => decide (0 < e.2.2)
  decomposeFrom rate members g.length g 0 0

/-! ### The member's side (R221, R348) -/

def calBytes (e : CalEntry) (self tag : Nat) : List Byte :=
  leBytes 2 e.phase ++ leBytes 2 e.src ++ leBytes 2 e.dst ++
    leBytes 2 ((if e.src = self then 1 else 0) + if e.dst = self then 2 else 0) ++ leBytes 8 e.bytes ++ leBytes 4 e.start ++
    leBytes 4 e.length ++ leBytes 2 tag ++ leBytes 6 0

/-- The calendar area (R221). -/
def XTag.area (x : XTag) (self tag : Nat) (base : Word) : List Byte :=
  let es := x.cal.getD []
  leBytes 8 base.toNat ++ leBytes 4 es.length ++ leBytes 2 tag ++ leBytes 2 (if x.repost then 1 else 0) ++
    leBytes 4 x.phases ++ leBytes 12 0 ++ (es.flatMap fun e => calBytes e self tag) ++ leBytes (8 * es.length) 0

/-- Where RECEIVED[e] stands. -/
def XTag.receivedAddr (x : XTag) (e : Nat) : Nat := x.calBuf + 32 + 32 * (x.cal.getD []).length + 8 * e

/-- A commit reaches a member that has its calendar and no commit yet: the calendar area is written, where it holds the
entries (R221, R348, R349). -/
def State.takeCommit (s : State) (tenant tag : Nat) (base : Word) : State :=
  let key := tagKey tenant tag
  let x := s.xtagAt key
  if !x.posted || x.cal.isNone || x.commit.isSome then s
  else
    let t := s.updXtag key fun y => { y with commit := some base }
    if x.calMax < (x.cal.getD []).length then t else t.wrVirt x.asid x.calBuf (x.area s.pkg tag base)

/-- BASE of a commit sent now (R348): the next whole µs and 20 µs. -/
def commitBase (now : Word) : Word := BitVec.ofNat 64 (ceilDiv now.toNat 1000 * 1000 + 20000)

/-- The arbiter commits a tag: recorded with the standby first, then sent to every member. -/
def State.commitTag (s : State) (tenant tag : Nat) (base : Word) : State :=
  let t := (s.updArbTag (tagKey tenant tag) fun a => { a with commit := some base }).send
    (.commitRec s.fab.standby tenant tag base)
  (s.liveMembers tenant).foldl (fun u m =>
    if m = u.pkg then u.takeCommit tenant tag base else u.send (.commit m tenant tag base)) t

/-- The arbiter has an acknowledgement; when every member has acknowledged, it commits (R348). -/
def State.takeAck (s : State) (member tenant tag : Nat) : State :=
  let key := tagKey tenant tag
  let t := s.updArbTag key fun a => { a with acks := if a.acks.contains member then a.acks else a.acks ++ [member] }
  let a := t.arbTagAt key
  if a.cal.isSome && a.commit.isNone && (t.liveMembers tenant).all fun m => a.acks.contains m then
    t.commitTag tenant tag (commitBase t.time)
  else t

/-- A member has its calendar and acknowledges it (R348); one that holds the commit ignores a repeat. -/
def State.takeCalendar (s : State) (tenant tag phases : Nat) (repost : Bool) (es : List CalEntry) : State :=
  let key := tagKey tenant tag
  let x := s.xtagAt key
  if !x.posted || x.commit.isSome then s
  else
    let t := s.updXtag key fun y => { y with cal := some es, phases := phases, repost := repost }
    if t.fab.arbiter = t.pkg then t.takeAck t.pkg tenant tag else t.send (.calAck t.fab.arbiter tenant tag)

/-! ### The arbiter's side (R347, R348) -/

/-- The arbiter decomposes a tag once it holds a posting from every live member, and sends each its entries. -/
def State.tryDecompose (s : State) (tenant tag : Nat) : State :=
  let key := tagKey tenant tag
  let a := s.arbTagAt key
  let ms := s.liveMembers tenant
  let post := fun m => SMap.get a.posts none m
  if a.cal.isSome || ms.isEmpty || !ms.all (fun m => (post m).isSome) then s
  else
    let d := fun i j => match post i with
      | some p => p.2.getD j 0
      | none => 0
    let acc := fun j => match post j with
      | some p => p.1
      | none => 0
    let cal := decompose s.rateOf ms d acc
    let ph := if cal.isEmpty then 0 else maxOf (cal.map (·.phase)) + 1
    let t := s.updArbTag key fun b => { b with cal := some cal, phases := ph }
    ms.foldl (fun u m =>
      let es := cal.filter fun e => e.src == m || e.dst == m
      if m = u.pkg then u.takeCalendar tenant tag ph a.repost es else u.send (.calendar m tenant tag ph a.repost es)) t

/-- The arbiter receives a posting (R347). -/
def State.takePosting (s : State) (member tenant tag accept : Nat) (demand : List Nat) : State :=
  let key := tagKey tenant tag
  let t := s.updArbTag key fun a =>
    let a := if a.commit.isSome then {} else a
    { a with posts := SMap.set a.posts none member (some (accept, demand)) }
  t.tryDecompose tenant tag

/-- A member posts a tag, or posts it again, to the arbiter of the moment. -/
def State.sendPosting (s : State) (tenant tag : Nat) : State :=
  let x := s.xtagAt (tagKey tenant tag)
  if s.fab.arbiter = s.pkg then s.takePosting s.pkg tenant tag x.accept x.demand
  else s.send (.post s.fab.arbiter tenant tag x.accept x.demand)

/-! ### DPOST, DCAL, DSTAT at the head (R220, R222 to R224) -/

def State.tenantOf (s : State) (slot : Nat) : Nat := (s.slotAt slot).task.tenant
def State.asidOf (s : State) (slot : Nat) : Nat := (s.slotAt slot).task.asid

/-- A tag is busy from its posting until its `DRUN` finishes (R222). -/
def XTag.busy (x : XTag) : Bool := x.posted && !x.finished

/-- DPOST (R220, R223). -/
def State.headDpost (s : State) (slot : Nat) (c : Cmd) : Head :=
  let va := c.opN 0
  if va % 64 ≠ 0 then .bad ⟨cALIGN, 2, c.op 0⟩
  else
    (s.copyRead (s.asidOf slot) va 2368).head fun bs =>
      let w := fun i => leNat ((bs.drop (8 * i)).take 8)
      let tag := w 0 % 65536
      let tenant := s.tenantOf slot
      let dem := (upto Config.packages 8).map w
      if (s.xtagAt (tagKey tenant tag)).busy then .bad ⟨cDEMAND, 1, 0⟩
      else if w 3 < w 1 ∨ dem.getD s.pkg 0 ≠ 0 then .bad ⟨cDEMAND, 5, 0⟩
      else if w 5 % 8 ≠ 0 then .bad ⟨cALIGN, 2, BitVec.ofNat 64 (w 5)⟩
      else
        let x : XTag := { posted := true, accept := w 1, recv := w 2, send := w 4, calBuf := w 5, calMax := w 6 % 2 ^ 32,
                          demand := dem, asid := s.asidOf slot }
        let t := s.updXtag (tagKey tenant tag) fun _ => x
        let t := { t with fab := { t.fab with recorded := SMap.set t.fab.recorded none (tagKey tenant tag) none } }
        .over_ (t.sendPosting tenant tag) c

/-- The tag key of an entry whose operand 0 names a tag. -/
def State.keyOf (s : State) (slot : Nat) (c : Cmd) : Nat := tagKey (s.tenantOf slot) (c.opN 0 % 65536)

/-- DCAL (R222, R223). -/
def State.headDcal (s : State) (slot : Nat) (c : Cmd) (d : Reg) : Head :=
  let key := s.keyOf slot c
  let x := s.xtagAt key
  let n := (x.cal.getD []).length
  if !x.posted then .bad ⟨cDEMAND, 3, 0⟩
  else if x.commit.isNone then .wait (some 3)
  else if x.calMax < n then .bad ⟨cDEMAND, 2, 0⟩
  else .over_ ((s.updXtag key fun y => { y with shown := true }).updSlot slot fun k => k.deliver .copy d (BitVec.ofNat 64 n)) c

/-- Bytes granted to send and to receive (R224). -/
def XTag.grantedSend (x : XTag) (self : Nat) : Nat := sumOf (((x.cal.getD []).filter fun e => e.src == self).map (·.bytes))
def XTag.grantedRecv (x : XTag) (self : Nat) : Nat := sumOf (((x.cal.getD []).filter fun e => e.dst == self).map (·.bytes))

/-- The values of `DSTAT` (R224). -/
def XTag.stat (x : XTag) (self sel : Nat) : Nat :=
  match sel with
  | 0 => x.sent
  | 1 => if x.shown then x.grantedSend self else 0
  | 2 => if x.shown then sumOf x.demand - x.grantedSend self else 0
  | 3 => sumOf (x.received.map (·.2))
  | _ => if x.shown then x.grantedRecv self else 0

/-- DSTAT (R224). -/
def State.headDstat (s : State) (slot : Nat) (c : Cmd) (d : Reg) (sel : BitVec 3) : Head :=
  let x := s.xtagAt (s.keyOf slot c)
  if !x.posted then .bad ⟨cDEMAND, 3, 0⟩
  else .over_ (s.updSlot slot fun k => k.deliver .copy d (BitVec.ofNat 64 (x.stat s.pkg sel.toNat))) c

/-! ### DRUN (R223, R350) -/

/-- Adds to the expected count of a copy group in the generation of a command (R55). -/
def Slot.expectMore (k : Slot) (c : Cmd) (n : Nat) : Slot :=
  match copyGroup c.instr with
  | none => k
  | some i =>
    let g := k.cgAt i
    if g.gen.toNat = c.cgGen then k.setCg i { g with exp := g.exp + BitVec.ofNat 48 n } else k

/-- The actual bytes by destination: the vector at G(b), or the demand. -/
def State.actualBytes (s : State) (slot : Nat) (c : Cmd) (x : XTag) : Part (List Nat) :=
  if c.op 1 = 0 then .ok x.demand
  else
    (s.copyRead (s.asidOf slot) (c.opN 1) (8 * Config.packages)).bind fun bs =>
      .ok ((upto Config.packages 0).map fun j => leNat ((bs.drop (8 * j)).take 8))

/-- An entry ends at once where its peer is dead (R350). -/
def State.endDeadEntries (s : State) (x : XTag) : XTag :=
  let es := x.cal.getD []
  let dead := (es.zip (upto es.length 0)).filter fun e =>
    !x.ended.contains e.2 && ((e.1.src == s.pkg && s.isDead e.1.dst) || (e.1.dst == s.pkg && s.isDead e.1.src))
  { x with ended := x.ended ++ dead.map (·.2) }

/-- The bytes granted to this package in entries that have ended: they are expected, and count as landed (R223, R350). -/
def XTag.endedRecv (x : XTag) (self : Nat) : Nat :=
  let es := x.cal.getD []
  sumOf (((es.zip (upto es.length 0)).filter fun e => x.ended.contains e.2 && e.1.dst == self).map fun e => e.1.bytes)

/-- DRUN starts (R223): the pending count falls and the bytes to be received are expected. -/
def State.headDrun (s : State) (slot : Nat) (c : Cmd) : Head :=
  let key := s.keyOf slot c
  let x := s.xtagAt key
  if !x.posted then .bad ⟨cDEMAND, 3, 0⟩
  else if x.commit.isNone then .wait (some 3)
  else
    (s.actualBytes slot c x).head fun act =>
      let y := s.endDeadEntries { x with running := true, act := act, key := s.markKeyOf slot }
      .runs ((s.updXtag key fun _ => y).updSlot slot fun k =>
        ((k.unpend c).expectMore c (x.grantedRecv s.pkg)).landed (copyGroup c.instr) c.cgGen (y.endedRecv s.pkg)) c

/-- Every entry of this package's calendar has ended. -/
def XTag.allEnded (x : XTag) : Bool := (upto (x.cal.getD []).length 0).all fun e => x.ended.contains e

/-- The slot and command that run a tag's `DRUN`. -/
def State.runnerOf (s : State) (key : Nat) : Option (Nat × Cmd) :=
  (s.slots.findSome? fun e =>
    match e.2.cq with
    | c :: _ => if Instr.isDrun c.instr && c.started && s.keyOf e.1 c == key then some (e.1, c) else none
    | [] => none)

/-- Entry `e` may run: its time has come and every earlier phase of this package has ended (R223). -/
def State.entryOpen (s : State) (x : XTag) (e : Nat) (ent : CalEntry) : Bool :=
  let es := x.cal.getD []
  x.running && !x.ended.contains e && !s.time.ult (x.commit.getD 0 + BitVec.ofNat 64 ent.start) &&
    (es.zip (upto es.length 0)).all fun f => !decide (f.1.phase < ent.phase) || x.ended.contains f.2

/-- The offset in the receive buffer of an entry: the grants of the receive entries before it (R223). -/
def XTag.recvOff (x : XTag) (self e : Nat) : Nat :=
  sumOf ((((x.cal.getD []).take e).filter fun f => f.dst == self).map (·.bytes))

/-- Bytes of a running exchange land in the copy group of its `DRUN`. -/
def State.landFor (s : State) (r : Option (Nat × Cmd)) (n : Nat) : State :=
  match r with
  | none => s
  | some (slot, c) => s.updSlot slot fun k => k.landed (copyGroup c.instr) c.cgGen n

/-- This package sends an entry: its bytes, and an end marker where fewer than granted (R223). -/
def State.sendEntry (s : State) (tenant tag e : Nat) (x : XTag) (ent : CalEntry) : State :=
  let key := tagKey tenant tag
  let run := s.runnerOf key
  let n := min ent.bytes (x.act.getD ent.dst 0)
  let src := x.send + sumOf (x.demand.take ent.dst)
  match s.copyOut x.asid src n x.key true with
  | .ok bs =>
    (s.updXtag key fun y => { y with sent := y.sent + n, ended := y.ended ++ [e] }).send
      (.data ent.dst tenant tag e bs (decide (n < ent.bytes)))
  | .bad b =>
    match run with
    | some (slot, c) => s.headFault slot .copy c b
    | none => s.updXtag key fun y => { y with ended := y.ended ++ [e] }
  | .wait c => s.stallCause (match run with
      | some (slot, _) => coreOf slot
      | none => 0) tenant c
  | .void _ => s

/-- This package receives bytes of an entry: they land in order, up to its grant (R223). -/
def State.recvEntry (s : State) (tenant tag e : Nat) (x : XTag) (ent : CalEntry) (data : List Byte) (ended : Bool) : State :=
  let key := tagKey tenant tag
  let run := s.runnerOf key
  let have_ := SMap.get x.received 0 e
  let bs := data.take (ent.bytes - have_)
  let t := s.wrVirt x.asid (x.recv + x.recvOff s.pkg e + have_) bs
  let total := have_ + bs.length
  let over_ := ended || total == ent.bytes
  let t := t.updXtag key fun y =>
    { y with received := SMap.set y.received 0 e total, ended := if over_ then y.ended ++ [e] else y.ended }
  let t := if x.calMax < (x.cal.getD []).length then t else t.wrVirt x.asid (x.receivedAddr e) (leBytes 8 total)
  t.landFor run (bs.length + if ended then ent.bytes - total else 0)

/-! ### In-switch reduction (R225, R353) -/

/-- The descriptor that the words of a reduction give. -/
def fredOf (w : List Nat) : FredDesc :=
  let g := fun i => w.getD i 0
  { rid := bits (g 0) 0 32, fmt := BitVec.ofNat 4 (bits (g 0) 32 4), src := BitVec.ofNat 64 (g 1), len := g 2,
    dst := BitVec.ofNat 64 (g 3), dpkg := bits (g 4) 0 9, wait := g 5, status := BitVec.ofNat 64 (g 6)
    members := (upto Config.packages 0).filter fun p => bit (g (8 + p / 64)) (p % 64) }

/-- What every member must present alike. -/
def fredAgrees (a b : FredDesc) : Bool :=
  a.fmt == b.fmt && a.len == b.len && a.dst == b.dst && a.dpkg == b.dpkg && a.members == b.members

/-- Two contributions added element by element (R94). -/
def addElems (fmt : BitVec 4) (a b : List Byte) : List Byte :=
  let sz := if fmt = 2 then 2 else 4
  let e := fun (l : List Byte) i => leNat ((l.drop (sz * i)).take sz)
  (upto (a.length / sz) 0).flatMap fun i =>
    leBytes sz (if fmt = 1 then fadd32 (e a i) (e b i) else if fmt = 2 then fadd16 (e a i) (e b i) else e a i + e b i)

/-- The sum in increasing package number. -/
def sumContribs (fmt : BitVec 4) : SMap (List Byte) → List Byte
  | [] => []
  | (_, d) :: r => r.foldl (fun acc e => addElems fmt acc e.2) d

/-- A STATUS record: the flags and the ARRIVED bitmap (R225). -/
def statusBytes (flags : Nat) (arrived : List Nat) : List Byte :=
  let m := arrived.foldl (fun a p => if bit a p then a else a + 2 ^ p) 0
  leBytes 8 flags ++ leBytes 36 m ++ leBytes 20 0

/-- The destination is written (R353): an address of the contributing task's space in this package, a physical address
of a peer (DEDUCED, log 26). -/
def State.writeDst (s : State) (r : Red) (v : List Byte) : State :=
  if s.isDead r.red.dpkg then s
  else if r.red.dpkg = s.pkg then s.wrVirt r.localAsid r.red.dst.toNat v
  else { s with peer := SMap.upd s.peer [] r.red.dpkg fun m => writeBytes m r.red.dst.toNat v }

/-- A reduction ends: the local member's STATUS is written (DEDUCED, log 26). -/
def State.endRed (s : State) (rid : Nat) (r : Red) (flags : BitVec 4) : State :=
  let t := if r.localSent then s.wrVirt r.localAsid r.localStatus (statusBytes flags.toNat r.arrived) else s
  { t with reds := SMap.set t.reds none rid (some { r with ended := true, data := [], status := some flags }) }

/-- A reduction that every live member has reached leaves the switch. -/
def State.dropRed (s : State) (rid : Nat) : State :=
  match SMap.get s.reds none rid with
  | some r =>
    if r.ended && r.red.members.all fun m => r.arrived.contains m || s.isDead m then
      { s with reds := SMap.set s.reds none rid none }
    else s
  | none => s

def fOK : BitVec 4 := 1
def fFAILED : BitVec 4 := 2
def fDEADLINE : BitVec 4 := 4
def fMISMATCH : BitVec 4 := 8

/-- A contribution reaches the switch (R353). -/
def State.contribute (s : State) (member : Nat) (d : FredDesc) (data : List Byte) (asid : Nat) : State :=
  let mine := member = s.pkg
  let note := fun (r : Red) =>
    if mine then { r with localAsid := asid, localStatus := d.status.toNat, localSent := true } else r
  match SMap.get s.reds none d.rid with
  | none =>
    let r := note { red := d, data := SMap.set [] [] member data, arrived := [member], first := s.time }
    let t := { s with reds := SMap.set s.reds none d.rid (some r) }
    if d.dpkg < Config.packages && s.isDead d.dpkg || d.members.any (fun m => s.isDead m) then
      (t.endRed d.rid r fFAILED).dropRed d.rid
    else if d.members.all fun m => m == member then ((t.writeDst r data).endRed d.rid r fOK).dropRed d.rid
    else t
  | some r =>
    if r.ended then
      let r1 := note { r with arrived := r.arrived ++ [member] }
      let t := if mine then s.wrVirt asid d.status.toNat (statusBytes (r.status.getD fFAILED).toNat r.arrived) else s
      ({ t with reds := SMap.set t.reds none d.rid (some r1) }).dropRed d.rid
    else if !fredAgrees d r.red || r.arrived.contains member then
      let r1 := note { r with arrived := if r.arrived.contains member then r.arrived else r.arrived ++ [member] }
      (s.endRed d.rid r1 (fFAILED ||| fMISMATCH)).dropRed d.rid
    else
      let r1 := note { r with data := SMap.set r.data [] member data, arrived := r.arrived ++ [member] }
      if d.members.all fun m => r1.arrived.contains m then
        ((s.writeDst r1 (sumContribs d.fmt r1.data)).endRed d.rid r1 fOK).dropRed d.rid
      else { s with reds := SMap.set s.reds none d.rid (some r1) }

/-- The reductions open in the switch (R353). -/
def State.openReds (s : State) : Nat :=
  (s.reds.filter fun e => match e.2 with
    | some r => !r.ended
    | none => false).length

/-- The length is a multiple of the element size, from 1 to 2^30 (R225). -/
def fredLenOk (d : FredDesc) : Bool :=
  decide (1 ≤ d.len) && decide (d.len ≤ 2 ^ 30) && d.len % (if d.fmt = 2 then 2 else 4) == 0

/-- FRED at the head (R225): it sends its contribution and waits for its STATUS. A length outside its limits is an operand
value outside its limits (DEDUCED, log 27). -/
def State.headFred (s : State) (slot : Nat) (c : Cmd) : Head :=
  let asid := s.asidOf slot
  (s.fredWords asid (c.opN 0)).head fun w =>
    let d := fredOf w
    if !fredLenOk d then .bad ⟨cILLEGAL, 0x0F, c.op 0⟩
    else if 256 ≤ s.openReds ∧ (SMap.get s.reds none d.rid).isNone then .wait (some 3)
    else
      (s.copyOut asid d.src.toNat d.len none true).head fun bs =>
        .runs (s.contribute s.pkg d bs asid) { c with waiting := true, aux := d.rid }

/-- The reduction of a `FRED` that waits has ended: its STATUS is written. -/
def State.fredEnded (s : State) (c : Cmd) : Bool :=
  match SMap.get s.reds none c.aux with
  | some r => r.ended
  | none => true

end Sys2Proof.Machine
end

