-- ==== Sys2Proof/Machine/CopyHead.lean ====
section
/-! DEFINITION. The head of the copy queue (R201): allocation (R51 to R53), the count and share instructions (R212), block
tables (R219), and the start of every copy. -/

namespace Sys2Proof.Machine

/-! ### Allocation (R51 to R53, R207) -/

/-- How an allocation is decided. -/
inductive Alloc where
  | grant | wait | full (reason : BitVec 8)
deriving DecidableEq, Repr

/-- R51 for one tile in each of `cores`. -/
def State.decideAlloc (s : State) (slot : Nat) (cores : List Nat) : Alloc :=
  let room := decide (s.used slot + cores.length ≤ (s.slotAt slot).grantT)
  if room && cores.all fun c => (s.lowestFree c).isSome then .grant
  else if s.liveConsumer slot then .wait
  else .full (if room then 2 else 1)

/-- Allocates one tile in each core, in increasing order; their handles. -/
def State.allocTiles (s : State) (slot : Nat) (f : BitVec 12 → Tile) : List Nat → State × List Word
  | [] => (s, [])
  | c :: r =>
    match s.lowestFree c with
    | none => (s, [])
    | some i =>
      let a := s.allocate slot c i f
      let b := a.1.allocTiles slot f r
      (b.1, a.2 :: b.2)

/-- Registers receive handles in order. -/
def Slot.deliverAll (k : Slot) : List Reg → List Word → Slot
  | r :: rs, h :: hs => (k.deliver .copy r h).deliverAll rs hs
  | _, _ => k

/-- The predicate of a `.nb` form is written. -/
def Slot.deliverNb (k : Slot) (h : Hdr) (b : Bool) : Slot := (nbPred h).foldl (fun k p => k.deliverP .copy p b) k

/-- An allocation at the head, its tiles made by `f`: what follows it is `go`; the refusal of a `.nb` form lands its whole
size and writes null handles (R53). -/
def State.headAlloc (s : State) (slot : Nat) (c : Cmd) (cores : List Nat) (regs : List Reg) (addr : Word)
    (f : BitVec 12 → Tile) (go : State → Cmd → Head) : Head :=
  match s.decideAlloc slot cores with
  | .grant =>
    let a := s.allocTiles slot f cores
    go (a.1.updSlot slot fun k => (k.deliverAll regs a.2).deliverNb c.hdr true) { c with handles := a.2 }
  | d =>
    if modNb c.hdr then
      .refused (s.updSlot slot fun k =>
        (((k.landed (copyGroup c.instr) c.cgGen c.bytes).untag c.tags).deliverAll regs (regs.map fun _ => 0)).deliverNb c.hdr
          false) c
    else
      match d with
      | .full r => .bad ⟨cSTORE_FULL, r, addr⟩
      | _ => .wait (some 6)

/-- The cores of a multicast mask in a slot's cluster. -/
def mcCores (slot : Nat) (mc : BitVec 4) : List Nat := (clusterCores slot).filter fun c => mc.getLsbD (c % 4)

/-- A fetch at the head (R207). -/
def State.headFetch (s : State) (slot : Nat) (c : Cmd) (cores : List Nat) (regs : List Reg) (n : Nat) (sh : Word)
    (disc rcmd : Bool) : Head :=
  let refill := if rcmd then some ({ c with charged := false, done := 0 }.words .copy 0) else none
  s.headAlloc slot c cores regs (BitVec.ofNat 64 c.td.tid)
    (fun ser => freshTile (s.slotAt slot) slot ser c.td n sh (disc || rcmd || c.td.disc) refill) fun t c => .runs t c

/-- PROT 0x04: counts and shares are the owner's (R45). -/
def State.notOwner (s : State) (slot : Nat) (h : Word) : Option Bad :=
  if (s.tileOf h).ownedBy slot then none else some ⟨cPROT, 4, h⟩

/-- The checks of an owner's instruction: R40, R41, R45. -/
def State.checkOwned (s : State) (slot : Nat) (h : Word) : Option Bad :=
  match s.checkTile slot h with
  | some b => some b
  | none => s.notOwner slot h

/-- A checked handle. -/
def withCheck (o : Option Bad) (f : Head) : Head :=
  match o with
  | some b => .bad b
  | none => f

/-- The refill form at the head (R208): the tile must be VACATED and of the tensor's format. -/
def State.headRefill (s : State) (slot : Nat) (c : Cmd) : Head :=
  let h := c.op 0
  withCheck (s.checkOwned slot h) <|
    let t := s.tileOf h
    if t.st ≠ .vacated then .bad ⟨cPROT, 0x0C, h⟩
    else if t.fmt ≠ c.td.fmt then .bad ⟨cFORMAT, 1, h⟩
    else
      .runs (s.updTileOf h fun t => { t with st := .filling, full := freshFull t.fmt, lines := [] }) { c with handles := [h] }

/-! ### Counts and shares (R212) -/

/-- The share word of `TADJ`. -/
def adjShare (v : Word) : Nat := bits v.toNat 16 3
def adjWho (v : Word) : Nat := bits v.toNat 22 2 * 4 + bits v.toNat 20 2

/-- TADJ on a tile (R212); none is ILLEGAL 0x0F. -/
def Tile.adjust (t : Tile) (v : Word) : Option Tile :=
  let i := adjShare v
  let sh := t.shareAt i
  let nn : Int := (sh.n : Int) + (v.extractLsb' 0 16).toInt
  if t.held ∨ 4 < i then none
  else if nn < (sh.p : Int) ∨ (0xFFFE : Int) < (t.total : Int) - (sh.n : Int) + nn then none
  else
    let named := (upto 4 0).any fun j => j != i && (t.shareAt j).who == some (adjWho v)
    if bit v.toNat 19 && (i == 4 || sh.p != 0 || named) then none
    else
      some ((t.updShare i fun x =>
        { x with who := if bit v.toNat 19 then some (adjWho v) else x.who, n := nn.toNat }).settleIfZero)

/-- TREL on a tile (R212). -/
def Tile.release (t : Tile) : Tile :=
  ({ t with held := false, share := Vector.ofFn fun j => { t.share.get j with n := (t.share.get j).p } }).settleIfZero

def State.headTcon (s : State) (slot : Nat) (c : Cmd) : Head :=
  let h := c.op 0
  withCheck (s.checkTile slot h) <|
    match (s.tileOf h).consume (pairOf slot) with
    | none => .bad ⟨cTILE_GONE, 3, h⟩
    | some t => .over_ (s.updTileOf h fun _ => t) c

def State.headTrel (s : State) (slot : Nat) (c : Cmd) : Head :=
  withCheck (s.checkOwned slot (c.op 0)) (.over_ (s.updTileOf (c.op 0) Tile.release) c)

def State.headTsettle (s : State) (slot : Nat) (c : Cmd) (k : BitVec 3) : Head :=
  withCheck (s.checkOwned slot (c.op 0)) (.over_ (s.updTileOf (c.op 0) fun t => t.settle k.toNat) c)

def State.headTadj (s : State) (slot : Nat) (c : Cmd) : Head :=
  withCheck (s.checkOwned slot (c.op 0)) <|
    match (s.tileOf (c.op 0)).adjust (c.op 1) with
    | none => .bad ⟨cILLEGAL, 0x0F, c.op 0⟩
    | some t => .over_ (s.updTileOf (c.op 0) fun _ => t) c

def State.headTquery (s : State) (slot : Nat) (c : Cmd) (d : Reg) (sel : BitVec 3) : Head :=
  withCheck (s.checkTile slot (c.op 0))
    (.over_ (s.updSlot slot fun k => k.deliver .copy d (BitVec.ofNat 64 ((s.tileOf (c.op 0)).query sel.toNat))) c)

/-! ### The tin (R47, R48, R213) -/

/-- The bytes a tin of a task needs. -/
def tinBytes (part : Nat) : Nat := part * 0xA000

/-- The lowest record of a task's tin that holds nothing (DESIGN CHOICE, log 70). -/
def Slot.tinFree (k : Slot) : Option Nat := (upto k.task.part 0).find? fun i => !SMap.get k.tinUsed false i

/-- The task has a tin, popped from its tenant's pool at its first `PARK`. -/
def State.needTin (s : State) (slot : Nat) : Option State :=
  let k := s.slotAt slot
  match k.tin with
  | some _ => some s
  | none =>
    if (s.tenAt k.task.tenant).saveSize < tinBytes k.task.part then none
    else
      match s.popPool k.task.tenant with
      | none => none
      | some (t, a) => some (t.updSlot slot fun k => { k with tin := some a, tinUsed := [] })

/-- PARK at the head (R47): its checks in order; a VACATED tile moves no data (DEDUCED, log 40). -/
def State.headPark (s : State) (slot : Nat) (c : Cmd) (d : Reg) : Head :=
  let h := c.op 0
  withCheck (s.checkOwned slot h) <|
    let t := s.tileOf h
    if t.share.toList.any fun x => x.p != 0 then .bad ⟨cPROT, 2, h⟩
    else
      match s.needTin slot with
      | none => .bad ⟨cSTORE_FULL, 3, h⟩
      | some u =>
        match (u.slotAt slot).tinFree with
        | none => .bad ⟨cSTORE_FULL, 3, h⟩
        | some i =>
          let u := (u.updSlot slot fun k => k.deliver .copy d (BitVec.ofNat 64 i)).updTileOf h fun t => { t with parking := true }
          if t.st = .vacated then
            .runs (u.updSlot slot fun k => k.landed (copyGroup c.instr) c.cgGen c.bytes) { c with handles := [h], done := 288 }
          else .runs u { c with handles := [h] }

/-- UNPARK at the head (R48). -/
def State.headUnpark (s : State) (slot : Nat) (c : Cmd) (d : Reg) : Head :=
  let k := s.slotAt slot
  let i := c.opN 0
  match k.tin with
  | none => .bad ⟨cTILE_GONE, 1, c.op 0⟩
  | some a =>
    if k.task.part ≤ i ∨ !SMap.get k.tinUsed false i then .bad ⟨cTILE_GONE, 1, c.op 0⟩
    else
      let rec_ := a + 0xA000 * i
      let make := fun ser =>
        let t := s.rdTileState slot rec_ ser
        if t.st = .vacated then { t with full := freshFull t.fmt } else { t with st := .filling, full := 0 }
      s.headAlloc slot c [coreOf slot] [d] (c.op 0) make fun t c =>
        if (t.tileOf (c.handles.headD 0)).st = .vacated then
          .runs (t.updSlot slot fun k => k.landed (copyGroup c.instr) c.cgGen c.bytes) { c with done := 288 }
        else .runs t c

/-! ### Stores of tiles and linear copies -/

/-- A read of a VACATED tile (R57). -/
def State.notVacated (s : State) (h : Word) : Option Bad :=
  if (s.tileOf h).st = .vacated then some ⟨cTILE_VACATED, 1, h⟩ else none

/-- TSTORE at the head (R210): the format before the read; a read already charged is not charged again (R227). -/
def State.headTstore (s : State) (slot : Nat) (c : Cmd) : Head :=
  let h := c.op 3
  withCheck (s.checkTile slot h) <|
    if (s.tileOf h).fmt ≠ c.td.fmt then .bad ⟨cFORMAT, 1, h⟩
    else
      withCheck (s.notVacated h) <|
        if c.charged then .runs s { c with handles := [h] }
        else
          match (s.tileOf h).consume (pairOf slot) with
          | none => .bad ⟨cTILE_GONE, 3, h⟩
          | some t => .runs (s.updTileOf h fun _ => t) { c with handles := [h], charged := true }

/-- The lines sent and not performed of a copy of a slot meet a footprint; an unknown one is every byte (R339 item 2;
DEDUCED, log 39). -/
def Slot.flightMeets (k : Slot) (foot : Option (List (Nat × Nat))) : Bool :=
  k.flight.any fun c =>
    decide (c.done < c.sent) &&
      match foot with
      | none => true
      | some fs => fs.any fun f => rangesMeet f.1 f.2 (c.opN 0 + 128 * c.done) (128 * (c.sent - c.done))

/-- The footprint of a copy, where its operands give it (R115; DEDUCED, log 39). -/
def Cmd.foot (c : Cmd) : Option (List (Nat × Nat)) :=
  match c.instr with
  | .fetch .. | .fetchMc .. => some (fetchFoot c.td false (c.op 1) (c.op 2) (c.op 4))
  | .fetchT .. => some (fetchFoot c.td true (c.op 1) (c.op 2) (c.op 4))
  | .fetchRf .. => some (fetchFoot c.td false (c.op 2) (c.op 3) (c.op 4))
  | .tstore .. => some (fetchFoot c.td false (c.op 1) (c.op 2) (c.op 4))
  | .ccopy .. => some [(c.opN 0, c.opN 2), (c.opN 1, c.opN 2)]
  | .dpost .. => some [(c.opN 0, 2368)]
  | .cgath .. | .cscat .. | .btnext .. | .drun .. | .fred .. => none
  | _ => some []

/-- CCOPY at the head (R215, R339 item 1). -/
def State.headCcopy (s : State) (slot : Nat) (c : Cmd) : Head :=
  if 16 ≤ (s.slotAt slot).flight.length then .wait none else .runs s { c with key := s.markKeyOf slot }

/-! ### Gather and scatter (R216, R217) -/

/-- The chain is aligned to 16 bytes. -/
def badChain (l : Word) : Option Bad := if l.toNat % 16 ≠ 0 then some ⟨cALIGN, 2, l⟩ else none

def State.headCgath (s : State) (slot : Nat) (c : Cmd) (d : Reg) (n : Nat) : Head :=
  withCheck (badChain (c.op 1)) <|
    s.headAlloc slot c [coreOf slot] [d] (BitVec.ofNat 64 c.td.tid)
      (fun ser => freshTile (s.slotAt slot) slot ser c.td n 0 c.td.disc none) fun t c => .runs t c

def State.headCscat (s : State) (slot : Nat) (c : Cmd) : Head :=
  let h := c.op 0
  withCheck (badChain (c.op 1)) <| withCheck (s.checkTile slot h) <|
    if (s.tileOf h).fmt = 3 then .bad ⟨cFORMAT, 1, h⟩
    else withCheck (s.notVacated h) (.runs s { c with handles := [h] })

/-! ### Block tables (R219) -/

/-- A word of `n` bytes of memory as a copy reads it. -/
def State.copyWord (s : State) (asid va n : Nat) : Part Nat := (s.copyRead asid va n).bind fun bs => .ok (leNat bs)

/-- Skips empty rows: from q on, while p is at or past ROW[q + 1]. The last part is ROW[q + 1] where q stays below NQ.
`prev` is ROW[q] where it has been read. -/
def State.skipRows (s : State) (asid tab nq nk p : Nat) : Nat → Nat → Option Nat → Part (Nat × Nat)
  | 0, q, _ => .ok (q, 0)
  | n + 1, q, prev =>
    if nq ≤ q then .ok (q, 0)
    else
      match s.copyWord asid (tab + 8 + 4 * (q + 1)) 4 with
      | .ok r =>
        if r < prev.getD 0 ∨ (q + 1 = nq ∧ r ≠ nk) then .bad ⟨cFORMAT, 2, BitVec.ofNat 64 tab⟩
        else if r ≤ p then s.skipRows asid tab nq nk p n (q + 1) (some r)
        else .ok (q, r)
      | .bad b => .bad b
      | .wait c => .wait c
      | .void pa => .void pa

/-- BTNEXT on a table: the result and the cursor after it. -/
def State.blockNext (s : State) (asid tab : Nat) (cur : Word) : Part (Nat × Nat) :=
  if tab % 8 ≠ 0 then .bad ⟨cALIGN, 2, BitVec.ofNat 64 tab⟩
  else
    (s.copyWord asid tab 8).bind fun w0 =>
      let nq := bits w0 0 32
      let nk := bits w0 32 32
      let p := bits cur.toNat 32 32
      if 65535 < nq then .bad ⟨cFORMAT, 2, BitVec.ofNat 64 tab⟩
      else
        (s.skipRows asid tab nq nk p (nq + 1) (bits cur.toNat 0 32) none).bind fun (q, r1) =>
          if nq ≤ q then .ok (2 ^ 63, q + p * 2 ^ 32)
          else
            (s.copyWord asid (tab + 8 + 4 * q) 4).bind fun r0 =>
              if (q = 0 ∧ r0 ≠ 0) ∨ r1 < r0 then .bad ⟨cFORMAT, 2, BitVec.ofNat 64 tab⟩
              else
                (s.copyWord asid (tab + 8 + 4 * (nq + 1) + 4 * p) 4).bind fun key =>
                  .ok (key + q * 2 ^ 32 + (if p = r0 then 2 ^ 48 else 0) + (if p + 1 = r1 then 2 ^ 49 else 0),
                    q + (p + 1) * 2 ^ 32)

def State.headBtnext (s : State) (slot : Nat) (c : Cmd) (d k : Reg) : Head :=
  (s.blockNext (s.asidOf slot) (c.opN 1) (c.op 0)).head fun r =>
    .over_ (s.updSlot slot fun x => (x.deliver .copy d (BitVec.ofNat 64 r.1)).deliver .copy k (BitVec.ofNat 64 r.2)) c

/-! ### The head of the copy queue (R201) -/

/-- What the head entry of a slot's copy queue does when it starts. -/
def State.copyHead (s : State) (slot : Nat) (c : Cmd) : Head :=
  if (s.slotAt slot).flightMeets c.foot then .wait none
  else
    match c.instr with
    | .fetch _ d _ _ n _ _ _ _ disc rcmd _ => s.headFetch slot c [coreOf slot] [d] n.toNat (c.op 3) disc rcmd
    | .fetchT _ d _ _ n _ _ _ _ disc rcmd _ => s.headFetch slot c [coreOf slot] [d] n.toNat (c.op 3) disc rcmd
    | .fetchMc _ d _ _ n _ _ _ _ disc rcmd _ mc =>
      s.headFetch slot c (mcCores slot mc) (mcRegs d mc) n.toNat (c.op 3) disc rcmd
    | .fetchRf .. => s.headRefill slot c
    | .talloc _ d _ _ disc n =>
      s.headAlloc slot c [coreOf slot] [d] (BitVec.ofNat 64 c.td.tid)
        (fun ser => freshTile (s.slotAt slot) slot ser c.td n.toNat (c.op 1) (disc || c.td.disc) none) fun t c => .over_ t c
    | .tstore .. => s.headTstore slot c
    | .tcon .. => s.headTcon slot c
    | .trel .. => s.headTrel slot c
    | .tadj .. => s.headTadj slot c
    | .tsettle _ _ k => s.headTsettle slot c k
    | .tquery _ d _ sel => s.headTquery slot c d sel
    | .park _ d .. => s.headPark slot c d
    | .unpark _ d .. => s.headUnpark slot c d
    | .ccopy .. => s.headCcopy slot c
    | .cgath _ d _ _ n .. => s.headCgath slot c d n.toNat
    | .cscat .. => s.headCscat slot c
    | .btnext _ d k _ => s.headBtnext slot c d k
    | .dpost .. => s.headDpost slot c
    | .dcal _ d _ => s.headDcal slot c d
    | .drun .. => s.headDrun slot c
    | .dstat _ d _ sel => s.headDstat slot c d sel
    | .fred .. => s.headFred slot c
    | _ => .over_ s c

end Sys2Proof.Machine
end

