-- ==== Sys2Proof/Machine/CopyRun.lean ====
section
/-! DEFINITION. The lines of a copy as they move, in increasing order (R54, R56, R204, R207, R210, R215, R217, R47, R48),
and the finish of a copy. -/

namespace Sys2Proof.Machine

/-- How the next line of a copy comes out. -/
inductive Moved where
  | ok (s : State) (c : Cmd)
  | bad (b : Bad)
  | wait (cause : Option Nat)
  | void (pa : Nat)

def Part.moved {α : Type} (p : Part α) (f : α → Moved) : Moved :=
  match p with
  | .ok v => f v
  | .bad b => .bad b
  | .wait c => .wait (some c)
  | .void pa => .void pa

/-! ### Landing lines -/

/-- Element (`r`, `c`) of a tensor, PAD outside it (R204). -/
def State.elemOf (s : State) (asid : Nat) (td : TDesc) (r c : Nat) (u : Word) : Part Nat :=
  if !td.inside r c u then .ok td.pad
  else
    (s.copyWord asid (td.elemAddr r c u) (ceilDiv (elemBits td.fmt) 8)).bind fun v =>
      .ok (if td.fmt = 3 then bits v (4 * (c % 2)) 4 else v)

/-- Scale `b` of row `r` of a CB4 tensor (R204). -/
def State.scaleOf (s : State) (asid : Nat) (td : TDesc) (r b : Nat) (u : Word) : Part Nat :=
  if td.scaleIn r b u then s.copyWord asid (td.scaleAddr r b u) 2 else .ok 0

/-- Values of `w` bits side by side, the first lowest. -/
def packBits (w : Nat) : List Nat → Nat
  | [] => 0
  | v :: r => v % 2 ^ w + 2 ^ w * packBits w r

/-- Line `l` of a fetched tile (R207): data below 256, sidecar from 256 on. -/
def State.fetchLine (s : State) (asid : Nat) (td : TDesc) (tr : Bool) (r0 c0 : Nat) (u : Word) (l : Nat) :
    Part (BitVec 1024) :=
  let w := elemBits td.fmt
  let vals :=
    if l < 256 then
      let i := l / 2
      Part.each (fun j => if tr then s.elemOf asid td (r0 + j) (c0 + i) u else s.elemOf asid td (r0 + i) (c0 + j) u)
        (upto (1024 / w) (l % 2 * (1024 / w)))
    else
      Part.each (fun k => s.scaleOf asid td (r0 + 4 * (l - 256) + k / 16) (c0 / 32 + k % 16) u) (upto 64 0)
  vals.bind fun vs => .ok (BitVec.ofNat 1024 (packBits (if l < 256 then w else 16) vs))

/-- A line lands in every image of a copy, and counts in its group. -/
def State.landLine (s : State) (slot : Nat) (c : Cmd) (v : BitVec 1024) : State :=
  let t := c.handles.foldl (fun t h =>
    t.updTileOf h fun x => if x.serial = hSerial h then x.land c.done v else x) s
  t.updSlot slot fun k => k.landed (copyGroup c.instr) c.cgGen (128 * c.handles.length)

/-- The next line of a fetch of any form. -/
def State.moveFetch (s : State) (slot : Nat) (c : Cmd) (tr : Bool) (r0 c0 u : Word) : Moved :=
  (s.fetchLine (s.asidOf slot) c.td tr (bits r0.toNat 0 32) (bits c0.toNat 0 32) u c.done).moved fun v =>
    .ok (s.landLine slot c v) { c with done := c.done + 1 }

/-- A tile is under migration (R67). -/
def State.migrates (s : State) (h : Word) : Bool := (s.coreAt (hCore h)).ret.moving == some (hIndex h)

/-- The line of a tile that a copy reads, once it is full (R54). -/
def State.readLine (s : State) (h : Word) (l : Nat) (f : BitVec 1024 → Moved) : Moved :=
  if s.migrates h then .wait (some 5)
  else if (s.tileOf h).isFull l then f ((s.tileOf h).line l)
  else .wait none

/-! ### TSTORE -/

/-- One value to be stored: its address, its bytes, its bits and which of them are written. -/
structure Cell where
  va : Nat
  n : Nat
  v : Nat
  mask : Nat
deriving DecidableEq, Repr

/-- The values of line `l` of a tile that lie inside the tensor (R204, R210). -/
def storeCells (td : TDesc) (r0 c0 : Nat) (u : Word) (l : Nat) (line : BitVec 1024) : List Cell :=
  let w := elemBits td.fmt
  if 256 ≤ l then
    (upto 64 0).filterMap fun k =>
      let r := r0 + 4 * (l - 256) + k / 16
      let b := c0 / 32 + k % 16
      if td.scaleIn r b u then some ⟨td.scaleAddr r b u, 2, bits line.toNat (16 * k) 16, 0xFFFF⟩ else none
  else
    let r := r0 + l / 2
    (upto (1024 / w) 0).filterMap fun k =>
      let c := c0 + l % 2 * (1024 / w) + k
      let v := bits line.toNat (w * k) w
      if !td.inside r c u then none
      else if td.fmt = 3 then
        some ⟨td.elemAddr r c u, 1, v * 16 ^ (c % 2), 15 * 16 ^ (c % 2)⟩
      else some ⟨td.elemAddr r c u, w / 8, v, 2 ^ w - 1⟩

/-- Stores one value at the locations its access found. -/
def State.storeCell (s : State) (e : Cell) (bs : List (Nat × Leaf × Loc)) : State :=
  let old := leNat (bs.map fun b => s.homeByte b.2.2)
  let new := (BitVec.ofNat 64 old &&& ~~~(BitVec.ofNat 64 e.mask)) ||| (BitVec.ofNat 64 e.v &&& BitVec.ofNat 64 e.mask)
  s.setHomes ((bs.map fun b => b.2.2).zip (leBytes e.n new.toNat))

/-- The access of a value. -/
def State.cellAccess (s : State) (asid : Nat) (e : Cell) : Part (Cell × List (Nat × Leaf × Loc)) :=
  match s.copyAccess asid e.va e.n true with
  | .ok bs => .ok (e, bs)
  | .bad b => .bad b
  | .wait c => .wait c
  | .void pa => .void pa

/-- Every value is checked before any of the line is stored (R215). -/
def State.storeCells (s : State) (asid : Nat) (es : List Cell) : Part State :=
  (Part.each (s.cellAccess asid) es).bind fun xs => .ok (xs.foldl (fun t x => t.storeCell x.1 x.2) s)

def State.moveTstore (s : State) (slot : Nat) (c : Cmd) : Moved :=
  s.readLine (c.op 3) c.done fun line =>
    (s.storeCells (s.asidOf slot)
      (Machine.storeCells c.td (bits (c.opN 1) 0 32) (bits (c.opN 2) 0 32) (c.op 4) c.done line)).moved fun t =>
        .ok (t.updSlot slot fun k => k.landed (copyGroup c.instr) c.cgGen 128) { c with done := c.done + 1 }

/-! ### PARK and UNPARK -/

/-- The tin record of the next line of a `PARK` of a slot (DESIGN CHOICE, log 70). -/
def Slot.parkRecord (k : Slot) : Nat := k.tin.getD 0 + 0xA000 * k.tinFree.getD 0

def State.movePark (s : State) (slot : Nat) (c : Cmd) : Moved :=
  s.readLine (c.handles.headD 0) c.done fun line =>
    let rec_ := (s.slotAt slot).parkRecord
    (s.physReach (rec_ + 128 * c.done)).moved fun _ =>
      .ok ((s.wrTileLine rec_ c.done line).updSlot slot fun k => k.landed (copyGroup c.instr) c.cgGen 128)
        { c with done := c.done + 1 }

def State.moveUnpark (s : State) (slot : Nat) (c : Cmd) : Moved :=
  let rec_ := (s.slotAt slot).tin.getD 0 + 0xA000 * c.opN 0
  (s.physReach (rec_ + 128 * c.done)).moved fun _ =>
    .ok (s.landLine slot c (s.rdTileLine rec_ c.done)) { c with done := c.done + 1 }

/-! ### CCOPY -/

/-- The lines sent and not performed that wait for a memory link. -/
def State.sentFor (s : State) (link : Nat) : Nat :=
  sumOf (s.slots.map fun e => sumOf (e.2.carrying.map fun c =>
    ((upto c.owed c.done).filter fun l =>
      match s.translate e.2.task.asid (c.opN 0 + 128 * l) with
      | .ok lf => lf.tier == 0 && linkOf (lf.loc (c.opN 0 + 128 * l)).pa == link
      | .error _ => false).length))

/-- A line may leave for its destination: a retraining memory link holds up to 64 (R339 item 5). -/
def State.maySend (s : State) (l : Loc) : Option Nat :=
  match s.linkHolds l with
  | some (some 4) => if l.tier = 0 ∧ s.sentFor (linkOf l.pa) < 64 then none else some 4
  | some (some c) => some c
  | _ => none

/-- The bytes of a destination line by translation and permission alone: its links are `maySend`'s concern. -/
def State.destCheck (s : State) (asid va n : Nat) : Part (List (Nat × Leaf × Loc)) :=
  if 2 ^ 48 < va + n then .bad ⟨cXLATE, 8, BitVec.ofNat 64 va⟩
  else
    match s.transBytes asid (upto n va) with
    | .error (e, a) => .bad ⟨cXLATE, e, BitVec.ofNat 64 a⟩
    | .ok bs =>
      match firstRefused cPROT cpPr bs, s.peerDead bs, bs.findSome? fun b => s.maySend b.2.2 with
      | some b, _, _ => .bad b
      | _, some a, _ => .bad ⟨cREMOTE, 1, BitVec.ofNat 64 a⟩
      | _, _, some c => .wait c
      | _, _, _ =>
        if bs.any fun b => b.2.2.tier == 0 && decide (Config.moduleBytes ≤ b.2.2.pa) then .void va
        else if bs.any fun b => s.linkHolds b.2.2 == some none then .bad ⟨cDATA_LOST, 0, BitVec.ofNat 64 va⟩
        else .ok bs

/-- A copy sends its next line (R215): its bytes are read, marked where R218 says so, and held until the line is
performed. A copy that fails at a line has its earlier lines performed as a copy in flight (DEDUCED, log 37). -/
def State.moveCcopy (s : State) (slot : Nat) (c : Cmd) : Moved :=
  let asid := s.asidOf slot
  let p := linePart (c.opN 2) c.sent
  (s.destCheck asid (c.opN 0 + p.1) p.2).moved fun ds =>
    (s.copyOut asid (c.opN 1 + p.1) p.2 c.key (ds.any fun b => b.2.2.tier == 1 || b.2.2.tier == 3)).moved fun bs =>
      .ok (s.holdAll asid ds)
        { c with sent := c.sent + 1, buf := SMap.set c.buf 0 c.sent (BitVec.ofNat 1024 (leNat bs)) }

/-! ### CGATH and CSCAT -/

/-- The chain's entry `i`: address and length; none where the row is skipped (R216). `m` is the mask register's number. -/
def State.chainRow (s : State) (asid : Nat) (l rows : Word) (m : Reg) (m0 m1 : Word) (i : Nat) :
    Part (Option (Nat × Nat)) :=
  let skip := m != 0 && !(if i < 64 then m0.getLsbD i else m1.getLsbD (i - 64))
  if rows.toNat ≤ i ∨ skip then .ok none
  else
    (s.copyWord asid (l.toNat + 16 * i) 8).bind fun a =>
      (s.copyWord asid (l.toNat + 16 * i + 8) 8).bind fun b =>
        let n := bits b 0 9
        if 256 < n then .bad ⟨cILLEGAL, 0x0F, BitVec.ofNat 64 (l.toNat + 16 * i)⟩
        else .ok (if n = 0 then none else some (a, n))

/-- The bytes of a row that lie in its half `h` of 128 bytes: offset and length. -/
def halfPart (n h : Nat) : Nat × Nat := (128 * h, min 128 (n - 128 * h))

/-- Byte `p` of a row of PAD elements. -/
def padByte (td : TDesc) (p : Nat) : Byte := BitVec.ofNat 8 (bits td.pad (8 * (p % (elemBits td.fmt / 8))) 8)

/-- The next line of a gathered tile (R217). -/
def State.moveCgath (s : State) (slot : Nat) (c : Cmd) (m : Reg) : Moved :=
  let asid := s.asidOf slot
  let h := c.done % 2
  let pad := (upto 128 (128 * h)).map (padByte c.td)
  (s.chainRow asid (c.op 1) (c.op 2) m (c.op 3) (c.op 4) (c.done / 2)).moved fun row =>
    let bytes : Part (List Byte) := match row with
      | none => .ok []
      | some (a, n) => s.copyRead asid (a + (halfPart n h).1) (halfPart n h).2
    bytes.moved fun bs =>
      .ok (s.landLine slot c (BitVec.ofNat 1024 (leNat (bs ++ pad.drop bs.length)))) { c with done := c.done + 1 }

/-- The next line of a scattered tile (R217). -/
def State.moveCscat (s : State) (slot : Nat) (c : Cmd) (m : Reg) : Moved :=
  let asid := s.asidOf slot
  let h := c.done % 2
  let next := fun (t : State) =>
    Moved.ok (t.updSlot slot fun k => k.landed (copyGroup c.instr) c.cgGen 128) { c with done := c.done + 1 }
  (s.chainRow asid (c.op 1) (c.op 2) m (c.op 3) (c.op 4) (c.done / 2)).moved fun row =>
    match row with
    | none => next s
    | some (a, n) =>
      let p := halfPart n h
      if p.2 = 0 then next s
      else
        s.readLine (c.handles.headD 0) c.done fun line =>
          (s.copyWrite asid (a + p.1) (leBytes p.2 line.toNat)).moved next

/-! ### Every copy -/

/-- The lines a started entry moves in all (R54, R328). -/
def Cmd.total (c : Cmd) : Nat :=
  match c.instr with
  | .fetch .. | .fetchT .. | .fetchMc .. | .fetchRf .. | .tstore .. => if c.td.fmt = 3 then 288 else 256
  | .park .. | .unpark .. => 288
  | .ccopy .. => lineCount (c.opN 2)
  | .cgath .. | .cscat .. => 256
  | _ => 0

/-- A started entry has done all it does at the head (R10, R339). -/
def State.copyOver (s : State) (slot : Nat) (c : Cmd) : Bool :=
  match c.instr with
  | .ccopy .. => decide (c.total ≤ c.sent)
  | .drun .. => (s.xtagAt (s.keyOf slot c)).allEnded
  | .fred .. => s.fredEnded c
  | _ => decide (c.total ≤ c.done)

/-- The next line of a started entry. -/
def State.moveNext (s : State) (slot : Nat) (c : Cmd) : Moved :=
  match c.instr with
  | .fetch .. | .fetchMc .. => s.moveFetch slot c false (c.op 1) (c.op 2) (c.op 4)
  | .fetchT .. => s.moveFetch slot c true (c.op 1) (c.op 2) (c.op 4)
  | .fetchRf .. => s.moveFetch slot c false (c.op 2) (c.op 3) (c.op 4)
  | .tstore .. => s.moveTstore slot c
  | .park .. => s.movePark slot c
  | .unpark .. => s.moveUnpark slot c
  | .ccopy .. => s.moveCcopy slot c
  | .cgath _ _ _ _ _ _ m .. => s.moveCgath slot c m
  | .cscat _ _ _ _ m .. => s.moveCscat slot c m
  | _ => .wait none

/-- An entry re-runs the refill command of a discardable tile after a resume (R57). -/
def Cmd.isRefill (c : Cmd) : Bool :=
  c.waiting && match c.instr with
    | .fetch .. | .fetchT .. | .fetchMc .. => true
    | _ => false

/-- A refill that cannot complete raises no fault: its tile is VACATED (R57). -/
def State.refillFailed (s : State) (slot : Nat) (c : Cmd) : State :=
  let t := c.handles.foldl (fun t h =>
    t.updTileOf h fun x => if x.serial = hSerial h ∧ x.st = .filling then x.vacate else x) s
  t.updSlot slot fun k => (k.untag c.tags).dropHead .copy

/-- A fault of a moving copy (R201, R215): the lines sent go on as a copy in flight, and the entry is set aside at the
line that failed (DEDUCED, log 38). -/
def State.moveFault (s : State) (slot : Nat) (c : Cmd) (b : Bad) : State :=
  if c.isRefill then s.refillFailed slot c else
  let t :=
    if c.done < c.sent then
      s.updSlot slot fun k =>
        ({ k with flight := k.flight ++ [{ c with tags := 0 }] }).setHead .copy { c with done := c.sent, buf := [] }
    else s
  t.headFault slot .copy c b

/-- What the finish of an entry does beside its SIG (R47, R48, R115, R222, R225, R339). -/
def State.copyEnd (s : State) (slot : Nat) (c : Cmd) : State :=
  let untag := fun (t : State) => t.updSlot slot fun k => k.untag c.tags
  match c.instr with
  | .ccopy .. =>
    if c.done < c.sent then s.updSlot slot fun k => { k with flight := k.flight ++ [c] } else untag s
  | .park .. =>
    let h := c.handles.headD 0
    let k := s.slotAt slot
    let i := k.tinFree.getD 0
    let t := s.wrTileState k.parkRecord (s.tileOf h) h
    untag ((t.updTileOf h fun x => x.gone true).updSlot slot fun k => { k with tinUsed := SMap.set k.tinUsed false i true })
  | .unpark .. => untag (s.updSlot slot fun k => { k with tinUsed := SMap.set k.tinUsed false (c.opN 0) false })
  | .drun .. => untag (s.updXtag (s.keyOf slot c) fun x => { x with running := false, finished := true })
  | .fred .. => untag (s.updSlot slot fun k => k.landed (copyGroup c.instr) c.cgGen 64)
  | _ => untag s

end Sys2Proof.Machine
end

