-- ==== Sys2Proof/Machine/MatrixArith.lean ====
section
/-! DEFINITION. The arithmetic of the matrix engine: products and semirings (R80 to R87), drain conversions (R88, R89),
the running top-k (R241, R242) and the known answer (R243). -/

namespace Sys2Proof.Machine

/-! ### Steps of an accumulator element -/

/-- A value with the flags its computation sets. -/
abbrev Flagged := Nat × BitVec 8

/-- An operand of the matrix engine: a subnormal pattern reads as a zero of its sign and sets MSUB (R81). -/
def operand (v : Nat) : Fp × BitVec 8 :=
  if v / 128 % 256 = 0 ∧ v % 128 ≠ 0 then (.fin (v / 32768 % 2 == 1) 0 0, fMSUB) else (fp16 v, 0)

/-- The flags of a result of operands: MINV for a NaN from none, MOVF for an infinity from finite ones (R82). -/
def matFlags (ops : List Fp) (res : Nat) : BitVec 8 :=
  let r := fp32 res
  flagIf (r.isNan && ops.all fun x => !x.isNan) fMINV |||
    flagIf (!r.isNan && !r.isFin && ops.all Fp.isFin) fMOVF

/-- One step of a BF16 accumulation under a semiring (R84, R85). -/
def stepBf (sr : BitVec 3) (acc : Flagged) (a b : Fp × BitVec 8) : Flagged :=
  let x := fp32 acc.1
  let fl := acc.2 ||| a.2 ||| b.2
  match sr.toNat with
  | 1 =>
    let t := rne32 (Fp.add a.1 b.1)
    (rne32 (Fp.min x (fp32 t)), fl ||| matFlags [a.1, b.1] t)
  | 2 =>
    let t := rne32 (Fp.add a.1 b.1)
    (rne32 (Fp.max x (fp32 t)), fl ||| matFlags [a.1, b.1] t)
  | 3 =>
    let t := rne32 (Fp.mul a.1 b.1)
    (rne32 (Fp.max x (fp32 t)), fl ||| matFlags [a.1, b.1] t)
  | _ =>
    let t := rne32 (Fp.add x (Fp.mul a.1 b.1))
    (t, fl ||| matFlags [x, a.1, b.1] t)

/-- A BF16 accumulation in increasing k. -/
def dotBf (sr : BitVec 3) (acc : Nat) (as bs : List (Fp × BitVec 8)) : Flagged :=
  (as.zip bs).foldl (fun s p => stepBf sr s p.1 p.2) (acc, 0)

/-- An integer accumulation: exact products and a wrapped sum, or or-and (R84, R85). -/
def dotInt (sr : BitVec 3) (acc : Nat) (as bs : List Int) : Nat :=
  if sr = 4 then
    (as.zip bs).foldl (fun s p => if s ≠ 0 ∨ (p.1 ≠ 0 ∧ p.2 ≠ 0) then 1 else 0) acc
  else pat 32 (sgn 32 acc + (as.zip bs).foldl (fun (s : Int) p => s + p.1 * p.2) 0)

/-- A rounded FP32 sum of patterns with its flags. -/
def addF (a b : Flagged) : Flagged :=
  let r := fadd32 a.1 b.1
  (r, a.2 ||| b.2 ||| matFlags [fp32 a.1, fp32 b.1] r)

/-- An entry of the product table (R80). -/
def ptEntry (a b : Nat) : Flagged :=
  let x := operand a
  let y := operand b
  let r := rne32 (Fp.mul x.1 y.1)
  (r, x.2 ||| y.2 ||| matFlags [x.1, y.1] r)

/-- The value of a UE8M8 scale (R77). -/
def scaleVal (v : Nat) : Fp := if v / 256 % 256 = 0 then .fin false 0 0 else .fin false (256 + v % 256) ((v / 256 % 256 : Nat) - 135)

/-- The sum of the products of four code pairs (R84). -/
def quad (pt : Nat → Nat → Flagged) (as bs : List Nat) (k : Nat) : Flagged :=
  let p := fun q => pt (as.getD (k + q) 0) (bs.getD (k + q) 0)
  addF (addF (p 0) (p 1)) (addF (p 2) (p 3))

/-- A CB4 accumulation: 16 blocks of 32 codes (R84). -/
def dotCb (pt : Nat → Nat → Flagged) (acc : Nat) (as bs : List Nat) (sa sb : Nat → Nat) : Flagged :=
  (upto 16 0).foldl (fun (s : Flagged) b =>
    let t := (upto 8 0).foldl (fun (x : Flagged) c => addF x (quad pt as bs (32 * b + 4 * c))) (0, 0)
    let f := Fp.mul (scaleVal (sa b)) (scaleVal (sb b))
    let y := rne32 (Fp.mul (fp32 t.1) f)
    addF s (y, t.2 ||| matFlags [fp32 t.1, f] y)) (acc, 0)

/-! ### Rows of accumulators -/

/-- Row `i` of accumulator `n` of a slot as 128 patterns. -/
def Slot.accRow (k : Slot) (n i : Nat) : List Nat :=
  let v := (SMap.get k.acc 0 (128 * n + i)).toNat
  (upto 128 0).map fun j => bits v (32 * j) 32

def Slot.setAccRow (k : Slot) (n i : Nat) (v : List Nat) : Slot :=
  { k with acc := SMap.set k.acc 0 (128 * n + i) (BitVec.ofNat 4096 (packBits 32 v)) }

def Slot.accTagOf (k : Slot) (n : Nat) : AccTag := SMap.get k.accTag {} n
def Slot.setAccTag (k : Slot) (n : Nat) (t : AccTag) : Slot := { k with accTag := SMap.set k.accTag {} n t }

/-- Every row of an accumulator is replaced; the flags of all rows are set. -/
def Slot.mapAcc (k : Slot) (n : Nat) (f : Nat → List Nat → List Flagged) : Slot :=
  (upto 128 0).foldl (fun (x : Slot) i =>
    let r := f i (k.accRow n i)
    (x.setAccRow n i (r.map (·.1))).setFlags (r.foldl (fun m e => m ||| e.2) 0)) k

/-! ### Operands from tiles (R231) -/

/-- Row `i` of a tile as patterns. -/
def Tile.row (t : Tile) (i : Nat) : List Nat := (upto (tileCols t.fmt) 0).map (t.elem i)

/-- Column `j` of a BF16 tile, over k. -/
def Tile.col (t : Tile) (j : Nat) : List Nat := (upto 128 0).map fun k => t.elem k j

/-- B(k, j) over k. -/
def Tile.bCol (t : Tile) (tb : Bool) (j : Nat) : List Nat := if t.fmt = 2 ∧ !tb then t.col j else t.row j

/-- The integer value of an INT8 or UINT8 element. -/
def int8Val (fmt v : Nat) : Int := if fmt = 4 then sgn 8 v else v

/-- The codebook of a tile: of its tensor as its core's descriptor cache holds it, or as it was allocated (R231). -/
def State.bookOf (s : State) (h : Word) : BitVec 256 :=
  let t := s.tileOf h
  let c := s.coreAt (hCore h)
  let key := descKey t.asid t.tid
  if c.desc.any fun e => e.1 == key then (SMap.get c.desc {} key).cb else t.cb

def bookEntry (cb : BitVec 256) (c : Nat) : Nat := bits cb.toNat (16 * c) 16

/-- An `MMUL` on accumulator `n` (R237). -/
def State.multiply (s : State) (slot : Nat) (cfg : MCfg) (n : Nat) (ha hb : Word) (tb : Bool) : State :=
  let ta := s.tileOf ha
  let tbl := s.tileOf hb
  let f : Nat → List Nat → List Flagged :=
    if cfg.fa = 3 then
      let ca := s.bookOf ha
      let cb := s.bookOf hb
      let pt := fun a b => ptEntry (bookEntry ca a) (bookEntry cb b)
      fun i row => (row.zip (upto 128 0)).map fun e => dotCb pt e.1 (ta.row i) (tbl.row e.2) (ta.scale i) (tbl.scale e.2)
    else if cfg.fa = 2 then
      fun i row =>
        let a := (ta.row i).map operand
        (row.zip (upto 128 0)).map fun e => dotBf cfg.sr e.1 a ((tbl.bCol tb e.2).map operand)
    else
      fun i row =>
        let a := (ta.row i).map (int8Val cfg.fa.toNat)
        (row.zip (upto 128 0)).map fun e => (dotInt cfg.sr e.1 a ((tbl.row e.2).map (int8Val cfg.fb.toNat)), 0)
  s.updSlot slot fun k => k.mapAcc n f

/-- A rounding to BF16 in the matrix engine, with MOVF where a finite value became an infinity (R82). -/
def matBf16 (v : Nat) : Flagged :=
  let r := rne 7 (fp32 v)
  (r.bits, flagIf r.over_ fMOVF)

/-- An operand chained from an FP32 accumulator (R86). -/
def chained (v : Nat) : Fp × BitVec 8 :=
  let r := matBf16 v
  let x := operand r.1
  (x.1, x.2 ||| r.2)

/-- An `MMULC` (R238). -/
def State.multiplyChain (s : State) (slot : Nat) (sr : BitVec 3) (d src : Nat) (hb : Word) (tb : Bool) : State :=
  let t := s.tileOf hb
  s.updSlot slot fun k =>
    k.mapAcc d fun i row =>
      let a := (k.accRow src i).map chained
      (row.zip (upto 128 0)).map fun e => dotBf sr e.1 a ((t.bCol tb e.2).map operand)

/-- The Sylvester sign (R87). -/
def sylvester (k j : Nat) : Fp × BitVec 8 := (.fin ((BitVec.ofNat 7 k &&& BitVec.ofNat 7 j).cpop.toNat % 2 == 1) 1 0, 0)

/-- An `MROT` (R87, R238). -/
def Slot.rotate (k : Slot) (d src : Nat) : Slot :=
  k.mapAcc d fun i row =>
    let a := (k.accRow src i).map chained
    (row.zip (upto 128 0)).map fun e => dotBf 0 e.1 a ((upto 128 0).map fun x => sylvester x e.2)

/-! ### Drain conversions (R88, R89) -/

/-- `y` of R88, after the drain scale, with the flags of the multiplication (R82; DEDUCED, log 31). -/
def drainY (int : Bool) (x sigma : Nat) : Flagged :=
  let v := fp32 (if int then rne32 (fpInt (sgn 32 x)) else x)
  let y := rne32 (Fp.mul v (fp32 sigma))
  (y, matFlags [v, fp32 sigma] y)

/-- The range of an integer format. -/
def intRange (fmt : Nat) : Int × Int :=
  match fmt with
  | 4 => (-128, 127)
  | 5 => (0, 255)
  | 6 => (-32768, 32767)
  | _ => (-2147483648, 2147483647)

/-- A drained FP32 value converted to an integer format, with DSAT. -/
def drainInt (fmt : Nat) (y : Flagged) : Flagged :=
  let r := satInt (fp32 y.1) (intRange fmt).1 (intRange fmt).2
  (pat (elemBits fmt) r.1, y.2 ||| flagIf r.2 fDSAT)

/-- An accumulator element converted to a format other than CB4, with its flags (DEDUCED, log 31). -/
def drainConv (int : Bool) (fmt x sigma : Nat) : Flagged :=
  match fmt with
  | 1 => drainY int x sigma
  | 2 =>
    let y := drainY int x sigma
    let r := matBf16 y.1
    (r.1, y.2 ||| r.2)
  | f =>
    if int then
      let r := clampInt (sgn 32 x) (intRange f).1 (intRange f).2
      (pat (elemBits f) r.1, flagIf r.2 fDSAT)
    else drainInt f (drainY int x sigma)

/-- The magnitude of a value. -/
def Fp.abs : Fp → Fp
  | .nan => .nan
  | .inf _ => .inf false
  | .fin _ m e => .fin false m e

/-- The largest of a list of magnitudes. -/
def maxAbs (l : List Fp) : Fp := l.foldl (fun m x => if Fp.lt m x.abs then x.abs else m) (.fin false 0 0)

/-- The smallest UE8M8 value at or above `m / e`, if there is one (R89). -/
def ceilScale (m e : Fp) : Option Nat :=
  let big := fun (s : Nat) => !Fp.lt (Fp.mul (scaleVal s) e) m
  match (upto 254 1).find? fun x => big (x * 256 + 255) with
  | none => none
  | some x => ((upto 256 0).find? fun f => big (x * 256 + f)).map fun f => x * 256 + f

/-- The code nearest to `y / s`, ties to the lower (R89). -/
def nearestCode (book : List Fp) (y : Fp) (s : Nat) : Nat :=
  let t := if s = 0 then .fin false 0 0 else y
  let dist := fun (c : Fp) => (Fp.add t (Fp.neg (if s = 0 then c else Fp.mul c (scaleVal s)))).abs
  ((book.zip (upto book.length 0)).foldl (fun (best : Option (Fp × Nat)) e =>
    match best with
    | none => some (dist e.1, e.2)
    | some b => if Fp.lt (dist e.1) b.1 then some (dist e.1, e.2) else some b) none).elim 0 (·.2)

/-- A block of 32 values quantised: its codes, its scale, and the flags. -/
def drainBlock (book : List (Fp × BitVec 8)) (ys : List Nat) : List Nat × Nat × BitVec 8 :=
  let vs := ys.map fp32
  let cb := book.map (·.1)
  let fl := book.foldl (fun m e => m ||| e.2) 0
  let m := maxAbs vs
  let e := maxAbs cb
  let zero := fun (x : Fp) => Fp.eq x (.fin false 0 0)
  let r : Nat × BitVec 8 :=
    if vs.any fun x => !x.isFin then (0, fDSAT)
    else if zero m ∨ zero e then (0, 0)
    else match ceilScale m e with
      | some s => (s, 0)
      | none => (0xFEFF, fDSAT)
  (vs.map fun y => nearestCode cb (if y.isFin then y else .fin false 0 0) r.1, r.1, fl ||| r.2)

/-! ### Writing drained rows into a tile -/

/-- Elements of `w` bits put at element `e0` of row `i`. -/
def Tile.putElems (t : Tile) (i e0 w : Nat) (vs : List Nat) : Tile :=
  (vs.zip (upto vs.length e0)).foldl (fun x v =>
    let bit0 := v.2 * w
    if w = 4 then
      let old := bits (x.line (2 * i + bit0 / 1024)).toNat (bit0 % 1024 / 8 * 8) 8
      let b := if v.2 % 2 = 0 then old / 16 * 16 + v.1 % 16 else v.1 % 16 * 16 + old % 16
      x.put (256 * i + bit0 / 8) 1 b
    else x.put (256 * i + bit0 / 8) (w / 8) v.1) t

/-- The lines a drain of a PART fills (R240). -/
def drainLines (fmt part : Nat) (drained : BitVec 4) : List Nat :=
  match fmt with
  | 4 | 5 => (upto 128 0).map fun i => 2 * i + part
  | 3 =>
    let m := part / 2
    (if drained.getLsbD (2 * m) && drained.getLsbD (2 * m + 1) then (upto 128 0).map fun i => 2 * i + m else []) ++
      (if drained = 0xF then upto 32 256 else [])
  | _ => upto 256 0

/-- `MDRAIN` on its tile (R240): the tile and the flags. -/
def Tile.drain (t : Tile) (k : Slot) (book : BitVec 256) (n fmt part sigma : Nat) : Tile × BitVec 8 :=
  let int := (k.accTagOf n).int
  let r := (upto 128 0).foldl (fun (acc : Tile × BitVec 8) i =>
    let row := k.accRow n i
    if fmt = 3 then
      let bk := (upto 16 0).map fun c => operand (bookEntry book c)
      (upto 4 0).foldl (fun (a : Tile × BitVec 8) b =>
        let ys := ((row.drop (32 * b)).take 32).map fun x => drainY int x sigma
        let q := drainBlock bk (ys.map (·.1))
        ((a.1.putElems i (128 * part + 32 * b) 4 q.1).put (32768 + 32 * i + 2 * (4 * part + b)) 2 q.2.1, ys.foldl (fun m e => m ||| e.2) (a.2 ||| q.2.2))) acc
    else
      let src := if fmt = 1 ∨ fmt = 7 then (row.drop (64 * part)).take 64 else row
      let q := src.map fun x => drainConv int fmt x sigma
      let e0 := if fmt = 4 ∨ fmt = 5 then 128 * part else 0
      (acc.1.putElems i e0 (elemBits fmt) (q.map (·.1)), q.foldl (fun m e => m ||| e.2) acc.2)) (t, 0)
  let d := r.1.drained ||| BitVec.twoPow 4 part
  (({ r.1 with drained := d }).markFull (drainLines fmt part d), r.2)

/-! ### Top-k (R241, R242) -/

/-- `x` ranks ahead of `y` (R241). -/
def ranksBefore (x y : Lane × Lane) : Bool :=
  let a := fp32 x.1.toNat
  let b := fp32 y.1.toNat
  if a.isNan && b.isNan then x.2.ult y.2
  else if a.isNan then false
  else if b.isNan then true
  else if Fp.lt b a then true
  else if Fp.lt a b then false
  else if a.sign != b.sign then b.sign
  else x.2.ult y.2

/-- A candidate put into a ranked list, after those that do not rank behind it, and the list cut to `k`. -/
def rankInsert (k : Nat) (l : List (Lane × Lane)) (c : Lane × Lane) : List (Lane × Lane) :=
  (l.takeWhile (fun e => !ranksBefore c e) ++ c :: l.dropWhile (fun e => !ranksBefore c e)).take k

/-- `MTOPK` on the rows of a slot. -/
def Slot.topRows (k : Slot) (n base : Nat) (t : TopK) : TopK :=
  { t with rows := (upto 128 0).foldl (fun m i =>
      let cand := ((k.accRow n i).zip (upto 128 0)).map fun e =>
        ((BitVec.ofNat 32 e.1 : Lane), (BitVec.ofNat 32 (base + e.2) : Lane))
      SMap.set m [] i (cand.foldl (rankInsert t.k) (SMap.get m [] i))) t.rows }

/-- An entry as `MTOPKRD` gives it. -/
def topEntry : Option (Lane × Lane) → Nat
  | some e => e.1.toNat + e.2.toNat * 2 ^ 32
  | none => 0xFFFFFFFFFF800000

/-- The entry of a rank of a row. -/
def TopK.read (t : TopK) (row rank : Nat) : Nat := topEntry (if rank < t.k then (SMap.get t.rows [] row)[rank]? else none)

/-- `MTOPKRD.t` on its tile (R242). -/
def Tile.topFill (t : Tile) (k : TopK) : Tile :=
  ((upto 128 0).foldl (fun x i =>
    let v := packBits 64 ((upto 8 0).map (k.read i))
    { x with lines := SMap.set (SMap.set x.lines 0 (2 * i) (BitVec.ofNat 1024 v)) 0 (2 * i + 1) 0 }) t).markFull (upto 256 0)

/-! ### MKAT (R243) -/

/-- One step of the generator: the state after it, and the integer it gives. -/
def katStep (x : Word) : Word :=
  let x := x ^^^ (x <<< 13)
  let x := x ^^^ (x >>> 7)
  x ^^^ (x <<< 17)

def katVal (x : Word) : Int := (bits x.toNat 0 4 : Int) - 8

/-- The next `n` values of the generator, and its state after them. -/
def katValues : Nat → Word → List Int × Word
  | 0, x => ([], x)
  | n + 1, x =>
    let y := katStep x
    let r := katValues n y
    (katVal y :: r.1, r.2)

/-- The rows of a list of 128 × 128 values. -/
def rows128 (l : List Int) : List (List Int) := (upto 128 0).map fun i => (l.drop (128 * i)).take 128

/-- The signature of a seed. -/
def katSignature (seed : Nat) : Word :=
  let x := BitVec.ofNat 64 (seed * 0x9E3779B97F4A7C15 + 0x6A09E667F3BCC909)
  let a := katValues 16384 x
  let b := (katValues 16384 a.2).1
  let br := rows128 b
  let cols := (upto 128 0).map fun j => br.map fun r => r.getD j 0
  (rows128 a.1).foldl (fun s ra =>
    cols.foldl (fun (s : Word) c =>
      let v := (ra.zip c).foldl (fun (t : Int) p => t + p.1 * p.2) 0
      s.rotateLeft 1 ^^^ BitVec.ofNat 64 (rne32 (fpInt v))) s) 0

end Sys2Proof.Machine
end

