-- ==== Sys2Proof/Machine/Matrix.lean ====
section
/-! DEFINITION. The matrix engine: the issue of its instructions (R230), their head checks, and what they do when they run
(R232, R235 to R244). -/

namespace Sys2Proof.Machine

/-! ### Issue (R230) -/

/-- SHAPE: an accumulator at or above the GRANT (R61, R229); `%fault.addr` is its number (R245). -/
def Slot.noAcc (k : Slot) : List Reg → Option Bad
  | [] => none
  | n :: r => if k.grantA ≤ n.toNat then some ⟨cSHAPE, 0, n.setWidth 64⟩ else k.noAcc r

/-- A matrix instruction issues: `accs` are the accumulators it names, `gs` the registers whose values it carries. -/
def State.issueMatrix (s : State) (i : Instr) (h : Hdr) (accs gs : List Reg) : Out :=
  let o := Instr.engOut i
  s.issueEng .matrix h (gs ++ o.gs) o.p o.gs o.p fun t =>
    match t.me.noAcc accs with
    | some b => .bad b
    | none => .cmd t (t.mkCmd i (gs.map t.rg))

/-- MSET (R235). -/
def execMset (h : Hdr) (fa fb : BitVec 4) (sr : BitVec 3) (s : State) : Out := s.issueMatrix (.mset h fa fb sr) h [] []
/-- MZERO (R236). -/
def execMzero (h : Hdr) (n : Reg) (disc : Bool) (s : State) : Out := s.issueMatrix (.mzero h n disc) h [n] []
/-- MSTART (R232, R236). -/
def execMstart (h : Hdr) (s : State) : Out := s.issueMatrix (.mstart h) h [] []
/-- MMUL (R237). -/
def execMmul (h : Hdr) (a b n : Reg) (tb : Bool) (s : State) : Out := s.issueMatrix (.mmul h a b n tb) h [n] [a, b]
/-- MMULC (R238). -/
def execMmulc (h : Hdr) (d e b : Reg) (tb : Bool) (s : State) : Out := s.issueMatrix (.mmulc h d e b tb) h [d, e] [b]
/-- MROT (R238). -/
def execMrot (h : Hdr) (d e : Reg) (s : State) : Out := s.issueMatrix (.mrot h d e) h [d, e] []
/-- MDRAIN (R239, R240). -/
def execMdrain (h : Hdr) (hd n : Reg) (fmt : BitVec 4) (part : BitVec 2) (sigma : BitVec 32) (s : State) : Out :=
  s.issueMatrix (.mdrain h hd n fmt part sigma) h [n] [hd]
/-- MTOPK (R241). -/
def execMtopk (h : Hdr) (n c : Reg) (k : BitVec 3) (clr : Bool) (s : State) : Out :=
  s.issueMatrix (.mtopk h n c k clr) h [n] [c]
/-- MTOPKRD (R242). -/
def execMtopkrd (h : Hdr) (d i : Reg) (s : State) : Out := s.issueMatrix (.mtopkrd h d i) h [] [i]
/-- MTOPKRD_T (R242). -/
def execMtopkrdT (h : Hdr) (hd : Reg) (s : State) : Out := s.issueMatrix (.mtopkrdT h hd) h [] [hd]
/-- MKAT (R243). -/
def execMkat (h : Hdr) (seed : BitVec 16) (slo shi : BitVec 32) (s : State) : Out :=
  s.issueMatrix (.mkat h seed slo shi) h [] []
/-- MACC (R244). -/
def execMacc (h : Hdr) (d e : Reg) (add : Bool) (s : State) : Out := s.issueMatrix (.macc h d e add) h [d, e] []
/-- MLDACC (R244). -/
def execMldacc (h : Hdr) (n hd : Reg) (half : Bool) (s : State) : Out := s.issueMatrix (.mldacc h n hd half) h [n] [hd]
/-- MSTACC (R244). -/
def execMstacc (h : Hdr) (n hd : Reg) (half : Bool) (s : State) : Out := s.issueMatrix (.mstacc h n hd half) h [n] [hd]

/-! ### Head checks -/

/-- The accumulator TYPE a configuration needs: INT32 for the integer pairs (R235). -/
def MCfg.int (c : MCfg) : Bool := c.fa == 4 || c.fa == 5

/-- A list of checks, the first that fails decides. -/
def firstBadOf : List (Option Bad) → Option Bad
  | [] => none
  | some b :: _ => some b
  | none :: r => firstBadOf r

/-- A check as a fault where it fails. -/
def check (ok : Bool) (b : Bad) : Option Bad := if ok then none else some b

/-- The tile a command writes whole or in part (R240): its handle, VACATED, its state. -/
def State.checkTarget (s : State) (slot : Nat) (h : Word) : Option Bad :=
  firstBadOf [s.checkTile slot h, s.notVacated h]

/-- The tile a matrix command reads as an operand of a format. -/
def State.checkOperand (s : State) (slot : Nat) (h : Word) : Option Bad := firstBadOf [s.checkTile slot h, s.notVacated h]

def accWord (n : Reg) : Word := n.setWidth 64

/-- A command in an open window is retained, unless it would be the 65th (R232). -/
def Slot.retainBad (k : Slot) (n : Word) : Option Bad :=
  check (!(k.win.opened && decide (64 ≤ k.win.retained.length))) ⟨cILLEGAL, 0x11, n⟩

/-- Retains a command in the open window. -/
def Slot.retain (k : Slot) (c : Cmd) : Slot :=
  if k.win.opened then { k with win := { k.win with retained := k.win.retained ++ [c] } } else k

/-- The sidecar lines of a CB4 tile are full. -/
def Tile.sidecarFull (t : Tile) : Bool := t.allFull (upto 32 256)

/-- A reserved scale in a CB4 tile (R77). -/
def Tile.badScale (t : Tile) : Bool := (upto 128 0).any fun r => (upto 16 0).any fun b => t.scale r b / 256 == 255

/-- Reserves operand reads for an open window; none where one is refused, its withdrawals made (R237). -/
def State.reserveAll (s : State) (slot : Nat) : List Word → Option State
  | [] => some s
  | h :: r =>
    match s.reserveTile slot h with
    | none => none
    | some (t, ch) =>
      (t.updSlot slot fun k => { k with win := { k.win with charges := k.win.charges ++ ch } }).reserveAll slot r

/-- The first of several handles whose reservation is refused. -/
def State.refusedHandle (s : State) (slot : Nat) : List Word → Word
  | [] => 0
  | h :: r =>
    match s.reserveTile slot h with
    | none => h
    | some (t, _) => t.refusedHandle slot r

/-- A command starts: retained where a window is open. -/
def State.startMatrix (s : State) (slot : Nat) (c : Cmd) : Head := .runs (s.updSlot slot fun k => k.retain c) c

/-- The common head of the products: `hs` are the tiles read, `cbs` those whose sidecars are checked. -/
def State.headProduct (s : State) (slot : Nat) (c : Cmd) (bad : Option Bad) (hs cbs : List Word) : Head :=
  match bad with
  | some b => .bad b
  | none =>
    if !cbs.all fun h => (s.tileOf h).sidecarFull then .wait none
    else
      match cbs.find? fun h => (s.tileOf h).badScale with
      | some h => .bad ⟨cFORMAT, 3, h⟩
      | none =>
        match s.reserveAll slot hs with
        | none => .bad ⟨cTILE_GONE, 3, s.refusedHandle slot hs⟩
        | some t => t.startMatrix slot { c with handles := hs }

/-- A window is open (R232). -/
def Slot.inWindow (k : Slot) (n : Reg) : Option Bad := check k.win.opened ⟨cILLEGAL, 0x10, accWord n⟩

def State.headMmul (s : State) (slot : Nat) (c : Cmd) (n : Reg) : Head :=
  let k := s.slotAt slot
  let ha := c.op 0
  let hb := c.op 1
  let bad := firstBadOf [k.inWindow n, s.checkOperand slot ha, s.checkOperand slot hb,
    check ((s.tileOf ha).fmt == k.cfg.fa.toNat) ⟨cFORMAT, 1, ha⟩, check ((s.tileOf hb).fmt == k.cfg.fb.toNat) ⟨cFORMAT, 1, hb⟩,
    check ((k.accTagOf n.toNat).int == k.cfg.int) ⟨cFORMAT, 4, accWord n⟩, k.retainBad (accWord n)]
  s.headProduct slot c bad [ha, hb] (if k.cfg.fa = 3 then [ha, hb] else [])

def State.headMmulc (s : State) (slot : Nat) (c : Cmd) (d e : Reg) : Head :=
  let k := s.slotAt slot
  let hb := c.op 0
  let bad := firstBadOf [k.inWindow d, s.checkOperand slot hb,
    check ((s.tileOf hb).fmt == k.cfg.fb.toNat) ⟨cFORMAT, 1, hb⟩,
    check (!(k.accTagOf e.toNat).int && k.cfg.fb == 2 && k.cfg.sr != 4) ⟨cFORMAT, 1, accWord e⟩,
    check (!(k.accTagOf d.toNat).int) ⟨cFORMAT, 4, accWord d⟩, k.retainBad (accWord d)]
  s.headProduct slot c bad [hb] []

def State.headMrot (s : State) (slot : Nat) (c : Cmd) (d e : Reg) : Head :=
  let k := s.slotAt slot
  let bad := firstBadOf [k.inWindow d, check (!(k.accTagOf e.toNat).int) ⟨cFORMAT, 1, accWord e⟩,
    check (!(k.accTagOf d.toNat).int) ⟨cFORMAT, 4, accWord d⟩, k.retainBad (accWord d)]
  s.headProduct slot c bad [] []

/-- A command whose head checks come out starts, with the tile it works on. -/
def State.headPlain (s : State) (slot : Nat) (c : Cmd) (hs : List Word) (bads : List (Option Bad)) : Head :=
  match firstBadOf (bads ++ [(s.slotAt slot).retainBad 0]) with
  | some b => .bad b
  | none => s.startMatrix slot { c with handles := hs }

/-- The column base of `MTOPK` (R241). -/
def topBase (v : Word) : Nat := bits v.toNat 0 32

/-- What the head entry of a slot's matrix queue does when it starts (R230). -/
def State.matrixHead (s : State) (slot : Nat) (c : Cmd) : Head :=
  let k := s.slotAt slot
  let h := c.op 0
  if c.charged then .runs s { c with handles := c.ops.take (match c.instr with
    | .mmul .. => 2
    | .mmulc .. | .mldacc .. => 1
    | _ => 0) }
  else
    match c.instr with
    | .mmul _ _ _ n _ => s.headMmul slot c n
    | .mmulc _ d e _ _ => s.headMmulc slot c d e
    | .mrot _ d e => s.headMrot slot c d e
    | .mstart _ =>
      if k.win.opened then .bad ⟨cILLEGAL, 0x12, 0⟩
      else
        .runs (s.updSlot slot fun k => { k with win := { opened := true, retained := [c], cfg := k.cfg, topk := k.topk } }) c
    | .mdrain _ _ _ fmt _ _ =>
      s.headPlain slot c [h] [s.checkTarget slot h, check ((s.tileOf h).fmt == fmt.toNat) ⟨cFORMAT, 1, h⟩]
    | .mtopk _ n _ kk clr =>
      s.headPlain slot c [] [check (clr || k.topk.k == kk.toNat + 1) ⟨cILLEGAL, 0x0F, accWord n⟩,
        check (!(k.accTagOf n.toNat).int) ⟨cFORMAT, 4, accWord n⟩,
        check (decide (topBase h ≤ 2 ^ 32 - 129)) ⟨cILLEGAL, 0x0F, accWord n⟩]
    | .mtopkrdT .. =>
      s.headPlain slot c [h] [s.checkTarget slot h,
        check ((s.tileOf h).fmt == 1 || (s.tileOf h).fmt == 7) ⟨cFORMAT, 1, h⟩]
    | .macc _ d e add =>
      s.headPlain slot c [] [check (!add || (k.accTagOf d.toNat).int == (k.accTagOf e.toNat).int) ⟨cFORMAT, 4, accWord d⟩]
    | .mldacc _ _ _ _ =>
      s.headPlain slot c [h] [s.checkTarget slot h,
        check ((s.tileOf h).fmt == 1 || (s.tileOf h).fmt == 7) ⟨cFORMAT, 1, h⟩]
    | .mstacc _ n _ _ =>
      s.headPlain slot c [h] [s.checkTarget slot h,
        check ((s.tileOf h).fmt == if (k.accTagOf n.toNat).int then 7 else 1) ⟨cFORMAT, 1, h⟩]
    | .mkat .. => .runs s c
    | _ => s.headPlain slot c [] []

/-! ### What a command does -/

/-- The identity of a semiring (R85). -/
def identityOf (c : MCfg) : Nat :=
  match c.sr.toNat with
  | 1 => 0x7F800000
  | 2 | 3 => 0xFF800000
  | _ => 0

/-- The elements of `MACC` with ADD (R244). -/
def accAdd (int : Bool) (a b : Nat) : Flagged :=
  if int then ((a + b) % 2 ^ 32, 0)
  else
    let r := fadd32 a b
    (r, matFlags [fp32 a, fp32 b] r)

/-- A mismatch of `MKAT` (R243): asynchronous, and the core is suspect; a second time within 24 hours quarantines it
(R356). -/
def State.katFailed (s : State) (slot : Nat) (c : Cmd) (sig : Word) : State :=
  let core := coreOf slot
  let q := s.coreAt core
  let again := match q.suspectAt with
    | some t => decide (s.time.toNat - t.toNat < 86400000000000)
    | none => false
  let t := (s.updCore core fun q =>
    { q with katFail := if q.katFail = 255 then 255 else q.katFail + 1, health := if again then 2 else 1,
             suspectAt := some s.time }).raise slot
      { cause := cKAT, addr := sig, pc := c.pc, source := 3, async := true, itag := c.hdr.itag }
  if again && !t.quarantined.contains core then { t with quarantined := t.quarantined ++ [core] } else t

/-- The lines of a command's operand tiles are full, and none migrates (R54, R67, R237). -/
def State.operandsReady (s : State) (c : Cmd) : Bool :=
  let lines := fun (h : Word) => if (s.tileOf h).fmt = 3 then upto 288 0 else upto 256 0
  match c.instr with
  | .mmul .. | .mmulc .. | .mldacc .. => c.handles.all fun h => (s.tileOf h).allFull (lines h) && !s.migrates h
  | .mdrain .. | .mstacc .. | .mtopkrdT .. => c.handles.all fun h => !s.migrates h
  | _ => true

/-- The computation of a command on accumulators, CONFIG and TOPK (R235 to R244): what a replay repeats. -/
def State.matrixCompute (s : State) (slot : Nat) (c : Cmd) : State :=
  let k := s.slotAt slot
  match c.instr with
  | .mset _ fa fb sr => s.updSlot slot fun k => { k with cfg := ⟨fa, fb, sr⟩ }
  | .mzero _ n disc =>
    s.updSlot slot fun k =>
      (k.mapAcc n.toNat fun _ r => r.map fun _ => (identityOf k.cfg, 0)).setAccTag n.toNat { int := k.cfg.int, disc := disc }
  | .mmul _ _ _ n tb => s.multiply slot k.cfg n.toNat (c.op 0) (c.op 1) tb
  | .mmulc _ d e _ tb => s.multiplyChain slot k.cfg.sr d.toNat e.toNat (c.op 0) tb
  | .mrot _ d e => s.updSlot slot fun k => k.rotate d.toNat e.toNat
  | .mtopk _ n _ kk clr =>
    s.updSlot slot fun k =>
      { k with topk := k.topRows n.toNat (topBase (c.op 0)) (if clr then { k := kk.toNat + 1 } else k.topk) }
  | .macc _ d e add =>
    s.updSlot slot fun k =>
      if add then
        k.mapAcc d.toNat fun i r => (r.zip (k.accRow e.toNat i)).map fun x => accAdd (k.accTagOf d.toNat).int x.1 x.2
      else
        (k.mapAcc d.toNat fun i _ => (k.accRow e.toNat i).map fun v => (v, 0)).setAccTag d.toNat
          { int := (k.accTagOf e.toNat).int, disc := false }
  | .mldacc _ n _ half =>
    let t := s.tileOf (c.op 0)
    s.updSlot slot fun k =>
      (k.mapAcc n.toNat fun i r =>
        let new := (upto 64 0).map (t.elem i)
        (if half then r.take 64 ++ new else new ++ r.drop 64).map fun v => (v, 0)).setAccTag n.toNat
          { int := t.fmt == 7, disc := false }
  | _ => s

/-- The commit of a window at the `MDRAIN` that closes it (R232, R240). -/
def State.closeWindow (s : State) (slot : Nat) : State :=
  let w := (s.slotAt slot).win
  if w.opened then (s.commit w.charges).updSlot slot fun k => { k with win := {} } else s

/-- The writes of a command to tiles, `g` registers and faults, which a replay does not repeat (R233). -/
def State.matrixOutput (s : State) (slot : Nat) (c : Cmd) : State :=
  let k := s.slotAt slot
  let h := c.op 0
  match c.instr with
  | .mdrain _ _ n fmt part sigma =>
    let r := (s.tileOf h).drain k (s.bookOf h) n.toNat fmt.toNat part.toNat sigma.toNat
    ((s.updTileOf h fun _ => r.1).updSlot slot fun k => k.setFlags r.2).closeWindow slot
  | .mtopkrd _ d _ =>
    let i := (c.op 0).toNat
    s.updSlot slot fun k => k.deliver .matrix d (BitVec.ofNat 64 (k.topk.read (bits i 0 7) (bits i 8 3)))
  | .mtopkrdT .. => s.updTileOf h fun t => t.topFill k.topk
  | .mstacc _ n _ half =>
    s.updTileOf h fun t =>
      ((upto 128 0).foldl (fun x i =>
        x.putElems i 0 32 (((k.accRow n.toNat i).drop (if half then 64 else 0)).take 64)) t).markFull (upto 256 0)
  | .mkat _ seed slo shi =>
    let sig := katSignature seed.toNat
    if sig = shi ++ slo then s else s.katFailed slot c sig
  | _ => s

/-- A started command runs whole once its operand lines are there. -/
def State.matrixRun (s : State) (slot : Nat) (c : Cmd) : Option State :=
  if s.operandsReady c then some ((s.matrixCompute slot c).matrixOutput slot c) else none

end Sys2Proof.Machine
end

