-- ==== Sys2Proof/Machine/VectorArith.lean ====
section
/-! DEFINITION. The arithmetic of one lane of the vector engine: R90 to R93, R252 to R260. A lane is a pattern of 32 bits,
written as a natural number. -/

namespace Sys2Proof.Machine

/-! ### Floating-point lanes (R90, R91, R252) -/

/-- The flags of a rounded result of operands (R82): VINV, VOVF, VUNF. -/
def vecFlags (ops : List Fp) (nanRes : Bool) (f : Nat) (r : Rounded) : BitVec 8 :=
  flagIf (nanRes && ops.all fun x => !x.isNan) fVINV ||| flagIf r.over_ fVOVF |||
    flagIf (r.inexact && !r.over_ && r.bits / 2 ^ f % 256 == 0) fVUNF

/-- The exact value `x` of a computation on `ops`, rounded by `RNE32`. -/
def vecRound (ops : List Fp) (x : Fp) : Flagged :=
  let r := rne 23 x
  (r.bits, vecFlags ops x.isNan 23 r)

def laneAdd (a b _ : Nat) : Flagged := vecRound [fp32 a, fp32 b] (Fp.add (fp32 a) (fp32 b))
def laneSub (a b _ : Nat) : Flagged := vecRound [fp32 a, fp32 b] (Fp.add (fp32 a) (fp32 b).neg)
def laneMul (a b _ : Nat) : Flagged := vecRound [fp32 a, fp32 b] (Fp.mul (fp32 a) (fp32 b))
def laneMin (a b _ : Nat) : Flagged := (rne32 (Fp.min (fp32 a) (fp32 b)), 0)
def laneMax (a b _ : Nat) : Flagged := (rne32 (Fp.max (fp32 a) (fp32 b)), 0)

/-- `VFMA` and `VFMA.n`: one rounding, the destination being the addend. -/
def laneFma (neg : Bool) (a b d : Nat) : Flagged :=
  let p := Fp.mul (fp32 a) (fp32 b)
  vecRound [fp32 a, fp32 b, fp32 d] (Fp.add (if neg then p.neg else p) (fp32 d))

def laneAbs (a _ _ : Nat) : Flagged := (if (fp32 a).isNan then nanBits 23 else a % 2 ^ 31, 0)
def laneNeg (a _ _ : Nat) : Flagged :=
  (if (fp32 a).isNan then nanBits 23 else if a < 2 ^ 31 then a + 2 ^ 31 else a - 2 ^ 31, 0)

/-- `VSCALE`: a scale beyond ±600 rounds as ±600 does. -/
def laneScale (a b _ : Nat) : Flagged :=
  let n := (clampInt (sgn 32 b) (-600) 600).1
  match fp32 a with
  | .fin s m e => vecRound [fp32 a] (.fin s m (e + n))
  | x => vecRound [fp32 a] x

/-- A positive value in `[t, t+1) × 2^k`, which is not `t × 2^k` when `more`: it rounds as this does. -/
def stickyFp (neg : Bool) (t : Nat) (more : Bool) (k : Int) : Fp := .fin neg (2 * t + if more then 1 else 0) (k - 1)

/-- `VRCP` (R91). -/
def laneRcp (a _ _ : Nat) : Flagged :=
  match fp32 a with
  | .nan => (nanBits 23, 0)
  | .inf s => (if s then 2 ^ 31 else 0, 0)
  | .fin s m e =>
    if m = 0 then (infBits 23 s, 0)
    else vecRound [fp32 a] (stickyFp s (2 ^ 80 / m) (2 ^ 80 % m != 0) (-80 - e))

/-- The integer square root, by Newton's iteration from above; the fuel is more than enough for 300 bits. -/
def isqrtGo : Nat → Nat → Nat → Nat
  | 0, _, x => x
  | f + 1, n, x =>
    let y := (x + n / x) / 2
    if x ≤ y then x else isqrtGo f n y

def isqrt (n : Nat) : Nat := if n = 0 then 0 else isqrtGo 400 n (2 ^ (n.log2 / 2 + 1))

/-- `VRSQ` (R91). -/
def laneRsq (a _ _ : Nat) : Flagged :=
  match fp32 a with
  | .nan => (nanBits 23, 0)
  | .inf s => if s then (nanBits 23, fVINV) else (0, 0)
  | .fin s m e =>
    if m = 0 then (infBits 23 s, 0)
    else if s then (nanBits 23, fVINV)
    else
      let m := if e % 2 = 0 then m else 2 * m
      let e := if e % 2 = 0 then e else e - 1
      let q := 2 ^ 160 / m
      let t := isqrt q
      vecRound [fp32 a] (stickyFp false t (t * t != q || 2 ^ 160 % m != 0) (-80 - e / 2))

/-- The result of a value known to lie in `[lo, hi] × 2^k`: the rounding that both ends share. Where they differ, which
the precision is chosen to avoid, the rounding is a free value (DESIGN CHOICE, log 16). -/
def bracket (lo hi : Int) (k : Int) (free : Nat) : Flagged :=
  let f := fun (n : Int) => vecRound [] (.fin (decide (n < 0)) n.natAbs k)
  if f lo = f hi then f lo else (free, 0)

/-- `2^g` for a fraction `g` of `n` bits, in `P`-bit fixed point and rounded down at each step: `c` is `2^(2^-i)` for
the bit at hand. -/
def exp2Go : Nat → Nat → Nat → Nat → Nat → Nat
  | 0, _, _, _, acc => acc
  | n + 1, p, g, c, acc =>
    let c := isqrt (c * 2 ^ p)
    exp2Go n p g c (if bit g n then acc * c / 2 ^ p else acc)

/-- `VEXP2` of a finite value (R91): `x = n + g / 2^128`, and `2^g` lies within 1024 units of the value computed (DESIGN CHOICE,
log 16). -/
def exp2Fin (a : Nat) (s : Bool) (m : Nat) (e : Int) : Flagged :=
  let x : Fp := .fin s m e
  if Fp.lt x (.fin true 151 0) then vecRound [x] (.fin false 1 (-400))
  else if !Fp.lt x (.fin false 128 0) then vecRound [x] (.fin false 1 400)
  else
    let v : Int := if 0 ≤ e + 128 then m * pow2 (e + 128) else m / pow2 (-(e + 128))
    let cut := decide (e + 128 < 0) && m % pow2 (-(e + 128)) != 0
    let v := if s then (if cut then -v - 1 else -v) else v
    let n := v / 2 ^ 128
    let g := (v % 2 ^ 128).toNat
    if g = 0 ∧ !cut then vecRound [x] (.fin false 1 n)
    else
      let t := exp2Go 128 128 g (2 * 2 ^ 128) (2 ^ 128)
      bracket t (t + 1024) (n - 128) (Config.expTie a)

def laneExp2 (a _ _ : Nat) : Flagged :=
  match fp32 a with
  | .nan => (nanBits 23, 0)
  | .inf s => (if s then 0 else infBits 23 false, 0)
  | .fin s m e => exp2Fin a s m e

/-- The first `n` fraction bits of the base-2 logarithm of `y / 2^p` in [1, 2), by squaring and rounding down. -/
def log2Go : Nat → Nat → Nat → Nat → Nat
  | 0, _, _, acc => acc
  | n + 1, p, y, acc =>
    let z := y * y / 2 ^ p
    if 2 * 2 ^ p ≤ z then log2Go n p (z / 2) (2 * acc + 1) else log2Go n p z (2 * acc)

/-- `VLOG2` (R91): 120 fraction bits of the logarithm, from 256-bit squares (DESIGN CHOICE, log 16). -/
def laneLog2 (a _ _ : Nat) : Flagged :=
  match fp32 a with
  | .nan => (nanBits 23, 0)
  | .inf s => if s then (nanBits 23, fVINV) else (infBits 23 false, 0)
  | .fin s m e =>
    if m = 0 then (infBits 23 true, 0)
    else if s then (nanBits 23, fVINV)
    else
      let n := m.log2
      let w : Int := e + n
      if m = 2 ^ n then vecRound [] (fpInt w)
      else
        let f := log2Go 120 256 (m * 2 ^ (256 - n)) 0
        let v : Int := w * 2 ^ 120 + f
        bracket v (v + 2) (-120) (Config.logTie a)

/-! ### Comparison (R253) -/

def laneCmp (c : BitVec 3) (a b : Nat) : Bool :=
  let x := fp32 a
  let y := fp32 b
  match c.toNat with
  | 0 => Fp.eq x y
  | 1 => Fp.lt x y
  | 2 => Fp.lt x y || Fp.eq x y
  | 3 => !Fp.eq x y
  | 4 => a == b
  | 5 => decide (sgn 32 a < sgn 32 b)
  | 6 => decide (a < b)
  | _ => decide (sgn 32 a ≤ sgn 32 b)

/-! ### Integers (R255, R256) -/

/-- The width a code names: 0 for 32 bits, 1 for 16, 2 for 8. -/
def widthOf (w : BitVec 2) : Nat :=
  match w.toNat with
  | 1 => 16
  | 2 => 8
  | _ => 32

/-- The value of the low `w` bits, unsigned or signed. -/
def extOf (w : Nat) (u : Bool) (v : Nat) : Int := if u then (v % 2 ^ w : Nat) else sgn w v

/-- An exact integer fitted to `w` bits (R255, R258) and extended to 32, with VSAT. -/
def fitInt (w : Nat) (u sat : Bool) (r : Int) : Flagged :=
  if sat then
    let c := if u then clampInt r 0 (2 ^ w - 1) else clampInt r (-(2 ^ (w - 1))) (2 ^ (w - 1) - 1)
    (pat 32 c.1, flagIf c.2 fVSAT)
  else (pat 32 (extOf w u (pat w r)), 0)

/-- The integer operations of R255 on two lanes. -/
def laneInt (op : Nat) (ew : BitVec 2) (u sat : Bool) (a b _ : Nat) : Flagged :=
  let w := widthOf ew
  let x := extOf w u a
  let y := extOf w u b
  let n := b % 32
  let aw := a % 2 ^ w
  let bw := b % 2 ^ w
  fitInt w u sat (match op with
    | 0 => x + y
    | 1 => x - y
    | 2 => x * y
    | 3 => if w ≤ n then 0 else x * 2 ^ n
    | 4 => if w ≤ n then 0 else (aw / 2 ^ n : Nat)
    | 5 => sgn w aw / 2 ^ (min n (w - 1))
    | 6 => (aw &&& bw : Nat)
    | 7 => (aw ||| bw : Nat)
    | _ => (aw ^^^ bw : Nat))

/-- `VADDW` (R256). -/
def laneAddw (w : BitVec 2) (a b _ : Nat) : Flagged :=
  let x := extOf (if w.toNat < 2 then 8 else 16) (w.toNat % 2 == 1) b
  (pat 32 (a + x), 0)

/-! ### Conversion (R93, R247, R257) -/

/-- The integer a lane holds in an integer format (R247). -/
def laneIntOf (fmt v : Nat) : Int :=
  match fmt with
  | 4 => sgn 8 v
  | 5 => (v % 256 : Nat)
  | 6 => sgn 16 v
  | _ => sgn 32 v

/-- An exact value rounded to BF16, with VOVF and VUNF as R82 defines them (DEDUCED, log 50). -/
def toBf16 (x : Fp) : Flagged :=
  let r := rne 7 x
  (r.bits, vecFlags [] false 7 r)

/-- `VCVT` from one format to another (DEDUCED, log 50). -/
def laneCvt (from_ to_ : Nat) (a _ _ : Nat) : Flagged :=
  if from_ = 1 ∨ from_ = 2 then
    let x := if from_ = 1 then fp32 a else fp16 (a % 65536)
    match to_ with
    | 1 => (rne32 x, 0)
    | 2 => toBf16 x
    | f =>
      let r := satInt x (intRange f).1 (intRange f).2
      (pat 32 r.1, flagIf r.2 fVSAT)
  else
    let n := laneIntOf from_ a
    match to_ with
    | 1 => (rne32 (fpInt n), 0)
    | 2 => (rne16 (fpInt n), 0)
    | f =>
      let r := clampInt n (intRange f).1 (intRange f).2
      (pat 32 r.1, flagIf r.2 fVSAT)

/-- The element a lane gives in a tile's format (R266), a CB4 tile being UINT8 (DEDUCED, log 50). -/
def laneStore (fmt v : Nat) : Flagged :=
  match fmt with
  | 1 | 7 => (v, 0)
  | 2 => toBf16 (fp32 v)
  | f =>
    let f := if f = 3 then 5 else f
    let r := clampInt (sgn 32 v) (intRange f).1 (intRange f).2
    (pat (elemBits f) r.1, flagIf r.2 fVSAT)

/-- An element of a tile as a lane (R265). -/
def laneLoad (fmt v : Nat) : Nat :=
  match fmt with
  | 2 => v * 65536
  | 4 => pat 32 (sgn 8 v)
  | 6 => pat 32 (sgn 16 v)
  | _ => v

/-! ### Scans and reductions (R92, R258 to R260) -/

/-- What a scan or a reduction does: the operation, the widths, U and SAT. -/
structure RedOp where
  o : Nat
  iw : Nat
  u : Bool
  aw : Nat
  sat : Bool
deriving DecidableEq, Repr

def redOp (o : BitVec 3) (iw : BitVec 2) (u aw sat : Bool) : RedOp := ⟨o.toNat, widthOf iw, u, if aw then 16 else 32, sat⟩

/-- The minor combines floating-point values. -/
def RedOp.fp (r : RedOp) : Bool := decide (r.o < 3)

/-- The input of a lane: an exact integer, or a pattern; the identity where the mask excludes it. -/
def RedOp.input (r : RedOp) (on : Bool) (v : Nat) : Int :=
  if on then (if r.fp then (v : Int) else extOf r.iw r.u v)
  else
    match r.o with
    | 0 | 3 => 0
    | 1 => (infBits 23 false : Nat)
    | 2 => (infBits 23 true : Nat)
    | 4 => if r.u then 2 ^ r.aw - 1 else 2 ^ (r.aw - 1) - 1
    | _ => if r.u then 0 else -(2 ^ (r.aw - 1))

/-- An exact result fitted to AW, as the value it then is. -/
def RedOp.fit (r : RedOp) (x : Int) : Int × BitVec 8 :=
  let f := fitInt r.aw r.u r.sat x
  (extOf r.aw r.u f.1, f.2)

/-- One combination. -/
def RedOp.comb (r : RedOp) (x y : Int) : Int × BitVec 8 :=
  let f := fun (g : Flagged) => ((g.1 : Int), g.2)
  match r.o with
  | 0 => f (laneAdd x.toNat y.toNat 0)
  | 1 => f (laneMin x.toNat y.toNat 0)
  | 2 => f (laneMax x.toNat y.toNat 0)
  | 3 => r.fit (x + y)
  | 4 => r.fit (if x ≤ y then x else y)
  | _ => r.fit (if x ≤ y then y else x)

/-- The first prefix of a scan: fitted, or with a NaN made canonical (R259). -/
def RedOp.first (r : RedOp) (x : Int) : Int × BitVec 8 := if r.fp then ((rne32 (fp32 x.toNat) : Nat), 0) else r.fit x

/-- A value as a lane. -/
def RedOp.lane (r : RedOp) (x : Int) : Nat := if r.fp then x.toNat else pat 32 x

/-- The later prefixes of a scan, in lane order. -/
def RedOp.prefixes (r : RedOp) (s : Int) : List Int → List (Int × BitVec 8)
  | [] => []
  | x :: t =>
    let y := r.comb s x
    y :: r.prefixes y.1 t

/-- `VSCAN` on 128 inputs. -/
def RedOp.scan (r : RedOp) : List Int → List Flagged
  | [] => []
  | x :: t =>
    let y := r.first x
    (y :: r.prefixes y.1 t).map fun e => (r.lane e.1, e.2)

/-- One level of the tree of R92. -/
def RedOp.level (r : RedOp) : List Int → List (Int × BitVec 8)
  | x :: y :: t => r.comb x y :: r.level t
  | _ => []

/-- `VRED`: `n` levels on `2^n` inputs. -/
def RedOp.tree (r : RedOp) : Nat → List Int → BitVec 8 → Flagged
  | 0, l, fl => (r.lane (l.headD 0), fl)
  | n + 1, l, fl =>
    let m := r.level l
    r.tree n (m.map (·.1)) (m.foldl (fun a e => a ||| e.2) fl)

end Sys2Proof.Machine
end

