-- ==== Sys2Proof/Machine/Vector.lean ====
section
/-! DEFINITION. The vector engine: the issue of its instructions (R249), their head checks, what they do when they run
(R252 to R267), and `BRMZ` (R268). -/

namespace Sys2Proof.Machine

/-! ### Vector registers and masks (R246, R248) -/

/-- A vector register as one number, lane `i` in bits [32i+31:32i]. -/
def Slot.vreg (k : Slot) (r : Reg) : Nat := (SMap.get k.v 0 r.toNat).toNat

/-- Lane `i` of a vector register held as one number. -/
def laneOf (v i : Nat) : Nat := bits v (32 * i) 32

def Slot.setVreg (k : Slot) (r : Reg) (l : List Nat) : Slot :=
  { k with v := SMap.set k.v 0 r.toNat (BitVec.ofNat 4096 (packBits 32 l)) }

/-- The 128 lane numbers. -/
def lanes : List Nat := upto 128 0

/-- `Top()`. -/
def Slot.top (k : Slot) : Mask := k.mstack.headD (BitVec.allOnes 128)

/-- `M(k)`. -/
def Slot.mask (k : Slot) (n : BitVec 3) : Mask :=
  if n = 0 then BitVec.allOnes 128 else if n = 7 then k.top else SMap.get k.m 0 n.toNat

/-- The flags of a list of results. -/
def flagsOf (l : List Flagged) : BitVec 8 := l.foldl (fun m e => m ||| e.2) 0

/-- A vector register written lane by lane, with the flags. -/
def Slot.setLanes (k : Slot) (d : Reg) (l : List Flagged) : Slot := (k.setVreg d (l.map (·.1))).setFlags (flagsOf l)

/-- A lane operation (R250): lanes the mask excludes keep their values and set no flag. -/
def Slot.lanewise (k : Slot) (d a b : Reg) (m : BitVec 3) (f : Nat → Nat → Nat → Flagged) : Slot :=
  let va := k.vreg a
  let vb := k.vreg b
  let vd := k.vreg d
  let on := k.mask m
  k.setLanes d (lanes.map fun i => if on.getLsbD i then f (laneOf va i) (laneOf vb i) (laneOf vd i) else (laneOf vd i, 0))

/-- The lanes a mask selects are moved; `f` gives the new value of lane `i`. -/
def Slot.moveLanes (k : Slot) (d : Reg) (m : BitVec 3) (f : Nat → Nat) : Slot :=
  let vd := k.vreg d
  let on := k.mask m
  k.setVreg d (lanes.map fun i => if on.getLsbD i then f i else laneOf vd i)

/-! ### Issue (R249) -/

/-- SHAPE: a vector register at or above the GRANT (R61, R246); `%fault.addr` is its number. -/
def Slot.noVreg (k : Slot) : List Reg → Option Bad
  | [] => none
  | n :: r => if k.grantV ≤ n.toNat then some ⟨cSHAPE, 0, n.setWidth 64⟩ else k.noVreg r

/-- A vector instruction issues: `vs` are the vector registers it names, `gs` the registers whose values it carries. -/
def State.issueVector (s : State) (i : Instr) (h : Hdr) (vs gs : List Reg) : Out :=
  let o := Instr.engOut i
  s.issueEng .vector h (gs ++ o.gs) o.p o.gs o.p fun t =>
    match t.me.noVreg vs with
    | some b => .bad b
    | none => .cmd t (t.mkCmd i (gs.map t.rg))

/-- VADD (R252). -/
def execVadd (h : Hdr) (d a b : Reg) (k : BitVec 3) (s : State) : Out := s.issueVector (.vadd h d a b k) h [d, a, b] []
/-- VSUB (R252). -/
def execVsub (h : Hdr) (d a b : Reg) (k : BitVec 3) (s : State) : Out := s.issueVector (.vsub h d a b k) h [d, a, b] []
/-- VMUL (R252). -/
def execVmul (h : Hdr) (d a b : Reg) (k : BitVec 3) (s : State) : Out := s.issueVector (.vmul h d a b k) h [d, a, b] []
/-- VMIN (R252). -/
def execVmin (h : Hdr) (d a b : Reg) (k : BitVec 3) (s : State) : Out := s.issueVector (.vmin h d a b k) h [d, a, b] []
/-- VMAX (R252). -/
def execVmax (h : Hdr) (d a b : Reg) (k : BitVec 3) (s : State) : Out := s.issueVector (.vmax h d a b k) h [d, a, b] []
/-- VFMA (R252). -/
def execVfma (h : Hdr) (d a b : Reg) (k : BitVec 3) (s : State) : Out := s.issueVector (.vfma h d a b k) h [d, a, b] []
/-- VFMA_N (R252). -/
def execVfmaN (h : Hdr) (d a b : Reg) (k : BitVec 3) (s : State) : Out := s.issueVector (.vfmaN h d a b k) h [d, a, b] []
/-- VABS (R252). -/
def execVabs (h : Hdr) (d a : Reg) (k : BitVec 3) (s : State) : Out := s.issueVector (.vabs h d a k) h [d, a] []
/-- VNEG (R252). -/
def execVneg (h : Hdr) (d a : Reg) (k : BitVec 3) (s : State) : Out := s.issueVector (.vneg h d a k) h [d, a] []
/-- VRCP (R91). -/
def execVrcp (h : Hdr) (d a : Reg) (k : BitVec 3) (s : State) : Out := s.issueVector (.vrcp h d a k) h [d, a] []
/-- VRSQ (R91). -/
def execVrsq (h : Hdr) (d a : Reg) (k : BitVec 3) (s : State) : Out := s.issueVector (.vrsq h d a k) h [d, a] []
/-- VEXP2 (R91). -/
def execVexp2 (h : Hdr) (d a : Reg) (k : BitVec 3) (s : State) : Out := s.issueVector (.vexp2 h d a k) h [d, a] []
/-- VLOG2 (R91). -/
def execVlog2 (h : Hdr) (d a : Reg) (k : BitVec 3) (s : State) : Out := s.issueVector (.vlog2 h d a k) h [d, a] []
/-- VSCALE (R252). -/
def execVscale (h : Hdr) (d a b : Reg) (k : BitVec 3) (s : State) : Out := s.issueVector (.vscale h d a b k) h [d, a, b] []
/-- VCMP (R253). -/
def execVcmp (h : Hdr) (m c : BitVec 3) (a b : Reg) (k : BitVec 3) (s : State) : Out :=
  s.issueVector (.vcmp h m c a b k) h [a, b] []
/-- VSEL (R254). -/
def execVsel (h : Hdr) (d a b : Reg) (k : BitVec 3) (s : State) : Out := s.issueVector (.vsel h d a b k) h [d, a, b] []
/-- VIADD (R255). -/
def execViadd (h : Hdr) (d a b : Reg) (k : BitVec 3) (ew : BitVec 2) (u sat : Bool) (s : State) : Out :=
  s.issueVector (.viadd h d a b k ew u sat) h [d, a, b] []
/-- VISUB (R255). -/
def execVisub (h : Hdr) (d a b : Reg) (k : BitVec 3) (ew : BitVec 2) (u sat : Bool) (s : State) : Out :=
  s.issueVector (.visub h d a b k ew u sat) h [d, a, b] []
/-- VIMUL (R255). -/
def execVimul (h : Hdr) (d a b : Reg) (k : BitVec 3) (ew : BitVec 2) (u sat : Bool) (s : State) : Out :=
  s.issueVector (.vimul h d a b k ew u sat) h [d, a, b] []
/-- VSHL (R255). -/
def execVshl (h : Hdr) (d a b : Reg) (k : BitVec 3) (ew : BitVec 2) (u : Bool) (s : State) : Out :=
  s.issueVector (.vshl h d a b k ew u) h [d, a, b] []
/-- VSHR (R255). -/
def execVshr (h : Hdr) (d a b : Reg) (k : BitVec 3) (ew : BitVec 2) (u : Bool) (s : State) : Out :=
  s.issueVector (.vshr h d a b k ew u) h [d, a, b] []
/-- VSAR (R255). -/
def execVsar (h : Hdr) (d a b : Reg) (k : BitVec 3) (ew : BitVec 2) (u : Bool) (s : State) : Out :=
  s.issueVector (.vsar h d a b k ew u) h [d, a, b] []
/-- VAND (R255). -/
def execVand (h : Hdr) (d a b : Reg) (k : BitVec 3) (ew : BitVec 2) (u : Bool) (s : State) : Out :=
  s.issueVector (.vand h d a b k ew u) h [d, a, b] []
/-- VOR (R255). -/
def execVor (h : Hdr) (d a b : Reg) (k : BitVec 3) (ew : BitVec 2) (u : Bool) (s : State) : Out :=
  s.issueVector (.vor h d a b k ew u) h [d, a, b] []
/-- VXOR (R255). -/
def execVxor (h : Hdr) (d a b : Reg) (k : BitVec 3) (ew : BitVec 2) (u : Bool) (s : State) : Out :=
  s.issueVector (.vxor h d a b k ew u) h [d, a, b] []
/-- VADDW (R256). -/
def execVaddw (h : Hdr) (d a b : Reg) (k : BitVec 3) (w : BitVec 2) (s : State) : Out :=
  s.issueVector (.vaddw h d a b k w) h [d, a, b] []
/-- VCVT (R257). -/
def execVcvt (h : Hdr) (d a : Reg) (k : BitVec 3) (fr tgt : BitVec 4) (s : State) : Out :=
  s.issueVector (.vcvt h d a k fr tgt) h [d, a] []
/-- VSCAN (R259). -/
def execVscan (h : Hdr) (d a : Reg) (k o : BitVec 3) (iw : BitVec 2) (u aw sat : Bool) (s : State) : Out :=
  s.issueVector (.vscan h d a k o iw u aw sat) h [d, a] []
/-- VRED (R260). -/
def execVred (h : Hdr) (d a : Reg) (k o : BitVec 3) (iw : BitVec 2) (u aw sat : Bool) (s : State) : Out :=
  s.issueVector (.vred h d a k o iw u aw sat) h [d, a] []
/-- VBCAST (R261). -/
def execVbcast (h : Hdr) (d a : Reg) (k : BitVec 3) (s : State) : Out := s.issueVector (.vbcast h d a k) h [d] [a]
/-- VBCAST_L (R261). -/
def execVbcastL (h : Hdr) (d a b : Reg) (k : BitVec 3) (s : State) : Out := s.issueVector (.vbcastL h d a b k) h [d, a] [b]
/-- VPERM (R261). -/
def execVperm (h : Hdr) (d a b : Reg) (k : BitVec 3) (s : State) : Out := s.issueVector (.vperm h d a b k) h [d, a, b] []
/-- VROTL (R261). -/
def execVrotl (h : Hdr) (d a b : Reg) (k : BitVec 3) (s : State) : Out := s.issueVector (.vrotl h d a b k) h [d, a] [b]
/-- VIOTA (R261). -/
def execViota (h : Hdr) (d a : Reg) (k : BitVec 3) (s : State) : Out := s.issueVector (.viota h d a k) h [d] [a]
/-- VCOMPRESS (R262). -/
def execVcompress (h : Hdr) (d a : Reg) (k : BitVec 3) (s : State) : Out := s.issueVector (.vcompress h d a k) h [d, a] []
/-- VEXPAND (R262). -/
def execVexpand (h : Hdr) (d a : Reg) (k : BitVec 3) (s : State) : Out := s.issueVector (.vexpand h d a k) h [d, a] []
/-- VLD (R265). -/
def execVld (h : Hdr) (d hd c : Reg) (cons : Bool) (k : BitVec 3) (s : State) : Out :=
  s.issueVector (.vld h d hd c cons k) h [d] [hd, c]
/-- VLDX (R265). -/
def execVldx (h : Hdr) (d hd b : Reg) (cons : Bool) (k : BitVec 3) (s : State) : Out :=
  s.issueVector (.vldx h d hd b cons k) h [d, b] [hd]
/-- VST (R266). -/
def execVst (h : Hdr) (a hd c : Reg) (k : BitVec 3) (s : State) : Out := s.issueVector (.vst h a hd c k) h [a] [hd, c]
/-- VINS (R263). -/
def execVins (h : Hdr) (d a l : Reg) (s : State) : Out := s.issueVector (.vins h d a l) h [d] [a, l]
/-- VEXT (R263). -/
def execVext (h : Hdr) (d a l : Reg) (u : Bool) (s : State) : Out := s.issueVector (.vext h d a l u) h [a] [l]
/-- VMPUSH (R267). -/
def execVmpush (h : Hdr) (k : BitVec 3) (s : State) : Out := s.issueVector (.vmpush h k) h [] []
/-- VMINV (R267). -/
def execVminv (h : Hdr) (s : State) : Out := s.issueVector (.vminv h) h [] []
/-- VMPOP (R267). -/
def execVmpop (h : Hdr) (s : State) : Out := s.issueVector (.vmpop h) h [] []

/-! ### BRMZ (R268) -/

/-- An entry writes a mask or the mask stack. -/
def Cmd.writesMask (c : Cmd) : Bool :=
  match c.instr with
  | .vcmp .. | .vmpush .. | .vminv .. | .vmpop .. => true
  | _ => false

/-- BRMZ (R268): held while an entry that writes a mask has not finished, one set aside among them. -/
def execBrmz (h : Hdr) (neg : Bool) (off : BitVec 13) (syl : BitVec 4) (s : State) : Out :=
  s.issueSeq h [] [] fun t =>
    if (t.me.vq ++ t.me.vAside).any Cmd.writesMask then .stall t
    else if (t.me.top == 0) != neg then .done (t.branch (t.target off syl))
    else .done t

/-! ### Tiles as the vector engine sees them (R264) -/

/-- The element size in bytes, and the elements of a row: a CB4 tile is read as UINT8. -/
def vSize (fmt : Nat) : Nat := if fmt = 3 then 1 else elemBits fmt / 8
def vWidth (fmt : Nat) : Nat := 256 / vSize fmt

/-- Element `L` of a tile, numbered linearly. -/
def Tile.vElem (t : Tile) (l : Nat) : Nat := t.num (l * vSize t.fmt) (vSize t.fmt)

/-- The line that holds element `L`. -/
def vLine (fmt l : Nat) : Nat := l * vSize fmt / 128

/-- The lanes a command works on with the element of each: those the mask selects (R265, R266). -/
def Slot.vIndex (k : Slot) (c : Cmd) : List (Nat × Nat) :=
  let sel := fun (m : BitVec 3) => lanes.filter fun i => (k.mask m).getLsbD i
  match c.instr with
  | .vld _ _ _ _ _ m | .vst _ _ _ _ m => (sel m).map fun i => (i, 128 * bits (c.op 1).toNat 0 32 + i)
  | .vldx _ _ _ b _ m => (sel m).map fun i => (i, laneOf (k.vreg b) i)
  | _ => []

/-! ### Head checks (R249, R265 to R267) -/

/-- The depth checks of the mask stack. -/
def Slot.depthBad (k : Slot) (ok : Bool) : Option Bad := check ok ⟨cILLEGAL, 0x0F, BitVec.ofNat 64 k.mstack.length⟩

/-- The chunk of a `VLD` or `VST`, or the first index of a `VLDX`, that lies beyond the tile (DEDUCED, log 24). -/
def State.beyond (s : State) (slot : Nat) (c : Cmd) : Option Bad :=
  let w := vWidth (s.tileOf (c.op 0)).fmt
  match c.instr with
  | .vldx .. =>
    (((s.slotAt slot).vIndex c).find? fun e => decide (128 * w ≤ e.2)).map fun e => ⟨cILLEGAL, 0x0F, BitVec.ofNat 64 e.2⟩
  | _ => check (decide (bits (c.op 1).toNat 0 32 < w)) ⟨cILLEGAL, 0x0F, BitVec.ofNat 64 (bits (c.op 1).toNat 0 32)⟩

/-- A load or store of a tile at the head; `cons` charges one read. -/
def State.headTile (s : State) (slot : Nat) (c : Cmd) (cons : Bool) : Head :=
  let h := c.op 0
  let c := { c with handles := [h] }
  if c.charged then .runs s c
  else
    match firstBadOf [s.checkTile slot h, s.notVacated h, s.beyond slot c] with
    | some b => .bad b
    | none =>
      if cons then
        match (s.tileOf h).consume (pairOf slot) with
        | none => .bad ⟨cTILE_GONE, 3, h⟩
        | some t => .runs (s.updTileOf h fun _ => t) { c with charged := true }
      else .runs s c

/-- What the head entry of a slot's vector queue does when it starts. -/
def State.vectorHead (s : State) (slot : Nat) (c : Cmd) : Head :=
  let k := s.slotAt slot
  let depth := fun (ok : Bool) =>
    match k.depthBad ok with
    | some b => Head.bad b
    | none => .runs s c
  match c.instr with
  | .vld _ _ _ _ cons _ | .vldx _ _ _ _ cons _ => s.headTile slot c cons
  | .vst .. => s.headTile slot c false
  | .vmpush .. => depth (decide (k.mstack.length < 16))
  | .vminv .. | .vmpop .. => depth (decide (0 < k.mstack.length))
  | _ => .runs s c

/-! ### What a command does -/

/-- `VCOMPRESS` (R262): the selected lanes, then the lanes of the destination that stay. -/
def Slot.compress (k : Slot) (d a : Reg) (m : BitVec 3) : Slot :=
  let l := (lanes.filter fun i => (k.mask m).getLsbD i).map (laneOf (k.vreg a))
  k.setVreg d (l ++ (lanes.drop l.length).map (laneOf (k.vreg d)))

/-- The lanes below `i` that a mask selects. -/
def rankOf (m : Mask) (i : Nat) : Nat := ((upto i 0).filter m.getLsbD).length

/-- `VCMP` (R253). -/
def Slot.compare (k : Slot) (m c : BitVec 3) (a b : Reg) (on : BitVec 3) : Slot :=
  let va := k.vreg a
  let vb := k.vreg b
  let v := packBits 1 (lanes.map fun i => ((k.mask on).getLsbD i && laneCmp c (laneOf va i) (laneOf vb i)).toNat)
  { k with m := SMap.set k.m 0 m.toNat (BitVec.ofNat 128 v) }

/-- The inputs of a scan or reduction. -/
def Slot.redInputs (k : Slot) (r : RedOp) (a : Reg) (m : BitVec 3) : List Int :=
  let va := k.vreg a
  lanes.map fun i => r.input ((k.mask m).getLsbD i) (laneOf va i)

/-- `VMINV` on the stack, its top first. -/
def maskInvert : List Mask → List Mask
  | [] => []
  | t :: r => (r.headD (BitVec.allOnes 128) &&& ~~~t) :: r

/-- A `VST` on its tile (R266), with the flags (DEDUCED, log 53). -/
def Tile.vStore (t : Tile) (va : Nat) (sel : List (Nat × Nat)) : Tile × BitVec 8 :=
  let ls := sel.map fun e => vLine t.fmt e.2
  let t0 := { t with lines := ls.foldl (fun m l => if t.isFull l then m else SMap.set m 0 l 0) t.lines }
  let r := sel.foldl (fun (x : Tile × BitVec 8) e =>
    let f := laneStore t.fmt (laneOf va e.1)
    (x.1.put (e.2 * vSize t.fmt) (vSize t.fmt) f.1, x.2 ||| f.2)) (t0, 0)
  (r.1.markFull ls, r.2)

/-- The effect of a vector command on its slot, but for loads and stores. -/
def Slot.vectorEffect (k : Slot) (c : Cmd) : Slot :=
  let g := fun (i : Nat) => (c.op i).toNat
  match c.instr with
  | .vadd _ d a b m => k.lanewise d a b m laneAdd
  | .vsub _ d a b m => k.lanewise d a b m laneSub
  | .vmul _ d a b m => k.lanewise d a b m laneMul
  | .vmin _ d a b m => k.lanewise d a b m laneMin
  | .vmax _ d a b m => k.lanewise d a b m laneMax
  | .vfma _ d a b m => k.lanewise d a b m (laneFma false)
  | .vfmaN _ d a b m => k.lanewise d a b m (laneFma true)
  | .vabs _ d a m => k.lanewise d a a m laneAbs
  | .vneg _ d a m => k.lanewise d a a m laneNeg
  | .vrcp _ d a m => k.lanewise d a a m laneRcp
  | .vrsq _ d a m => k.lanewise d a a m laneRsq
  | .vexp2 _ d a m => k.lanewise d a a m laneExp2
  | .vlog2 _ d a m => k.lanewise d a a m laneLog2
  | .vscale _ d a b m => k.lanewise d a b m laneScale
  | .vcmp _ m c a b on => k.compare m c a b on
  | .vsel _ d a b m =>
    let va := k.vreg a
    let vb := k.vreg b
    let on := k.mask m
    k.setVreg d (lanes.map fun i => if on.getLsbD i then laneOf va i else laneOf vb i)
  | .viadd _ d a b m ew u sat => k.lanewise d a b m (laneInt 0 ew u sat)
  | .visub _ d a b m ew u sat => k.lanewise d a b m (laneInt 1 ew u sat)
  | .vimul _ d a b m ew u sat => k.lanewise d a b m (laneInt 2 ew u sat)
  | .vshl _ d a b m ew u => k.lanewise d a b m (laneInt 3 ew u false)
  | .vshr _ d a b m ew u => k.lanewise d a b m (laneInt 4 ew u false)
  | .vsar _ d a b m ew u => k.lanewise d a b m (laneInt 5 ew u false)
  | .vand _ d a b m ew u => k.lanewise d a b m (laneInt 6 ew u false)
  | .vor _ d a b m ew u => k.lanewise d a b m (laneInt 7 ew u false)
  | .vxor _ d a b m ew u => k.lanewise d a b m (laneInt 8 ew u false)
  | .vaddw _ d a b m w => k.lanewise d a b m (laneAddw w)
  | .vcvt _ d a m fr tgt => k.lanewise d a a m (laneCvt fr.toNat tgt.toNat)
  | .vscan _ d a m o iw u aw sat =>
    let r := redOp o iw u aw sat
    k.setLanes d (r.scan (k.redInputs r a m))
  | .vred _ d a m o iw u aw sat =>
    let r := redOp o iw u aw sat
    let f := r.tree 7 (k.redInputs r a m) 0
    k.setLanes d (lanes.map fun _ => f)
  | .vbcast _ d _ m => k.moveLanes d m fun _ => bits (g 0) 0 32
  | .vbcastL _ d a _ m =>
    let v := laneOf (k.vreg a) (bits (g 0) 0 7)
    k.moveLanes d m fun _ => v
  | .vperm _ d a b m =>
    let va := k.vreg a
    let vb := k.vreg b
    k.moveLanes d m fun i => laneOf va (laneOf vb i % 128)
  | .vrotl _ d a _ m =>
    let va := k.vreg a
    k.moveLanes d m fun i => laneOf va ((i + 128 - bits (g 0) 0 7) % 128)
  | .viota _ d _ m => k.moveLanes d m fun i => (bits (g 0) 0 32 + i) % 2 ^ 32
  | .vcompress _ d a m => k.compress d a m
  | .vexpand _ d a m =>
    let va := k.vreg a
    let on := k.mask m
    k.moveLanes d m fun i => laneOf va (rankOf on i)
  | .vins _ d _ _ =>
    let vd := k.vreg d
    k.setVreg d (lanes.map fun i => if i = bits (g 1) 0 7 then bits (g 0) 0 32 else laneOf vd i)
  | .vext _ d a _ u =>
    let v := laneOf (k.vreg a) (bits (g 0) 0 7)
    k.deliver .vector d (if u then BitVec.ofNat 64 v else (BitVec.ofNat 32 v).signExtend 64)
  | .vmpush _ m => { k with mstack := (k.top &&& k.mask m) :: k.mstack }
  | .vminv _ => { k with mstack := maskInvert k.mstack }
  | .vmpop _ => { k with mstack := k.mstack.tail }
  | _ => k

/-- A command that has started may run: a load waits for the lines of its selected elements, and both for a frame that
moves (R54, R67). -/
def State.vectorReady (s : State) (slot : Nat) (c : Cmd) : Bool :=
  let h := c.op 0
  let t := s.tileOf h
  match c.instr with
  | .vld .. | .vldx .. => t.allFull (((s.slotAt slot).vIndex c).map fun e => vLine t.fmt e.2) && !s.migrates h
  | .vst .. => !s.migrates h
  | _ => true

/-- A started command runs whole once its lines are there. -/
def State.vectorRun (s : State) (slot : Nat) (c : Cmd) : Option State :=
  if !s.vectorReady slot c then none
  else
    let k := s.slotAt slot
    let t := s.tileOf (c.op 0)
    match c.instr with
    | .vld _ d _ _ _ _ | .vldx _ d _ _ _ _ =>
      let vd := k.vreg d
      let idx := k.vIndex c
      some (s.updSlot slot fun k => k.setVreg d (lanes.map fun i =>
        match idx.find? fun e => e.1 == i with
        | some e => laneLoad t.fmt (t.vElem e.2)
        | none => laneOf vd i))
    | .vst _ a _ _ _ =>
      let r := t.vStore (k.vreg a) (k.vIndex c)
      some ((s.updTileOf (c.op 0) fun _ => r.1).updSlot slot fun k => k.setFlags r.2)
    | _ => some (s.updSlot slot fun k => k.vectorEffect c)

end Sys2Proof.Machine
end

