-- ==== Sys2Proof/Machine/Engines.lean ====
section
/-! DEFINITION. The steps of the engines: an entry starts and finishes (R10, R12, R22, R201, R230, R249), a line lands
(R54) or is performed (R339), and a settled tile becomes free (R46). -/

namespace Sys2Proof.Machine

/-- What the head entry of an engine's queue does when it starts. -/
def State.headOf (s : State) : Engine → Nat → Cmd → Head
  | .copy, n, c => s.copyHead n c
  | .matrix, n, c => s.matrixHead n c
  | .vector, n, c => s.vectorHead n c

def Cmd.wait (c : Cmd) : BitVec 8 := c.hdr.wait

/-- A vector command of another slot of the core runs: commands of different slots interleave only at their boundaries
(R251). -/
def State.vectorBusy (s : State) (slot : Nat) : Bool :=
  (slotsOf (coreOf slot)).any fun n =>
    n != slot && match (s.slotAt n).vq with
      | c :: _ => c.started && !c.ended
      | [] => false

/-- The head entry of a slot's queue, if it has not started and its WAIT queues are nonzero. -/
def State.startable (s : State) (e : Engine) (slot : Nat) : Option Cmd :=
  match (s.slotAt slot).queue e with
  | [] => none
  | c :: _ =>
    if !c.started && (s.slotAt slot).hasTok c.wait && !(e == .vector && s.vectorBusy slot) then some c else none

/-- A head that waits does not request the engine. -/
def Head.waits : Head → Bool
  | .wait _ => true
  | _ => false

/-- A head held by a cause of R97 counts it. -/
def State.countWait (s : State) (core : Nat) (slot : Nat) : Head → State
  | .wait (some c) => s.stallCause core (s.slotAt slot).task.tenant c
  | _ => s

/-- The head entry starts: its WAIT queues popped. -/
def State.started (s : State) (e : Engine) (slot : Nat) (c : Cmd) : State :=
  s.updSlot slot fun k => (k.popTok c.wait).setHead e { c with started := true }

/-- The chosen head entry: started, refused (R53), or set aside with a fault (DEDUCED, log 38). -/
def State.startHead (s : State) (e : Engine) (slot : Nat) (c : Cmd) : Out :=
  match s.headOf e slot c with
  | .runs t d | .over_ t d => .next (t.started e slot d)
  | .refused t _ => .next (t.updSlot slot fun k => k.dropHead e)
  | .wait _ => .next s
  | .bad b => .next (s.headFault slot e c b)
  | .void pa => .fault (.noMemory pa)

/-- COMMAND_START (R12, R22): the engine chooses among the slots whose head entry may start. -/
def execCommandStart (core : Nat) (e : Engine) (s : State) : Out :=
  let cands := (slotsOf core).filterMap fun n => (s.startable e n).map fun c => (n, c)
  let t := cands.foldl (fun t x => t.countWait core x.1 (s.headOf e x.1 x.2)) s
  let ready := (cands.filter fun x => !(s.headOf e x.1 x.2).waits).map (·.1)
  match t.arbitrate core (arbOfEngine e) ready with
  | none => .next t
  | some (u, n) =>
    match u.startable e n with
    | none => .next u
    | some c => u.startHead e n c

/-! ### Finishing -/

/-- What a started head entry has still to do at its end: none while it runs. -/
def State.endOf (s : State) (e : Engine) (slot : Nat) (c : Cmd) : Option State :=
  match e with
  | .copy => if s.copyOver slot c then some (s.copyEnd slot c) else none
  | .matrix => s.matrixRun slot c
  | .vector => s.vectorRun slot c

/-- The SIG an entry still pushes: none for a copy in flight that a resume issued again (R227, R339). -/
def Cmd.sigLeft (c : Cmd) : BitVec 8 := if c.recorded then 0 else c.hdr.sig

/-- A finished head entry pushes its SIG and leaves the queue, or stays until the push fits (R12). -/
def State.leaveQueue (s : State) (e : Engine) (slot : Nat) (c : Cmd) : State :=
  s.updSlot slot fun k =>
    if k.tokFits c.sigLeft then (k.pushTok c.sigLeft).dropHead e else k.setHead e { c with ended := true, buf := [] }

/-- The head entry of a slot finishes, if it can (DEDUCED, log 37). -/
def State.finishHead (s : State) (e : Engine) (slot : Nat) : Option State :=
  match (s.slotAt slot).queue e with
  | [] => none
  | c :: _ =>
    if !c.started then none
    else if c.ended then
      if (s.slotAt slot).tokFits c.sigLeft then some (s.leaveQueue e slot c) else none
    else (s.endOf e slot c).map fun t => t.leaveQueue e slot c

/-- COMMAND_FINISH (R12): the first slot whose head entry can finish. -/
def execCommandFinish (core : Nat) (e : Engine) (s : State) : Out :=
  match (slotsOf core).findSome? (s.finishHead e) with
  | some t => .next t
  | none => .next s

/-! ### Lines -/

/-- A started copy of a slot that still moves lines. -/
def State.moving (s : State) (slot : Nat) : Option Cmd :=
  match (s.slotAt slot).cq with
  | c :: _ => if c.started && !c.ended && !s.copyOver slot c then some c else none
  | [] => none

/-- The next line of the first copy that can move one, and the waits counted on the way. -/
def State.landNext (s : State) (core : Nat) : List Nat → Out
  | [] => .next s
  | n :: r =>
    match s.moving n with
    | none => s.landNext core r
    | some c =>
      match s.moveNext n c with
      | .ok t d => .next (t.updSlot n fun k => k.setHead .copy d)
      | .bad b => .next (s.moveFault n c b)
      | .wait none => s.landNext core r
      | .wait (some w) => (s.stallCause core (s.slotAt n).task.tenant w).landNext core r
      | .void pa => .fault (.noMemory pa)

/-- LINE_LAND (R54): the copy engine of a core moves one line. -/
def execLineLand (core : Nat) (s : State) : Out := s.landNext core (slotsOf core)

/-- A sent line waits for its destination's link (R339). -/
def State.destHolds (s : State) (slot : Nat) (c : Cmd) : Bool :=
  let va := c.opN 0 + 128 * c.done
  match s.translate (s.asidOf slot) va with
  | .ok l => (s.linkHolds (l.loc va)).isSome
  | .error _ => false

/-- A sent line of a copy may be performed. -/
def State.performable (s : State) (slot : Nat) (c : Cmd) : Bool := decide (c.done < c.sent) && !s.destHolds slot c

/-- The next sent line of the oldest copy in flight that can perform one is performed; a copy whose last line it is
leaves the list, its tags lowered (R115, R339). -/
def State.performNext (s : State) (slot : Nat) (before : List Cmd) : List Cmd → Option State
  | [] => none
  | c :: r =>
    if s.performable slot c then
      let x := s.performLine slot c
      some (x.1.updSlot slot fun k =>
        if x.2.done < x.2.sent then { k with flight := before ++ x.2 :: r }
        else { k.untag c.tags with flight := before ++ r })
    else s.performNext slot (before ++ [c]) r

/-- LINE_PERFORMED (R339): a sent line of a copy in flight, or of the copy at the head. -/
def execLinePerformed (slot : Nat) (s : State) : Out :=
  match s.performNext slot [] (s.slotAt slot).flight with
  | some t => .next t
  | none =>
    match (s.slotAt slot).cq with
    | c :: _ =>
      if s.performable slot c then
        let x := s.performLine slot c
        .next (x.1.updSlot slot fun k => k.setHead .copy x.2)
      else .next s
    | [] => .next s

/-! ### Tiles -/

/-- TILE_FREE (R46): a SETTLING tile on which nothing is in flight becomes FREE. -/
def execTileFree (core idx : Nat) (s : State) : Out :=
  let t := s.tileAt core idx
  if t.st = .settling ∧ !s.inFlight (mkHandle core t.owner idx t.serial) then .next (s.updTile core idx fun t => t.gone false)
  else .next s

end Sys2Proof.Machine
end

