-- ==== Sys2Proof/Machine/Save.lean ====
section
/-! DEFINITION. The save area (R326 to R329): a task's context as words at offsets of the area, the writing of an area, and
the reading of one back into a slot (R330). -/

namespace Sys2Proof.Machine

/-- Words of a save area with their offsets; every word not listed is zero. -/
abbrev AreaWords := List (Nat × Word)

/-- Consecutive words from an offset on. -/
def wordsAt (off : Nat) (ws : List Word) : AreaWords := ws.zip (upto ws.length 0) |>.map fun e => (off + 8 * e.2, e.1)

/-- A wide value as `n` words, the lowest first. -/
def wideWords (n v : Nat) : List Word := (upto n 0).map fun i => BitVec.ofNat 64 (bits v (64 * i) 64)

/-- Small fields side by side: (value, position) pairs. -/
def fieldsWord (l : List (Nat × Nat)) : Word := BitVec.ofNat 64 (sumOf (l.map fun e => e.1 * 2 ^ e.2))

/-- Bits in order, the oldest in bit 0. -/
def boolsWord (l : List Bool) : Word := BitVec.ofNat 64 (packBits 1 (l.map Bool.toNat))

/-! ### Queue entries (R227, R328) -/

/-- The KIND of an entry: waiting for the agent or the switch, recorded (a copy that has started, or an entry that only
waits for its SIG to fit), or pending. -/
def Cmd.kind (e : Engine) (c : Cmd) : Nat :=
  if c.ended then 1
  else
    match c.instr with
    | .drun .. | .fred .. => if c.started then 2 else 0
    | _ => if c.started ∧ e = .copy then 1 else 0

/-- The entries of a slot in the order of R328, copies in flight first. Lines sent and not performed are withdrawn (R227,
R340); a matrix command abandoned on an empty line is CHARGED (R234); a refill is left out, since its tile carries the
command (R57). -/
def Slot.allCmds (k : Slot) : List (Engine × Cmd) :=
  let back := fun (c : Cmd) => { c with sent := c.done, buf := [] }
  (k.flight.map fun c => (.copy, { back c with recorded := true })) ++
    (((k.cq ++ k.cAside).filter fun c => !c.isRefill).map fun c => (.copy, back c)) ++
    ((k.mq ++ k.mAside).map fun c => (.matrix, { c with charged := c.charged || (c.started && !c.ended) })) ++
    (k.vq ++ k.vAside).map fun c => (.vector, c)

/-! ### Tiles (R329) -/

/-- The handle of a tile where it stands. -/
def State.handleAt (s : State) (e : Nat × Nat) : Word :=
  let t := s.tileAt e.1 e.2
  mkHandle e.1 t.owner e.2 t.serial

/-- The tiles of a slot that a save of a linked set records: those it owns, but for a settled tile on which no member still
works; they are in the order of their cores and logical slots (DEDUCED, log 44). -/
def State.saveTiles (s : State) (set : List Nat) (slot : Nat) : List (Nat × Nat) :=
  (s.owned slot).filter fun e =>
    (s.tileAt e.1 e.2).st != .settling || set.any fun n => (s.slotAt n).worksOn (s.handleAt e)

/-- A tile as its record shows it. -/
def Tile.recorded (t : Tile) : Tile :=
  if t.st = .settling then { t with st := if t.full = BitVec.allOnes 288 then .live else .filling } else t

/-- The words of a tile record at an offset; a discardable tile has its state only. -/
def tileWords (off : Nat) (t : Tile) (old : Word) : AreaWords :=
  let st := off + 0x9000
  (if t.disc then [] else t.lines.flatMap fun e => wordsAt (off + 128 * e.1) (wideWords 16 e.2.toNat)) ++
  wordsAt st (BitVec.ofNat 64 (t.head + t.tid * 2 ^ 48) :: ((upto 4 0).map fun i => BitVec.ofNat 64 (t.shareAt i).word) ++
    [BitVec.ofNat 64 (t.query 5), old, 0]) ++
  wordsAt (st + 0x40) (wideWords 5 t.full.toNat) ++ wordsAt (st + 0x70) (t.refill.getD [])

/-! ### The context of a task (R326, R327) -/

/-- SSTATE (R327). -/
def Slot.sstate (k : Slot) : Nat :=
  if k.fault.handler then (if k.st = .solo then 5 else 6)
  else
    match k.st with
    | .both => 2
    | .meetA => 3
    | .meetX => 4
    | _ => 1

/-- What a save of kind yield point keeps of accumulators (R166): KEEP; all of them otherwise. -/
structure SaveKind where
  kind : Nat
  keep : BitVec 32 := BitVec.allOnes 32
  dropt : Bool := false
deriving DecidableEq, Repr

/-- The engines' state and the queues are saved: a full save, or one of kind BREAK. -/
def SaveKind.full (y : SaveKind) : Bool := y.kind != 2

/-- The accumulators whose regions hold data. -/
def Slot.accSaved (k : Slot) (y : SaveKind) : List Nat :=
  (upto k.grantA 0).filter fun n => y.keep.getLsbD n && !(k.accTagOf n).disc

def cfgWord (c : MCfg) : Word := fieldsWord [(c.fa.toNat, 0), (c.fb.toNat, 4), (c.sr.toNat, 8)]

/-- The rows of a top-k, each rank below k as R242 gives it. -/
def topWords (off : Nat) (t : TopK) : AreaWords :=
  (upto 128 0).flatMap fun i => wordsAt (off + 64 * i) ((upto t.k 0).map fun q => BitVec.ofNat 64 (t.read i q))

/-- The sum over the copy groups of expected minus landed. -/
def Slot.pendBytes (k : Slot) : Nat := sumOf (k.cg.toList.map fun g => (g.exp - g.land).toNat)

/-- The TOTAL of a save (R327). -/
def saveTotal (nacc ntile : Nat) : Nat := 0x10000 * (1 + nacc) + 0xA000 * ntile

/-- Header and registers: what every kind of save writes. -/
def Slot.baseWords (k : Slot) (slot : Nat) (y : SaveKind) (cmds : List (Engine × Cmd)) (ntile next : Nat) : AreaWords :=
  let t := k.task
  wordsAt 0 [fieldsWord [(0x5356394B, 0), (1, 32), (y.kind, 48), (k.sstate, 56)], t.taskId,
    fieldsWord [(t.queue, 0), (coreOf slot % 4, 12), (placeOf slot, 14), (t.seq.toNat, 32)],
    fieldsWord [(k.grantA, 0), (ntile, 16), (cmds.length, 32),
      ((cmds.filter fun e => e.1 == .copy && e.2.kind e.1 == 1).length, 48)],
    BitVec.ofNat 64 k.pendBytes, BitVec.ofNat 64 (saveTotal k.grantA ntile),
    fieldsWord ((k.accSaved y).map fun n => (1, n)), BitVec.ofNat 64 next] ++
  wordsAt 0x40 k.a.g.toList ++ wordsAt 0x140 k.x.g.toList ++
  wordsAt 0x240 [k.a.pc, k.x.pc, fieldsWord [(k.a.p.toNat, 0), (k.x.p.toNat, 8)], BitVec.ofNat 64 (k.tin.getD 0)] ++
  wordsAt 0x280 [k.fault.cause.setWidth 64, k.fault.addr, k.fault.pc, k.fault.info, k.fault.ret,
    if k.fault.handler then 1 else 0, k.overcount.setWidth 64, k.a.issued, k.x.issued, k.statNum.setWidth 64,
    k.routeDepth.setWidth 64, k.routeDrops.setWidth 64, BitVec.ofNat 64 k.grantT, BitVec.ofNat 64 k.grantA,
    BitVec.ofNat 64 k.grantV] ++
  wordsAt 0x4C0 (k.cg.toList.flatMap fun g =>
    [fieldsWord [(g.exp.toNat, 0), (g.gen.toNat, 48)], fieldsWord [(g.land.toNat, 0), (g.pend.toNat, 48)]]) ++
  (k.rng.filter fun e => e.1 < 15 && e.2.bound).flatMap fun e =>
    wordsAt (0x540 + 16 * e.1) [e.2.ident, fieldsWord [(e.2.len, 0), (if e.2.tensor then 1 else 0, 62), (1, 63)]]

/-- Queues, matrix and vector state: what a full save adds. -/
def Slot.fullWords (k : Slot) (cmds : List (Engine × Cmd)) : AreaWords :=
  wordsAt 0x300 k.dqAx ++ wordsAt 0x400 k.dqXa ++
  wordsAt 0x480 [fieldsWord (k.tok.toList.zip ((upto 8 0).map (8 * ·))),
    fieldsWord [(k.dqAx.length, 0), (k.dqXa.length, 8), (k.bqAx.length, 16), (k.bqXa.length, 24)],
    boolsWord k.bqAx, boolsWord k.bqXa] ++
  wordsAt 0x630 [cfgWord k.cfg, if k.win.opened then cfgWord k.win.cfg else 0,
    fieldsWord [(k.win.opened.toNat, 0), (k.win.retained.length, 1), (k.win.charges.length, 8)],
    fieldsWord [(k.topk.k, 0), (k.win.topk.k, 4)], BitVec.ofNat 64 k.mstack.length] ++
  (k.m.filter fun e => 1 ≤ e.1 && e.1 ≤ 6).flatMap (fun e => wordsAt (0x650 + 16 * e.1) (wideWords 2 e.2.toNat)) ++
  wordsAt 0x6C0 (k.mstack.reverse.flatMap fun m => wideWords 2 m.toNat) ++
  wordsAt 0x800 (k.win.retained.flatMap fun c => c.words .matrix 0) ++
  wordsAt 0x1800 (k.win.charges.map fun e => fieldsWord [(bits e.1.toNat 0 32, 0), (e.2, 32)]) ++
  topWords 0x2000 k.topk ++ topWords 0x4000 k.win.topk ++
  (k.v.flatMap fun e => wordsAt (0x6000 + 512 * e.1) (wideWords 64 e.2.toNat)) ++
  wordsAt 0xA000 (cmds.flatMap fun e => e.2.words e.1 (e.2.kind e.1))

/-- Accumulator regions. -/
def Slot.accWords (k : Slot) (y : SaveKind) : AreaWords :=
  (k.accSaved y).flatMap fun n =>
    (k.acc.filter fun e => e.1 / 128 == n).flatMap fun e =>
      wordsAt (0x10000 * (1 + n) + 512 * (e.1 % 128)) (wideWords 64 e.2.toNat)

/-- The context of a slot's task as its area holds it. -/
def State.areaWords (s : State) (set : List Nat) (slot : Nat) (y : SaveKind) (next : Nat) : AreaWords :=
  let k := s.slotAt slot
  let cmds := if y.full then k.allCmds else []
  let tiles := s.saveTiles set slot
  k.baseWords slot y cmds tiles.length next ++ (if y.full then k.fullWords cmds else []) ++ k.accWords y ++
  (tiles.zip (upto tiles.length 0)).flatMap fun e =>
    let t := (s.tileAt e.1.1 e.1.2).recorded
    let t := if y.dropt then { t with disc := true } else t
    tileWords (0x10000 * (1 + k.grantA) + 0xA000 * e.2) t (mkHandle e.1.1 t.owner e.1.2 t.serial)

/-- The TOTAL a save of a slot's task would have now. -/
def State.totalOf (s : State) (set : List Nat) (slot : Nat) : Nat :=
  saveTotal (s.slotAt slot).grantA (s.saveTiles set slot).length

/-- Writes an area: every byte below TOTAL that no word gives is zero. -/
def State.writeArea (s : State) (area total : Nat) (ws : AreaWords) : State :=
  let clear := { s with mem := s.mem.filter fun e => e.1 < area || area + total ≤ e.1 }
  ws.foldl (fun t e => if e.2 = 0 then t else t.wrPhys (area + e.1) 8 e.2.toNat) clear

/-- What the model keeps of a saved task beside its area (DEDUCED, log 44). -/
def State.savedOf (s : State) (set : List Nat) (slot : Nat) (y : SaveKind) (head : Bool) (linked : List Nat) : Saved :=
  let k := s.slotAt slot
  { task := k.task, kind := y.kind, c := coreOf slot % 4, t := placeOf slot, head := head, linked := linked,
    groups := k.groups, ratom := k.ratom, pending := k.pending.filter (·.async),
    tinUsed := k.tinUsed, heldA := k.a.held, heldX := k.x.held,
    cmds := (if y.full then k.allCmds else []),
    aside := [k.cAside.length, k.mAside.length, k.vAside.length],
    accTag := k.accTag,
    tiles := (s.saveTiles set slot).map fun e => { (s.tileAt e.1 e.2).recorded with lines := [] }, rng := k.rng,
    cgWide := k.cg.toList.map (·.wide) }

/-! ### Reading an area back (R330) -/

/-- The memory of an area alone, so that reading it is short. -/
def State.areaView (s : State) (area total : Nat) : State :=
  { s with mem := s.mem.filter fun e => area ≤ e.1 && e.1 < area + total }

/-- The words at an offset of an area. -/
def State.areaWs (s : State) (area off n : Nat) : List Word := s.rdWords (area + off) n
def State.areaW (s : State) (area off : Nat) : Nat := s.rdPhys (area + off) 8

/-- The value of `n` words at an offset. -/
def State.areaWide (s : State) (area off n : Nat) : Nat := s.rdPhys (area + off) (8 * n)

/-- The handle rewrite of R330: old handles with the new ones. -/
abbrev Handles := List (Nat × Word)

def rewriteHandle (m : Handles) (w : Word) : Word :=
  if bits w.toNat 32 32 ≠ 0 then w
  else
    match m.find? fun e => e.1 == w.toNat with
    | some e => e.2
    | none => w

/-- A command of the area: its operands rewritten, with what only the model knows of it. -/
def readCmd (m : Handles) (w : List Word) (c : Cmd) : Cmd :=
  let instr := (wordsInstr w).getD c.instr
  { c with instr := instr, ops := (w.drop 3).take (max c.ops.length (if c.ops = [] then 5 else 0)) |>.map (rewriteHandle m),
           charged := bit (w.getD 0 0).toNat 4, done := bits (w.getD 0 0).toNat 24 40, sent := bits (w.getD 0 0).toNat 24 40,
           handles := c.handles.map (rewriteHandle m) }

/-- The entries of an area, with the engine each belongs to. -/
def State.readCmds (s : State) (area : Nat) (m : Handles) (v : Saved) : List (Engine × Cmd) :=
  (v.cmds.zip (upto v.cmds.length 0)).map fun e => (e.1.1, readCmd m (s.areaWs area (0xA000 + 64 * e.2) 8) e.1.2)

/-- The entries of one engine: the queue, and those set aside at its end. -/
def splitAside (l : List (Engine × Cmd)) (e : Engine) (n : Nat) : List Cmd × List Cmd :=
  let q := (l.filter fun x => x.1 == e).map (·.2)
  (q.take (q.length - n), q.drop (q.length - n))

/-- Rows of a top-k read back; empty entries end a row. -/
def State.readTop (s : State) (area off k : Nat) : TopK :=
  { k := k, rows := (upto 128 0).foldl (fun m i =>
      let row := (s.areaWs area (off + 64 * i) k).filter fun w => w.toNat ≠ 0xFFFFFFFFFF800000
      SMap.set m [] i (row.map fun w => (w.extractLsb' 0 32, w.extractLsb' 32 32))) [] }

def cfgOf (w : Nat) : MCfg := ⟨BitVec.ofNat 4 (bits w 0 4), BitVec.ofNat 4 (bits w 4 4), BitVec.ofNat 3 (bits w 8 3)⟩

/-- A sequencer read back. -/
def State.readSeq (s : State) (area off pcOff pOff issOff : Nat) (m : Handles) (held : List (BitVec 8)) (awG : BitVec 32)
    (awP : BitVec 8) : Seq :=
  let g := (s.areaWs area off 32).map (rewriteHandle m)
  { g := Vector.ofFn fun i => g.getD i.val 0, p := BitVec.ofNat 8 (s.rdPhys (area + pOff) 1) ||| 1,
    pc := BitVec.ofNat 64 (s.areaW area pcOff), issued := BitVec.ofNat 64 (s.areaW area issOff), held := held,
    awG := awG, awP := awP }

/-- The registers that entries of the restored queues will write (R33). -/
def awaitedOf (cmds : List (Engine × Cmd)) (st : Stream) : BitVec 32 × BitVec 8 :=
  let q := cmds.foldl (fun (q : Seq) e =>
    let o := Instr.engOut e.2.instr
    if pusher e.1 = st ∧ !e.2.recorded ∧ !(e.2.started) then q.await o.gs o.p else q) {}
  (q.awG, q.awP)

/-- The range slots read back. -/
def State.readRng (s : State) (area : Nat) (v : Saved) : SMap Rng :=
  (upto 15 0).foldl (fun m i =>
    let w := s.areaW area (0x540 + 16 * i)
    let x := s.areaW area (0x548 + 16 * i)
    if !bit x 63 then m
    else
      let old := SMap.get v.rng {} i
      let len := bits x 0 41
      let r : Rng :=
        if bit x 62 then { bound := true, tensor := true, ident := BitVec.ofNat 64 w, len := len, lo := old.lo, hi := old.hi }
        else { bound := true, ident := BitVec.ofNat 64 w, len := len, lo := w, hi := w + len }
      SMap.set m {} i r) []

/-- The accumulators read back. -/
def State.readAcc (s : State) (area nacc data : Nat) : SMap (BitVec 4096) :=
  (upto nacc 0).foldl (fun m n =>
    if bit data n then
      (upto 128 0).foldl (fun m i =>
        SMap.set m 0 (128 * n + i) (BitVec.ofNat 4096 (s.areaWide area (0x10000 * (1 + n) + 512 * i) 64))) m
    else m) []

/-- The state a saved SSTATE enters (R327, R330). -/
def stateOfSst (n : Nat) : SlotSt :=
  match n with
  | 2 | 6 => .both
  | 3 => .meetA
  | 4 => .meetX
  | _ => .solo

/-- What a yield point does not save (R166 item 3, R229, R246) is as at task start. -/
def State.readFull (s : State) (area : Nat) (m : Handles) (v : Saved) (k : Slot) : Slot :=
  let cmds := s.readCmds area m v
  let cnt := fun (i : Nat) => s.rdPhys (area + 0x488 + i) 1
  let c := splitAside cmds .copy (v.aside.getD 0 0)
  let mx := splitAside cmds .matrix (v.aside.getD 1 0)
  let vx := splitAside cmds .vector (v.aside.getD 2 0)
  let win := s.areaW area 0x640
  let tk := s.areaW area 0x648
  let bools := fun (off n : Nat) => (upto n 0).map (bit (s.areaW area off))
  { k with
    dqAx := (s.areaWs area 0x300 (cnt 0)).map (rewriteHandle m)
    dqXa := (s.areaWs area 0x400 (cnt 1)).map (rewriteHandle m)
    bqAx := bools 0x490 (cnt 2)
    bqXa := bools 0x498 (cnt 3)
    tok := Vector.ofFn fun i => s.rdPhys (area + 0x480 + i.val) 1
    cfg := cfgOf (s.areaW area 0x630)
    topk := s.readTop area 0x2000 (bits tk 0 4)
    win :=
      if bit win 0 then
        { opened := true, cfg := cfgOf (s.areaW area 0x638), topk := s.readTop area 0x4000 (bits tk 4 4)
          retained := ((upto (bits win 1 7) 0).filterMap fun i =>
            (wordsCmd (s.areaWs area (0x800 + 64 * i) 8)).map fun e =>
              { e.1 with ops := e.1.ops.map (rewriteHandle m), started := true })
          charges := (s.areaWs area 0x1800 (bits win 8 8)).map fun w =>
            (rewriteHandle m (BitVec.ofNat 64 (bits w.toNat 0 32)), bits w.toNat 32 3) }
      else {}
    mstack := ((upto (bits (s.areaW area 0x650) 0 5) 0).map fun i =>
      BitVec.ofNat 128 (s.areaWide area (0x6C0 + 16 * i) 2)).reverse
    m := (upto 6 1).foldl (fun x i => SMap.set x 0 i (BitVec.ofNat 128 (s.areaWide area (0x650 + 16 * i) 2))) []
    v := (upto 32 0).foldl (fun x i => SMap.set x 0 i (BitVec.ofNat 4096 (s.areaWide area (0x6000 + 512 * i) 64))) []
    cq := c.1, cAside := c.2, mq := mx.1, mAside := mx.2, vq := vx.1, vAside := vx.2
    a := let w := awaitedOf cmds .a; { k.a with awG := w.1, awP := w.2 }
    x := let w := awaitedOf cmds .x; { k.x with awG := w.1, awP := w.2 }
    nextCmd := 1 + maxOf (cmds.map fun e => e.2.num) }

/-- A task's context read back from its area into the slot it is placed in; `m` rewrites its handles. -/
def State.readSlot (s : State) (area : Nat) (m : Handles) (v : Saved) (quotaT quotaA : Nat) : Slot :=
  let w := fun off => s.areaW area off
  let hdr := w 0x18
  let sst := bits (w 0) 56 8
  let tin := w 0x258
  let accData := bits (w 0x30) 0 32
  let k : Slot :=
    { st := stateOfSst sst
      a := s.readSeq area 0x40 0x240 0x250 0x2B8 m v.heldA 0 0
      x := s.readSeq area 0x140 0x248 0x251 0x2C0 m v.heldX 0 0
      cg := Vector.ofFn fun i =>
        let e := w (0x4C0 + 16 * i.val)
        let l := w (0x4C8 + 16 * i.val)
        { exp := BitVec.ofNat 48 e, gen := BitVec.ofNat 16 (bits e 48 16), land := BitVec.ofNat 48 l,
          pend := BitVec.ofNat 16 (bits l 48 16), wide := v.cgWide.getD i.val false }
      rng := s.readRng area v
      acc := s.readAcc area (bits hdr 0 16) accData
      accTag := v.accTag.filter fun e => bit accData e.1
      quotaT := quotaT, grantT := w 0x2E0, quotaA := quotaA, grantA := w 0x2E8, grantV := w 0x2F0
      fault := { cause := BitVec.ofNat 8 (w 0x280), addr := BitVec.ofNat 64 (w 0x288), pc := BitVec.ofNat 64 (w 0x290),
                 info := BitVec.ofNat 64 (w 0x298), ret := BitVec.ofNat 64 (w 0x2A0), handler := bit (w 0x2A8) 0 }
      overcount := BitVec.ofNat 32 (w 0x2B0), statNum := BitVec.ofNat 8 (w 0x2C8), routeDepth := BitVec.ofNat 4 (w 0x2D0)
      routeDrops := BitVec.ofNat 32 (w 0x2D8)
      task := v.task, tin := if tin = 0 then none else some tin, tinUsed := v.tinUsed, groups := v.groups
      ratom := v.ratom, pending := v.pending, xHeld := bit (w 0x2A8) 0, nextCmd := 1 }
  if v.kind = 2 then k else s.readFull area m v k

end Sys2Proof.Machine
end

