-- ==== Sys2Proof/Machine/Tasks.lean ====
section
/-! DEFINITION. The life of a task: the kernel header (R290, R291), the choice of a core (R20, R21, R330), START (R14, R362),
and the end of CLOSING (R15, R49). -/

namespace Sys2Proof.Machine

/-! ### The kernel header (R290, R291) -/

/-- A code-address field: syllable 0 to 14, line below LINES, the rest zero. -/
def codeField (v lines : Nat) : Option (Nat × Nat) :=
  if bits v 0 4 = 15 ∨ v / 2 ^ 29 ≠ 0 ∨ lines ≤ bits v 4 25 then none else some (bits v 4 25, bits v 0 4)

/-- A header at a virtual address, checked for its layout. -/
def parseHeader (va h argBytes part : Nat) : Option KHdr :=
  let f := fun (off n : Nat) => bits h (8 * off) (8 * n)
  let img := bits (va + f 8 8) 0 64
  let lines := f 0x10 4
  let mask := f 0x20 4
  let x := f 0x18 4
  let hd := codeField (f 0x1C 4) lines
  let ok := f 0 4 == 0x484B394B && f 4 2 == 1 && decide (f 6 2 < 2) && f 8 8 % 64 == 0 && decide (1 ≤ lines) &&
    decide (lines ≤ 2 ^ 25) && (x == 0xFFFFFFFF || (codeField x lines).isSome) && (mask == 0 || hd.isSome) &&
    mask &&& 0xFFF7F87F == 0 && f 0x24 1 == argBytes && f 0x25 1 == 0 && decide (f 0x26 2 ≤ part) &&
    f 0x28 8 == 0 && f 0x30 8 == 0 && f 0x38 8 == 0
  match codeField (f 0x14 4) lines with
  | none => none
  | some e =>
    if ok then
      some { base := img, lines := lines, entry := codeAddr img e.1 e.2,
             handler := (hd.map fun a => codeAddr img a.1 a.2).getD 0, trapMask := BitVec.ofNat 32 mask, part := f 0x26 2,
             priv := bit (f 6 2) 0 }
    else none

/-- The header lies in the service region firmware registered (R291, R301; DEDUCED, log 51). -/
def Boot.holds (b : Boot) (pa : Nat) : Bool := decide (b.svcBase ≤ pa) && decide (pa + 64 ≤ b.svcBase + b.svcLen)

/-- The one reading of a job's header: the reading, or the cause and reason of the failure; none while memory is late
(DEDUCED, log 51). -/
def State.readHeader (s : State) (j : Job) : Option (Except (BitVec 8 × BitVec 8) KHdr) :=
  let va := j.f 0
  match s.access j.asid va 64 (fun _ => none) (fun _ => none) with
  | .bad b => some (.error (b.cause, b.reason))
  | .void _ => some (.error (cDATA_LOST, 0))
  | .wait _ => none
  | .ok bs =>
    match parseHeader va (leNat (bs.map fun b => s.homeByte b.2.2)) j.recsz j.part with
    | none => some (.error (cILLEGAL, 0x13))
    | some h =>
      if h.priv && !(bs.head?.any fun b => b.2.2.tier == 0 && s.boot.holds b.2.2.pa) then some (.error (cPRIV, 0))
      else some (.ok h)

/-! ### Where a record may run (R21, R356) -/

/-- The role set of a core meets the job's (R17, R21). -/
def State.roleMeets (s : State) (core : Nat) (j : Job) : Bool := ((s.coreAt core).roles &&& j.roles) != 0

/-- The free task slots of a core, those whose vector bank is retired left out (R65). -/
def State.freeSlots (s : State) (core : Nat) : List Nat :=
  (slotsOf core).filter fun n => (s.slotAt n).st == .free && (s.coreAt core).vecBanks.getLsbD (placeOf n)

/-- The tile store of a core can take a partition of `part` slots and `acc` accumulators in a slot, beside those of its
other tasks (R21, R336). -/
def State.fits (s : State) (slot part acc : Nat) : Bool :=
  let core := coreOf slot
  let q := s.coreAt core
  let others := (slotsOf core).filter fun n => n != slot && (s.slotAt n).st != .free
  decide (sumOf (others.map fun n => (s.slotAt n).quotaT) + part ≤ q.capTile) &&
    decide (sumOf (others.map fun n => (s.slotAt n).quotaA) + acc ≤ q.capAcc) &&
    decide (part ≤ SMap.get q.quotaT 512 (placeOf slot)) && decide (acc ≤ SMap.get q.quotaA 32 (placeOf slot))

/-- The slot of a core that a task of a job would take: the lowest free one that fits, in a core in service whose roles
meet the job's. -/
def State.takes (s : State) (j : Job) (core part acc : Nat) : Option Nat :=
  if s.roleMeets core j && (s.coreAt core).health == 0 then (s.freeSlots core).find? fun n => s.fits n part acc else none

/-- The cores of a die, its clusters, and the cores of a cluster (numbered by its first core). -/
def coresOf (die : Nat) : List Nat := upto 48 (48 * die)
def clustersOf (die : Nat) : List Nat := (upto 12 0).map fun c => 48 * die + 4 * c

/-- The slots a record of a job would take in a target: one for each member, in different cores of the cluster. -/
def State.places (s : State) (j : Job) (target : Nat) : Option (List Nat) :=
  if j.spr ≤ 1 then (s.takes j target j.part j.acc).map fun n => [n]
  else
    let l := (upto 4 target).filterMap fun c => s.takes j c j.part j.acc
    if j.spr ≤ l.length then some (l.take j.spr) else none

/-- The targets of a die for a job, and those whose place and roles permit it (DEDUCED, log 52). -/
def targets (j : Job) (die : Nat) : List Nat := if j.spr ≤ 1 then coresOf die else clustersOf die
def State.permits (s : State) (j : Job) (target : Nat) : Bool :=
  if j.spr ≤ 1 then s.roleMeets target j
  else decide (j.spr ≤ ((upto 4 target).filter fun c => s.roleMeets c j).length)

/-- The live tiles of a target imaged from the job's affinity tensor (R21). -/
def State.affine (s : State) (j : Job) (target : Nat) : Nat :=
  if j.affinity = 0xFFFF then 0
  else
    sumOf ((upto (if j.spr ≤ 1 then 1 else 4) target).map fun c =>
      ((s.tilesOf c).filter fun e => e.2.st == .live && e.2.tid == j.affinity && e.2.asid == j.asid).length)

/-- The free slots of a target. -/
def State.roomOf (s : State) (j : Job) (target : Nat) : Nat :=
  sumOf ((upto (if j.spr ≤ 1 then 1 else 4) target).map fun c => (s.freeSlots c).length)

/-- The target R21 chooses: most affine tiles, then most free slots where no target has any, then the lowest index
(DESIGN CHOICE, log 21). -/
def State.chooseTarget (s : State) (j : Job) (die : Nat) : Option Nat :=
  let l := (targets j die).filter fun t => (s.places j t).isSome
  let score := if l.any fun t => decide (0 < s.affine j t) then s.affine j else s.roomOf j
  l.foldl (fun (best : Option Nat) t =>
    match best with
    | none => some t
    | some b => if score b < score t then some t else some b) none

/-! ### Placing a record -/

/-- A member of a record is placed in a slot, which enters START (R14, R15; DESIGN CHOICE, log 18). -/
def State.placeMember (s : State) (id record member slot : Nat) : State :=
  let j := s.jobAt id
  let h := j.hdr.getD {}
  let t := s.updSlot slot fun _ =>
    { st := .start, quotaT := j.part, quotaA := j.acc, nextCmd := 1
      task := { taskId := BitVec.ofNat 64 s.nextTask, job := id, queue := j.queue, seq := j.seq, record := record,
                member := member, spr := j.spr, tenant := j.tenant, asid := j.asid, flags := BitVec.ofNat 5 (j.f 11),
                priv := h.priv, base := h.base, lines := h.lines, entry := h.entry, handler := h.handler,
                trapMask := h.trapMask, part := j.part, args := j.f 1, recsz := j.recsz } }
  { t with nextTask := s.nextTask + 1 }

/-- A record is placed: one task for each of its slots. -/
def State.placeRecord (s : State) (id record : Nat) (slots : List Nat) : State :=
  (slots.zip (upto slots.length 0)).foldl (fun t e => t.placeMember id record e.2 e.1) s

/-- The first record of a chunk, and the chunk without it. -/
def Chunk.next (c : Chunk) : Option (Nat × Chunk) :=
  match c.runs with
  | [] => none
  | (r, n) :: rest => some (r, { c with runs := if n ≤ 1 then rest else (r + 1, n - 1) :: rest })

/-- Runs records of a job's chunk `i` while they fit. -/
def State.fillChunk (s : State) (id i : Nat) : Nat → State
  | 0 => s
  | n + 1 =>
    let j := s.jobAt id
    match j.chunks[i]? with
    | none => s
    | some c =>
      match c.next, s.places j c.core with
      | some (r, d), some slots =>
        ((s.placeRecord id r slots).updJob id fun x => { x with chunks := putAt x.chunks i d }).fillChunk id i n
      | _, _ => s

/-- Runs records of every chunk of a die's cores that fit, and drops chunks that are used up. -/
def State.fillChunks (s : State) (die : Nat) : State :=
  s.jobs.foldl (fun t e =>
    let n := (t.jobAt e.1).chunks.length
    let u := (upto n 0).foldl (fun (u : State) i =>
      if ((u.jobAt e.1).chunks[i]?).any fun c => c.core / 48 == die then u.fillChunk e.1 i 192 else u) t
    u.updJob e.1 fun j => { j with chunks := j.chunks.filter fun c => !c.runs.isEmpty }) s

/-! ### Choosing what to run next (R21, R330) -/

/-- A saved task of a set that RESUME returned waits to be placed. -/
structure Waiting where
  area : Nat
  v : Saved
deriving DecidableEq, Repr

def State.waitingSaves (s : State) : List Waiting :=
  s.saved.filterMap fun e =>
    match e.2 with
    | some v => if v.resume.isSome then some ⟨e.1, v⟩ else none
    | none => none

/-- The die mask a resumed task may use: RESUME's, or the card's. -/
def State.resumeMask (s : State) (w : Waiting) : BitVec 4 :=
  let m := w.v.resume.getD 0
  if m = 0 then (s.jobAt w.v.task.job).dieMask else m

/-- The partition and accumulators a save area asks for. -/
def State.areaGrants (s : State) (area : Nat) : Nat × Nat := (s.areaW area 0x2E0, s.areaW area 0x2E8)

/-- The members of a saved set: their areas, the named one first. -/
def Waiting.areas (w : Waiting) : List Nat := w.area :: w.v.linked

/-- A saved member may take a slot. -/
def State.memberFits (s : State) (j : Job) (area slot : Nat) : Bool :=
  let g := s.areaGrants area
  (s.slotAt slot).st == .free && (s.coreAt (coreOf slot)).vecBanks.getLsbD (placeOf slot) && s.roleMeets (coreOf slot) j &&
    (s.coreAt (coreOf slot)).health == 0 && s.fits slot g.1 g.2

/-- The slots of a die that a saved set would take: a single task the lowest core with room and its lowest free slot, a
linked set one cluster with each member at its pair. -/
def State.resumePlaces (s : State) (w : Waiting) (die : Nat) : Option (List Nat) :=
  let j := s.jobAt w.v.task.job
  if !(s.resumeMask w).getLsbD die then none
  else if w.v.linked.isEmpty then
    ((coresOf die).flatMap slotsOf).find? (s.memberFits j w.area) |>.map fun n => [n]
  else
    (clustersOf die).findSome? fun c =>
      let l := w.areas.map fun a =>
        let v := ((SMap.get s.saved none a).getD {})
        (a, 4 * (c + v.c) + v.t)
      if l.all fun e => s.memberFits (s.jobAt ((SMap.get s.saved none e.1).getD {}).task.job) e.1 e.2 then
        some (l.map (·.2)) else none

/-- What a die task scheduler may do next: restore a saved set, or deal from a job. -/
inductive Choice where
  | restore (w : Waiting) (slots : List Nat)
  | deal (id target : Nat)
deriving DecidableEq, Repr

/-- The rank of a choice: priority, the time its job became eligible, and a saved task ahead of its job's records. -/
def State.rank (s : State) : Choice → Nat × Nat × Nat
  | .restore w _ => let j := s.jobAt w.v.task.job; (j.prio, j.order, 0)
  | .deal id _ => let j := s.jobAt id; (j.prio, j.order, 1)

def rankLess (a b : Nat × Nat × Nat) : Bool :=
  decide (b.1 < a.1) || (a.1 == b.1 && (decide (a.2.1 < b.2.1) || (a.2.1 == b.2.1 && decide (a.2.2 < b.2.2))))

/-- The jobs a die may deal from: eligible or dealing, with undealt records, the die in their mask, and a target. -/
def State.dealChoices (s : State) (die : Nat) : List Choice :=
  s.jobs.filterMap fun e =>
    let j := e.2
    if (j.st == .eligible || j.st == .dealing) && j.dieMask.getLsbD die && decide (0 < j.undealt) then
      (s.chooseTarget j die).map fun t => .deal e.1 t
    else none

def State.restoreChoices (s : State) (die : Nat) : List Choice :=
  s.waitingSaves.filterMap fun w => (s.resumePlaces w die).map fun l => .restore w l

/-- The choice of a die task scheduler. -/
def State.schedule (s : State) (die : Nat) : Option Choice :=
  (s.restoreChoices die ++ s.dealChoices die).foldl (fun (best : Option Choice) c =>
    match best with
    | none => some c
    | some b => if rankLess (s.rank c) (s.rank b) then some c else some b) none

/-! ### DEAL_CHUNK (R20) -/

/-- Takes `n` records of a job for a chunk: returned ones first, then the next of the array. -/
def Job.takeRecords (j : Job) (n : Nat) : Job × List (Nat × Nat) :=
  let back := j.returned.take n
  let more := min (n - back.length) (j.count - j.next)
  ({ j with returned := j.returned.drop n, next := j.next + more },
    back.map (fun r => (r, 1)) ++ if more = 0 then [] else [(j.next, more)])

/-- A job with its header read is dealt: one chunk to the target, and its records placed while they fit. -/
def State.dealTo (s : State) (id die target : Nat) : State :=
  let j := s.jobAt id
  let c := ((targets j die).filter (s.permits j)).length
  let r := j.takeRecords (max 1 (j.undealt / (2 * c)))
  let t := s.updJob id fun _ =>
    { r.1 with st := .dealing, chunks := r.1.chunks ++ [{ core := target, runs := r.2 }] }
  let t := t.updJob id Job.dealtAll
  t.fillChunks die

/-- A job whose COUNT is 0 becomes DONE once it is eligible (R19; DEDUCED, log 49). -/
def State.finishEmpty (s : State) : State :=
  s.jobs.foldl (fun t e => if e.2.st = .eligible ∧ e.2.count = 0 then t.finishJob e.1 else t) s

/-- DEAL_CHUNK (R19 to R21, R291): chunks already dealt go on into free slots; then the die's scheduler deals a chunk of the
job it chooses, whose header it reads at the first deal. -/
def execDealChunk (die : Nat) (s : State) : Out :=
  let s := s.finishEmpty.fillChunks die
  match s.schedule die with
  | some (.deal id target) =>
    let j := s.jobAt id
    match j.hdr with
    | some _ => .next (s.dealTo id die target)
    | none =>
      match s.readHeader j with
      | none => .next s
      | some (.error e) => .next (s.failJob id e.1 e.2)
      | some (.ok h) => .next ((s.updJob id fun j => { j with hdr := some h }).dealTo id die target)
  | _ => .next s

/-! ### TASK_START (R14, R362) -/

/-- The bytes of the argument record, as a load of the task reads them. -/
def State.readArgs (s : State) (slot : Nat) : Part (State × List Byte) :=
  let t := (s.slotAt slot).task
  match s.access t.asid (t.args + t.recsz * t.record) t.recsz lsXl (fun _ => none) with
  | .bad b => .bad b
  | .wait c => .wait c
  | .void pa => .void pa
  | .ok bs =>
    let u := (s.holdAll t.asid bs).touchAll slot bs
    .ok (u, bs.map fun b => u.ldByte slot b)

/-- The registers a task starts with (R14). -/
def startRegs (t : Task) (bs : List Byte) : Vector Word 32 :=
  Vector.ofFn fun i =>
    if 1 ≤ i.val ∧ i.val ≤ 16 then BitVec.ofNat 64 (leNat ((bs.drop (8 * (i.val - 1))).take 8))
    else if i.val = 17 then BitVec.ofNat 64 t.member
    else if i.val = 18 then BitVec.ofNat 64 t.record
    else 0

/-- TASK_START (R14, R15): a slot in START loads its registers and enters SOLO; the record's page may fail (R362). -/
def execTaskStart (slot : Nat) (s : State) : Out :=
  let k := s.slotAt slot
  if k.st ≠ .start then .next s
  else
    match s.readArgs slot with
    | .bad b => .next (s.killTask slot b.cause b.reason)
    | .wait c => .next (s.stallCause (coreOf slot) k.task.tenant c)
    | .void pa => .fault (.noMemory pa)
    | .ok (t, bs) =>
      let g := startRegs k.task bs
      .next (t.updSlot slot fun k =>
        { k with st := .solo, a := { k.a with g := g, p := 1, pc := k.task.entry }, x := { k.x with g := g, p := 1 } })

/-! ### CLOSING_END (R15, R49, R234) -/

/-- The end of a task that has completed (R15, R49 item 1): dirty lines written back, an open window discarded, shares and
tiles settled and counted, the tin released, rings and groups left, the slot FREE, and its record's completion counted
(DEDUCED, log 17). -/
def State.endTask (s : State) (slot : Nat) : State :=
  let t := ((s.writeBackWhere slot fun _ => true).leaveWaits slot).discardWindow slot
  let r := t.settleTask slot
  let parked := (s.slotAt slot).tinUsed.length
  let n := r.2 + parked
  let task := (s.slotAt slot).task
  let ovr := decide (0 < n) || (s.slotAt slot).overcount != 0
  ((((r.1.releaseTin slot).endSync slot).orphanAtomics slot).freeSlot slot).memberDone task.job task.record task.spr ovr

/-- CLOSING_END (R15). -/
def execClosingEnd (slot : Nat) (s : State) : Out :=
  if (s.slotAt slot).st = .closing ∧ s.quiet slot ∧ (s.slotAt slot).pending = [] then .next (s.endTask slot) else .next s

end Sys2Proof.Machine
end

