-- ==== Sys2Proof/Machine/Preempt.lean ====
section
/-! DEFINITION. Pre-emption: linked sets (R325), the steps of a full save (R323), kind BREAK (R319), `YIELD` (R166, R354),
the delivery of a fault at A-seq's boundary (R170, R318, R28), and the mailbox operations that save (R322, R324). -/

namespace Sys2Proof.Machine

/-! ### Linked sets (R325) -/

/-- The slot that a pair (C, T) names in the cluster of a slot. -/
def slotOfPair (slot p : Nat) : Nat := slot / 16 * 16 + p

/-- The slots of the cluster of a slot. -/
def clusterSlots (slot : Nat) : List Nat := upto 16 (slot / 16 * 16)

/-- The slots that the shares of a slot's tiles name. -/
def State.namedBy (s : State) (slot : Nat) : List Nat :=
  (s.owned slot).flatMap fun e =>
    ((s.tileAt e.1 e.2).share.toList.filter fun h => decide (0 < h.n)).filterMap fun h => h.who.map (slotOfPair slot)

/-- A slot holds a task that a pre-emption can save (DEDUCED, log 55). -/
def SlotSt.savable (st : SlotSt) : Bool := st.runs || st == .start

/-- One task is linked to another: by a share in either direction, or as members of one cluster group (DEDUCED, log 43). -/
def State.linked (s : State) (a b : Nat) : Bool :=
  let ta := (s.slotAt a).task
  let tb := (s.slotAt b).task
  a != b && (s.slotAt b).st.savable &&
    ((s.namedBy a).contains b || (s.namedBy b).contains a || (ta.job == tb.job && ta.record == tb.record))

/-- The set linked to a slot's task, directly or transitively, the named one first, then in increasing slot
(DEDUCED, log 43). -/
def State.linkedSet (s : State) (slot : Nat) : List Nat :=
  let grow := fun (_ : Nat) (l : List Nat) => (clusterSlots slot).filter fun n => l.contains n || l.any fun m => s.linked m n
  slot :: (iter 16 grow [slot]).filter (· != slot)

/-- The task is linked to no other. -/
def State.alone (s : State) (slot : Nat) : Bool := (s.linkedSet slot).length == 1

/-! ### The areas (R323 step 1) -/

/-- One area for each member of a set; none where one is missing or would be too small (DEDUCED, log 43). -/
def State.takeAreas (s : State) (set : List Nat) : List Nat → Option (State × List Nat)
  | [] => some (s, [])
  | n :: r =>
    let t := (s.slotAt n).task.tenant
    if (s.tenAt t).saveSize < s.totalOf set n then none
    else
      match s.popPool t with
      | none => none
      | some (u, a) =>
        match u.takeAreas set r with
        | none => none
        | some (v, l) => some (v, a :: l)

/-! ### The engines quiesce (R323 step 2) -/

/-- The copy engine ends what is over; nothing further starts (R227; DEDUCED, log 46). -/
def State.quiesceCopy (s : State) (slot : Nat) : State := (s.finishHead .copy slot).getD s

/-- The matrix engine finishes its command, and in an open window goes on with the queue (R234). -/
def State.quiesceMatrix (s : State) (slot : Nat) : Nat → State
  | 0 => s
  | n + 1 =>
    match (s.slotAt slot).mq with
    | [] => s
    | c :: _ =>
      if c.started then
        match s.finishHead .matrix slot with
        | some t => t.quiesceMatrix slot n
        | none => s
      else if (s.slotAt slot).win.opened && (s.slotAt slot).hasTok c.wait then
        match s.matrixHead slot c with
        | .runs t d => (t.started .matrix slot d).quiesceMatrix slot n
        | _ => s
      else s

/-- The vector engine finishes its command unless it is stalled (R269). -/
def State.quiesceVector (s : State) (slot : Nat) : State := (s.finishHead .vector slot).getD s

/-- Entries set aside for a fault that was not delivered stand in their queue again: they meet it anew (R28). -/
def Slot.unsetAside (k : Slot) : Slot :=
  let back := fun (n : BitVec 3) => !k.fault.handler || k.pending.any fun t => t.source == n && !t.async && !t.later
  let k := if back 2 then { k with cq := k.cq ++ k.cAside, cAside := [] } else k
  let k := if back 3 then { k with mq := k.mq ++ k.mAside, mAside := [] } else k
  if back 4 then { k with vq := k.vq ++ k.vAside, vAside := [] } else k

/-- The bytes of a running exchange that have counted as landed (R223). -/
def XTag.landedBytes (x : XTag) (self : Nat) : Nat :=
  let es := x.cal.getD []
  sumOf ((es.zip (upto es.length 0)).map fun e =>
    if e.1.dst = self then (if x.ended.contains e.2 then e.1.bytes else SMap.get x.received 0 e.2) else 0)

/-- A `DRUN` under way is noted with what has landed (R227). -/
def State.noteDrun (s : State) (slot : Nat) : State :=
  s.updSlot slot fun k =>
    { k with cq := k.cq.map fun c =>
        if Instr.isDrun c.instr ∧ c.started then { c with aux := (s.xtagAt (s.keyOf slot c)).landedBytes s.pkg } else c }

/-- The engines of a slot quiesce, and its waits are withdrawn (R150, R186, R193; DEDUCED, log 46). -/
def State.quiesce (s : State) (slot : Nat) : State :=
  let t := (s.quiesceCopy slot).quiesceMatrix slot 200
  let t := (t.quiesceVector slot).noteDrun slot
  ((t.updSlot slot Slot.unsetAside).leaveWaits slot).withdraw slot

/-! ### The save (R323 steps 3 and 4) -/

/-- Writes the context of a member into its area. -/
def State.writeMember (s : State) (set : List Nat) (y : SaveKind) (slot area : Nat) (rest : List Nat) : State :=
  let head := set.head? == some slot
  let y := if head then y else { kind := 1 }
  let t := s.writeBackWhere slot fun _ => true
  let u := t.writeArea area (t.totalOf set slot) (t.areaWords set slot y (rest.headD 0))
  { u with saved := SMap.set u.saved none area (some (t.savedOf set slot y head (if head then rest else []))) }

/-- Writes the context of every member; areas are chained in the order of the set. -/
def State.writeMembers (s : State) (set : List Nat) (y : SaveKind) : List Nat → List Nat → State
  | n :: ns, a :: as => (s.writeMember set y n a as).writeMembers set y ns as
  | _, _ => s

/-- The tiles of a member leave its cluster; one that a task outside the set still works on stays as an orphan
(DEDUCED, log 44). -/
def State.leaveTiles (s : State) (set : List Nat) (slot : Nat) : State :=
  let kept := s.saveTiles set slot
  let busy := fun e => (clusterSlots slot).any fun n => !set.contains n && (s.slotAt n).worksOn (s.handleAt e)
  (s.owned slot).foldl (fun t e =>
    t.updTile e.1 e.2 fun x => if x.st = .settling ∧ busy e then { x with orphan := true } else x.gone (kept.contains e)) s

/-- A saved member leaves its slot, which becomes FREE; a request that waited for it through the mailbox is DONE (R322). -/
def State.leaveSlot (s : State) (slot area : Nat) : State :=
  let t := match (s.slotAt slot).pre with
    | some r => if r.mailbox then { s.mbDone 0 with boot := { (s.mbDone 0).boot with mbb := BitVec.ofNat 64 area } } else s
    | none => s
  { t with
    ratoms := t.ratoms.map fun e => (e.1, e.2.map fun r => if r.slot = slot then { r with slot := Config.slots } else r)
    slots := SMap.set t.slots {} slot {} }

/-- Saves the linked set of a slot's task (R323 to R325): `y` is the kind of the named member. None where an area is missing
or too small. -/
def State.saveSet (s : State) (slot : Nat) (y : SaveKind) : Option State :=
  let set := s.linkedSet slot
  match s.takeAreas set set with
  | none => none
  | some (t, areas) =>
    let q := set.foldl (fun t n => t.quiesce n) t
    let w := q.writeMembers set y set areas
    let g := set.foldl (fun t n => t.leaveTiles set n) w
    some ((set.zip areas).foldl (fun t e => t.leaveSlot e.1 e.2) g)

/-! ### Delivery at A-seq's boundary (R28, R170, R318) -/

/-- The order of R318 among pending faults: X-seq's bundle, the engines, asynchronous causes. -/
def Trap.rank (t : Trap) : Nat := if t.async then 8 + t.cause.toNat else t.source.toNat

/-- The fault to be delivered next. -/
def Slot.nextFault (k : Slot) : Option Trap :=
  k.dueFaults.foldl (fun (best : Option Trap) t =>
    match best with
    | none => some t
    | some b => if t.rank < b.rank then some t else some b) none

/-- A fault is no longer pending. -/
def State.dropFault (s : State) (slot : Nat) (t : Trap) : State :=
  s.updSlot slot fun k => { k with pending := k.pending.erase t }

/-- Before a save takes effect at a boundary, faults that go to the handler and asynchronous ones are delivered; any other
is left, and the faulting state is saved (R28; DEDUCED, log 54). -/
def State.beforeSave (s : State) (slot : Nat) : Nat → State
  | 0 => s
  | n + 1 =>
    match (s.slotAt slot).nextFault with
    | none => s
    | some t =>
      if t.async || (s.slotAt slot).routes t.cause then
        ((s.dropFault slot t).takeFault slot t (s.slotAt slot).a.pc).beforeSave slot n
      else s

def Instr.isXinv : Instr → Bool
  | .xinv .. => true
  | _ => false

/-- A-seq stands in an `XINV` that waits, which a pre-emption waits for (R199). -/
def State.inXinv (s : State) (slot : Nat) : Bool :=
  match s.fetchAt slot .a (s.slotAt slot).a.pc with
  | .ok f => Instr.isXinv f.instr
  | _ => false

/-- The kind of the save at this boundary: BREAK where a `BREAK` waits to be delivered (R28, R319). -/
def Slot.saveKind (k : Slot) : SaveKind :=
  match k.nextFault with
  | some t => { kind := if t.cause = cBREAK then 3 else 1 }
  | none => { kind := 1 }

/-- A request ends with FULL; the task runs on (R322). -/
def State.preFull (s : State) (slot : Nat) : State :=
  let t := match (s.slotAt slot).pre with
    | some r => if r.mailbox then s.mbDone 2 else s
    | none => s
  t.updSlot slot fun k => { k with pre := none }

/-- Every member of the set of a slot can stop at a boundary now (DEDUCED, log 55). -/
def State.canStop (s : State) (slot : Nat) : Bool :=
  (s.linkedSet slot).all fun n => (s.slotAt n).st.runs && !(s.inXinv n)

/-- The faults pending at the boundaries of a set are dealt with. -/
def State.boundaries (s : State) (slot : Nat) : State :=
  (s.linkedSet slot).foldl (fun t n => t.beforeSave n 8) s

/-- A full pre-emption of a slot's set takes effect, where every member can stop; else it waits (R323). -/
def State.preemptNow (s : State) (slot : Nat) : State :=
  let t := s.boundaries slot
  if !t.canStop slot then t
  else (t.saveSet slot (t.slotAt slot).saveKind).getD (t.preFull slot)

/-- PREEMPT_TIMEOUT (R324): a pre-emption whose time has come and that has not taken effect at a `YIELD` is made full. -/
def execPreemptTimeout (slot : Nat) (s : State) : Out :=
  match (s.slotAt slot).pre with
  | some r => if (s.slotAt slot).st.runs ∧ ¬ s.time.ult r.deadline then .next (s.preemptNow slot) else .next s
  | none => .next s

/-- PREEMPT (R322 to R324). -/
def execPreempt (a _b : BitVec 64) (s : State) : Out :=
  let slot := bits a.toNat 0 10
  let mode := bits a.toNat 12 2
  if mode = 0 ∨ mode = 3 then .next (s.mbDone 7)
  else if Config.slots ≤ slot ∨ !(s.slotAt slot).st.savable then .next (s.mbDone 3)
  else
    let d := if mode = 2 then 1000 * bits a.toNat 16 24 else 0
    let t := s.updSlot slot fun k => { k with pre := some { deadline := s.time + BitVec.ofNat 64 d, mailbox := true } }
    if d = 0 ∧ (t.slotAt slot).st.runs then .next (t.preemptNow slot) else .next t

/-- A fault of cause BREAK saves the task; without an area it kills (R319). -/
def State.breakTask (s : State) (slot : Nat) : State :=
  (s.saveSet slot { kind := 3 }).getD (s.killTask slot cBREAK 0)

/-- A pre-emption whose time has come meets the fault at this boundary (R28 item 1). -/
def Slot.meetsPreempt (k : Slot) (now : Word) (t : Trap) : Bool :=
  match k.pre with
  | some r => !now.ult r.deadline && !t.async && !k.routes t.cause
  | none => false

/-- FAULT_DELIVER (R170, R318): the fault first in order is delivered at A-seq's boundary, or in CLOSING to the driver
(R15). -/
def execFaultDeliver (slot : Nat) (s : State) : Out :=
  let k := s.slotAt slot
  match k.nextFault with
  | none => .next s
  | some t =>
    if k.st = .closing then .next ((s.dropFault slot t).takeFault slot t k.a.pc)
    else if !k.st.runs then .next s
    else if k.meetsPreempt s.time t then .next (s.preemptNow slot)
    else if t.cause = cBREAK then .next ((s.dropFault slot t).breakTask slot)
    else .next ((s.dropFault slot t).takeFault slot t k.a.pc)

/-! ### YIELD (R166, R354) -/

/-- The records of a job that have completed: dealt, and no longer in a chunk, a slot or an area (R354). -/
def State.completedRecords (s : State) (id : Nat) : List Nat :=
  let j := s.jobAt id
  (upto j.next 0).filter fun r =>
    !(j.returned.contains r || j.chunks.any (fun c => c.runs.any fun e => decide (e.1 ≤ r) && decide (r < e.1 + e.2)) ||
      s.slots.any (fun e => e.2.st != .free && e.2.task.job == id && e.2.task.record == r) ||
      s.saved.any fun e => match e.2 with
        | some v => v.task.job == id && v.task.record == r
        | none => false)

/-- The package's buddy: p XOR 1 unless firmware set another (R354). -/
def State.buddyPkg (s : State) : Nat := s.buddyOf.getD (s.pkg ^^^ 1)

/-- A buddy save (R354): the state R166 names, in an area of the pool while it is copied, mirrored with the card and the
record states. A pool without an area skips it (DEDUCED, log 55). -/
def State.buddySave (s : State) (slot : Nat) (y : SaveKind) : State :=
  match s.takeAreas [slot] [slot] with
  | none => s
  | some (t, areas) =>
    let k := t.slotAt slot
    let area := areas.headD 0
    let b := t.writeBackWhere slot fun _ => true
    let ws := b.areaWords [slot] slot y 0
    let u := b.writeArea area (b.totalOf [slot] slot) ws
    let j := u.jobAt k.task.job
    let img : BuddyImg :=
      { pkg := u.pkg, queue := k.task.queue, seq := k.task.seq.toNat, card := (upto 16 0).map fun i => SMap.get j.field 0 i,
        completed := u.completedRecords k.task.job, record := k.task.record, image := ws.filter fun e => e.2 != 0 }
    (u.pushPool k.task.tenant area).send (.buddy u.buddyPkg img)

/-- A waiting job that an offer under YIELD policy 1 would let in (R17, R166): of higher priority, with undealt records,
permitted on the die, and with the yielding slot the one it would take. -/
def State.offered (s : State) (slot : Nat) : Bool :=
  let j := s.jobAt (s.slotAt slot).task.job
  let t : State := { s with slots := SMap.set s.slots {} slot {} }
  s.jobs.any fun e =>
    let w := e.2
    (w.st == .eligible || w.st == .dealing) && decide (0 < w.undealt) && decide (j.prio < w.prio) &&
      w.dieMask.getLsbD (dieOf slot) &&
      ((t.places w (if w.spr ≤ 1 then coreOf slot else coreOf slot / 4 * 4)).getD []).contains slot

/-- An offer applies (R166). -/
def State.offerApplies (s : State) (slot : Nat) : Bool :=
  let k := s.slotAt slot
  (s.jobAt k.task.job).yieldPolicy == 1 && k.st == .solo && s.alone slot && s.offered slot && (s.takeAreas [slot] [slot]).isSome

/-- The task saved by an offer returns to its job as RESUME would return it, and is counted (R166, R309). -/
def State.offerSave (s : State) (slot : Nat) (y : SaveKind) : State :=
  let t := (s.slotAt slot).task.tenant
  let area := (s.tenAt t).savePool
  match s.saveSet slot y with
  | none => s
  | some u =>
    let back := fun (v : Option Saved) => v.map fun v => { v with resume := some 0, order := u.nextOrder }
    let w := { u with saved := SMap.upd u.saved none area back, nextOrder := u.nextOrder + 1 }
    w.updTen t fun e => { e with yields := e.yields + 1 }

/-- `YIELD` with a request pending (R166 items 2 and 4, R234). -/
def State.yieldPending (t : State) (h : Hdr) (y : SaveKind) : Body :=
  let n := t.cur.slot
  let k := t.me
  if k.st = .solo ∧ t.alone n ∧ !k.win.opened then
    if !t.quiet n then .stall t.park
    else
      let u := t.retire h
      .served ((u.saveSet n y).getD (u.preFull n))
  else
    let b := (t.linkedSet n).foldl (fun t m => if m = n then t else t.beforeSave m 8) t
    if !b.canStop n then .stall b
    else
      let u := b.retire h
      .served ((u.saveSet n { kind := 1 }).getD (u.preFull n))

/-- `YIELD` with none (R166 item 1): an offer of policy 1, or a buddy save (R354), which wait as a yield point does. -/
def State.yieldFree (t : State) (h : Hdr) (y : SaveKind) : Body :=
  let n := t.cur.slot
  let k := t.me
  if t.offerApplies n then
    if k.win.opened then .served ((t.retire h).offerSave n { kind := 1 })
    else if !t.quiet n then .stall t.park
    else .served ((t.retire h).offerSave n y)
  else if (t.jobAt k.task.job).buddy ∧ k.st = .solo ∧ t.alone n ∧ !k.win.opened then
    if !t.quiet n then .stall t.park
    else
      let u := t.retire h
      .served (u.buddySave n y)
  else .done t

/-- YIELD (R166). -/
def execYield (h : Hdr) (dropt : Bool) (keep : BitVec 32) (s : State) : Out :=
  s.issueSeq h [] [] fun t =>
    match (upto 32 0).find? fun i => keep.getLsbD i && decide (t.me.grantA ≤ i) with
    | some i => .bad ⟨cSHAPE, 0, BitVec.ofNat 64 i⟩
    | none =>
      let y : SaveKind := { kind := 2, keep := keep, dropt := dropt }
      match t.me.pre with
      | some _ => t.yieldPending h y
      | none => t.yieldFree h y

end Sys2Proof.Machine
end

