-- ==== Sys2Proof/Machine/Resume.lean ====
section
/-! DEFINITION. The return of saved tasks: RESUME and the placement of a saved set (R57, R322, R330), PUSHSAVE and DROP
(R321, R322). -/

namespace Sys2Proof.Machine

/-! ### Tiles (R57, R330) -/

/-- A share of a restored tile: one that names the task itself follows it to its new pair. -/
def Share.follow (h : Share) (old new : Nat) : Share := if h.who = some old then { h with who := some new } else h

/-- The tile of a record as it stands after a resume, before any refill. -/
def State.recordTile (s : State) (slot rec_ : Nat) (v : Saved) (old : Tile) (ser : BitVec 12) : Tile :=
  let t := s.rdTileState slot rec_ ser
  let sh : Fin 5 → Share := fun j => (t.share.get j).follow (v.c * 4 + v.t) (pairOf slot)
  let t := { t with drained := old.drained, parking := old.parking, share := Vector.ofFn sh }
  let lines := ((upto 288 0).filter t.isFull).foldl (fun m l => SMap.set m 0 l (s.rdTileLine rec_ l)) []
  let t := if t.disc then t.vacate else { t with lines := lines }
  t.settleIfZero

/-- The tile records of an area are allocated afresh in the slot's core, lowest free slot first: old handles with new ones.
None where the core has no free logical slot (DEDUCED, log 47). -/
def State.restoreTiles (s : State) (slot : Nat) (v : Saved) : List Nat → List Tile → Handles → Option (State × Handles)
  | [], _, m => some (s, m)
  | r :: rs, olds, m =>
    match s.lowestFree (coreOf slot) with
    | none => none
    | some i =>
      let a := s.allocate slot (coreOf slot) i (s.recordTile slot r v (olds.headD {}))
      a.1.restoreTiles slot v rs olds.tail (m ++ [(s.rdPhys (r + 0x9030) 4, a.2)])

/-- The addresses of the tile records of an area. -/
def State.recordsOf (s : State) (area : Nat) : List Nat :=
  let w := s.areaW area 0x18
  (upto (bits w 16 16) 0).map fun i => area + 0x10000 * (1 + bits w 0 16) + 0xA000 * i

/-- The refill of a discardable tile starts: it counts in no group, pops and pushes no token, and is tagged by the bindings
restored (R57). Without a descriptor of the tile's format the tile stays VACATED. -/
def State.startRefill (s : State) (slot : Nat) (h : Word) : State :=
  match (s.tileOf h).refill.bind wordsCmd with
  | none => s
  | some (c, _) =>
    match s.descFor slot (tidOf (c.op 0)) with
    | .error _ => s
    | .ok (t, td) =>
      if td.fmt ≠ (s.tileOf h).fmt then s
      else
        let c := { c with td := td, handles := [h], waiting := true, started := true, recorded := true, charged := false,
                          done := 0, sent := 0, cgGen := 0x10000 }
        let tags := (t.slotAt slot).tagsFor c.foot
        (t.updTileOf h fun x => { x with st := .filling, full := freshFull x.fmt, lines := [] }).updSlot slot fun k =>
          { k with cq := { c with tags := tags } :: k.cq, locals := raiseTags k.locals tags, homes := raiseTags k.homes tags }

/-- The discardable tiles of a slot with a refill command are refilled. -/
def State.startRefills (s : State) (slot : Nat) : State :=
  (s.owned slot).foldl (fun t e =>
    let x := t.tileAt e.1 e.2
    if x.st = .vacated ∧ x.disc then t.startRefill slot (t.handleAt e) else t) s

/-! ### The task (R184, R227, R330) -/

/-- The range counters count the entries restored (R117). -/
def Slot.retag (k : Slot) : Slot :=
  (k.cq ++ k.cAside).foldl (fun k c =>
    if c.ended then k else { k with locals := raiseTags k.locals c.tags, homes := raiseTags k.homes c.tags }) k

/-- What a `DRUN` received while its task was saved counts in its copy group (DEDUCED, log 46). -/
def State.landDruns (s : State) (slot : Nat) : State :=
  (s.slotAt slot).cq.foldl (fun t c =>
    if Instr.isDrun c.instr ∧ c.started then
      let n := (t.xtagAt (t.keyOf slot c)).landedBytes t.pkg
      t.updSlot slot fun k => k.landed (copyGroup c.instr) c.cgGen (n - c.aux)
    else t) s

/-- A remote atomic of the task is sent again under its number (R184). -/
def State.resendAtomic (s : State) (slot : Nat) : State :=
  match (s.slotAt slot).ratom with
  | none => s
  | some n =>
    match SMap.get s.ratoms none n with
    | none => s
    | some r =>
      let again := { r with slot := slot, live := true, tries := 0, sentAt := s.time, heldHome := false, old := none }
      ({ s with ratoms := SMap.set s.ratoms none n (some again) }).send (.atomReq r.dst n r.op)

/-- The kernel reading of an adopted task, which its image does not hold (R355). -/
def State.withKernel (s : State) (t : Task) : Task :=
  let h := (s.jobAt t.job).hdr.getD {}
  if t.lines = 0 then
    { t with priv := h.priv, base := h.base, lines := h.lines, entry := h.entry, handler := h.handler, trapMask := h.trapMask }
  else t

/-- The saved task of an area. -/
def State.savedAt (s : State) (area : Nat) : Saved := (SMap.get s.saved none area).getD {}

/-- The tiles of the members of a set, in order (DEDUCED, log 47). -/
def State.restoreAllTiles (s : State) : List (Nat × Nat) → Handles → Option (State × Handles)
  | [], m => some (s, m)
  | (area, slot) :: r, m =>
    let v := s.savedAt area
    match s.restoreTiles slot v (s.recordsOf area) v.tiles m with
    | none => none
    | some (t, m) => t.restoreAllTiles r m

/-- A member runs again: its state is read back, and its area returns to the pool (R330; DEDUCED, log 48). -/
def State.restoreMember (s : State) (m : Handles) (area slot : Nat) : State :=
  let v := s.savedAt area
  let v := { v with task := s.withKernel v.task }
  let g := s.areaGrants area
  let k := ((s.areaView area (s.areaW area 0x28)).readSlot area m v g.1 g.2).retag
  let t := (s.updSlot slot fun _ => k).startRefills slot
  let t := (t.landDruns slot).resendAtomic slot
  ({ t with saved := SMap.set t.saved none area none }).pushPool v.task.tenant area

/-- A saved set runs again in the slots chosen. -/
def State.restoreSet (s : State) (w : Waiting) (slots : List Nat) : Option State :=
  let l := w.areas.zip slots
  let t := l.foldl (fun t e => t.updSlot e.2 fun _ => { st := .start, task := t.withKernel (t.savedAt e.1).task }) s
  match t.restoreAllTiles l [] with
  | none => none
  | some (u, m) => some (l.foldl (fun x e => x.restoreMember m e.1 e.2) u)

/-- The kernel header of the job of a saved set, which an adopted task needs; none while memory is late. -/
def State.kernelOf (s : State) (w : Waiting) : Option (Except (BitVec 8 × BitVec 8) State) :=
  let id := w.v.task.job
  if w.v.task.lines ≠ 0 ∨ (s.jobAt id).hdr.isSome then some (.ok s)
  else
    match s.readHeader (s.jobAt id) with
    | none => none
    | some (.error e) => some (.error e)
    | some (.ok h) => some (.ok (s.updJob id fun j => { j with hdr := some h }))

/-- RESTORE (R330): where the die's scheduler chooses a saved set, the set is placed and runs again (DEDUCED, log 45). -/
def execRestore (die : Nat) (s : State) : Out :=
  match s.schedule die with
  | some (.restore w slots) =>
    match s.kernelOf w with
    | none => .next s
    | some (.error e) => .next (s.failJob w.v.task.job e.1 e.2)
    | some (.ok t) => .next ((t.restoreSet w slots).getD s)
  | _ => .next s

/-! ### Mailbox operations (R322) -/

/-- RESUME (R322, R330; DEDUCED, log 45). -/
def execResume (a b : BitVec 64) (s : State) : Out :=
  match SMap.get s.saved none a.toNat with
  | some v =>
    if v.head && v.resume.isNone then
      let v := { v with resume := some (b.extractLsb' 0 4), order := s.nextOrder }
      .next (({ s with saved := SMap.set s.saved none a.toNat (some v), nextOrder := s.nextOrder + 1 }).mbDone 0)
    else .next (s.mbDone 3)
  | none => .next (s.mbDone 3)

/-- PUSHSAVE (R321, R322). -/
def execPushsave (a b : BitVec 64) (s : State) : Out :=
  let t := bits b.toNat 0 6
  if a.toNat % 0x10000 ≠ 0 ∨ Config.moduleBytes < a.toNat + (s.tenAt t).saveSize then .next (s.mbDone 3)
  else .next ((s.pushPool t a.toNat).mbDone 0)

/-! ### DROP (R322, R49, R271) -/

/-- The areas of the set an area belongs to. -/
def State.setOf (s : State) (area : Nat) : List Nat :=
  match s.saved.find? fun e => match e.2 with
      | some v => v.head && (e.1 == area || v.linked.contains area)
      | none => false with
  | some (a, some v) => a :: v.linked
  | _ => [area]

/-- The reservations of a saved window: old handle and share. -/
def State.areaCharges (s : State) (area : Nat) : List (Nat × Nat) :=
  let w := s.areaW area 0x640
  if bit w 0 then
    (s.areaWs area 0x1800 (bits w 8 8)).map fun c => (bits c.toNat 0 32, bits c.toNat 32 3)
  else []

/-- A tile record of another member once a saved task is dropped: the task's reservations withdrawn, and the shares that
name its pair settled. -/
def State.settleRecord (s : State) (rec_ pair : Nat) (charges : List (Nat × Nat)) : State :=
  let old := s.rdPhys (rec_ + 0x9030) 4
  let t := (upto 5 0).foldl (fun (t : State) j =>
    let pa := rec_ + 0x9008 + 8 * j
    let w := t.rdPhys pa 8
    let p := bits w 16 16 - (charges.filter fun c => c.1 == old && c.2 == j).length
    let n := if j < 4 ∧ bit w 36 ∧ bits w 34 2 * 4 + bits w 32 2 = pair then p else bits w 0 16
    (t.wrPhys pa 2 n).wrPhys (pa + 2) 2 p) s
  if bit (t.rdPhys (rec_ + 0x9000) 8) 18 then t
  else t.wrPhys (rec_ + 0x9000) 2 (sumOf ((upto 5 0).map fun j => t.rdPhys (rec_ + 0x9008 + 8 * j) 2))

/-- The chain of a set without an area (R325; DEDUCED, log 56). -/
def State.unchain (s : State) (set : List Nat) (area : Nat) : State :=
  let next := s.areaW area 0x38
  let t := set.foldl (fun t a => if t.areaW a 0x38 = area then t.wrPhys (a + 0x38) 8 next else t) s
  let rest := set.filter (· != area)
  let fix := fun (v : Saved) (a : Nat) =>
    { v with head := rest.head? == some a, linked := if rest.head? == some a then rest.tail else [] }
  rest.foldl (fun t a => { t with saved := SMap.upd t.saved none a fun v => v.map fun v => fix v a }) t

/-- A saved task is discarded as a kill would discard it: its window's reservations, its shares, its tin, then its ring
entries and groups (DEDUCED, log 56). -/
def State.discardSaved (s : State) (area : Nat) (v : Saved) : State :=
  let set := s.setOf area
  let charges := s.areaCharges area
  let t := (set.filter (· != area)).foldl (fun t a =>
    (t.recordsOf a).foldl (fun u r => u.settleRecord r (v.c * 4 + v.t) charges) t) s
  let tin := s.areaW area 0x258
  let n := Config.slots
  let t := t.unchain set area
  let t := t.updSlot n fun _ => { task := v.task, groups := v.groups, tin := if tin = 0 then none else some tin }
  let t := ((t.releaseTin n).endSync n).updSlot n fun _ => {}
  let orphan := fun (e : Nat × Option RAtom) =>
    (e.1, e.2.map fun r => if v.ratom = some e.1 then { r with live := false } else r)
  let t := { t with ratoms := t.ratoms.map orphan, saved := SMap.set t.saved none area none }
  t.pushPool v.task.tenant area

/-- DROP (R322; DEDUCED, log 56). -/
def execDrop (a _b : BitVec 64) (s : State) : Out :=
  match SMap.get s.saved none a.toNat with
  | none => .next (s.mbDone 3)
  | some v =>
    let t := s.discardSaved a.toNat v
    .next (((t.failJob v.task.job (if v.kind = 3 then cBREAK else cPREEMPT) 0).jobCheck v.task.job).mbDone 0)

end Sys2Proof.Machine
end

