-- ==== Sys2Proof/Machine/SysRegs.lean ====
section
/-! DEFINITION. The control registers (R59, R82, R97, R174, R176, R177) and the error logs they select (R332, R333). -/

namespace Sys2Proof.Machine

/-! ### Capacity (R59, R68) -/

/-- Why a task is over capacity, if it is (R68). -/
def State.overReason (s : State) (slot : Nat) : Option (BitVec 8) :=
  let k := s.slotAt slot
  if k.quotaT < s.used slot then some 1
  else if (s.owned slot).any fun e => decide ((s.coreAt e.1).capTile ≤ e.2) then some 2
  else if k.quotaA < k.grantA then some 3
  else none

/-! ### Error logs (R332) -/

/-- The banks of an array; none where there is no such array. -/
def arrayBanks (array : Nat) : Option Nat :=
  match array with
  | 0x00 => some 32
  | 0x01 => some 4
  | 0x02 => some 8
  | 0x03 => some 4
  | 0x04 => some 8
  | 0x05 => some 4
  | 0x06 => some 1
  | 0x07 => some 1
  | 0x10 => some 16
  | 0x11 => some 1
  | 0x20 => some 32
  | 0x21 => some 16
  | _ => none

/-- An array and bank exist. -/
def bankExists (array bank : Nat) : Bool :=
  match arrayBanks array with
  | some n => decide (bank < n)
  | none => false

/-- The key of a log outside the cores: those of the dies, then those of the package. -/
def sharedLog (core array : Nat) : Nat := (if array < 0x20 then core / 48 else 4) * 256 + array

/-- The log of an array as a core sees it, newest first. -/
def State.errLogOf (s : State) (core array : Nat) : List ErrEnt :=
  if array < 0x10 then SMap.get (s.coreAt core).errLog [] array else SMap.get s.dieLog [] (sharedLog core array)

/-- The entry `%err.sel` selects; entries never written, and those beyond 63, read 0. -/
def State.errEntry (s : State) (core : Nat) : ErrEnt :=
  let sel := (s.coreAt core).errSel.toNat
  let n := bits sel 8 16
  if n < 64 then (s.errLogOf core (bits sel 0 8)).getD n {} else {}

/-! ### Reading (R176) -/

/-- A bit as a number. -/
def b2n (b : Bool) : Nat := if b then 1 else 0

/-- The four weights registers: tenant 16k + i at [4i+3:4i]. -/
def State.weights (s : State) (k : Nat) : Word :=
  BitVec.ofNat 64 (sumOf ((upto 16 0).map fun i => (s.tenAt (16 * k + i)).weight.toNat * 2 ^ (4 * i)))

/-- The value of a control register as the sequencer in issue reads it; none where the index is not assigned. -/
def State.sysGet (s : State) (idx : Nat) : Option Word :=
  let k := s.me
  let c := s.myCore
  let n := s.cur.slot
  let w := fun (v : Nat) => some (BitVec.ofNat 64 v)
  match idx with
  | 0x000 => w (placeOf n + k.task.seq.toNat * 2 ^ 32)
  | 0x001 => w k.task.tenant
  | 0x002 => w k.task.asid
  | 0x003 => w (coreOf n % 48)
  | 0x004 => w (coreOf n % 48 / 4)
  | 0x005 => w (dieOf n)
  | 0x006 => w s.pkg
  | 0x007 => some s.time
  | 0x008 => w (k.task.flags.toNat + 32 * b2n k.task.priv)
  | 0x040 => w c.capTile
  | 0x041 => w (k.quotaT + k.grantT * 2 ^ 16 + s.used n * 2 ^ 32)
  | 0x042 => w (c.capAcc + k.quotaA * 2 ^ 8 + k.grantA * 2 ^ 16)
  | 0x043 => w c.capSlots
  | 0x044 => w c.capD
  | 0x045 => w c.capI
  | 0x046 =>
    w (b2n (c.ret.phase != 0) + 2 * b2n (s.overReason n).isSome + bits c.ret.deadline.toNat 0 32 * 2 ^ 32)
  | 0x047 => w k.grantV
  | 0x080 => w k.fault.cause.toNat
  | 0x081 => some k.fault.addr
  | 0x082 => some k.fault.pc
  | 0x083 => some k.fault.info
  | 0x084 => some k.fault.ret
  | 0x085 => w (b2n k.fault.handler)
  | 0x0C0 => some (s.weights 0)
  | 0x0C1 => some (s.weights 1)
  | 0x0C2 => some (s.weights 2)
  | 0x0C3 => some (s.weights 3)
  | 0x0C4 => w c.roles.toNat
  | 0x100 => w k.overcount.toNat
  | 0x101 => some s.mySeq.issued
  | 0x108 => w k.statNum.toNat
  | 0x110 | 0x111 | 0x112 | 0x113 | 0x114 | 0x115 | 0x116 =>
    some (SMap.get c.stall 0 ((idx - 0x110) * 64 + k.task.tenant))
  | 0x140 => w k.routeDepth.toNat
  | 0x141 => w k.routeDrops.toNat
  | 0x180 => w c.errSel.toNat
  | 0x181 => some (s.errEntry (coreOf n)).log0
  | 0x182 => some (s.errEntry (coreOf n)).log1
  | 0x184 => some c.errInj
  | _ => none

/-- An index in a privileged range (R176). -/
def sysPriv (idx : Nat) : Bool :=
  (decide (0x0C0 ≤ idx) && decide (idx ≤ 0x0FF)) || (decide (0x180 ≤ idx) && decide (idx ≤ 0x1FF))

/-- A control-register index or value that R174 refuses (DEDUCED, log 24). -/
def badSys (pc : Word) : Bad := ⟨cILLEGAL, 0x0E, pc⟩

/-- SYSRD (R174). -/
def execSysrd (h : Hdr) (d : Reg) (idx : BitVec 12) (s : State) : Out :=
  if sysPriv idx.toNat && !s.me.task.priv then .next (s.issueFault ⟨cPRIV, 0, s.cur.pc⟩ 0 s.cur.pc)
  else
    s.issueSeq h [d] [] fun t =>
      match t.sysGet idx.toNat with
      | none => .bad (badSys t.cur.pc)
      | some v => .done (t.wg d v)

/-! ### Writing (R174, R176, R333) -/

/-- The bits of `%err.inject` that are fields (R333). -/
def injMask : Word := 0x8F03FFFF

/-- A value `%err.inject` accepts. -/
def injOk (v : Word) : Bool :=
  bankExists (bits v.toNat 0 8) (bits v.toNat 8 8) && bits v.toNat 16 2 != 3 &&
    !(bit v.toNat 31 && bits v.toNat 24 4 == 0)

/-- The tenants' weights from a register write; every core sees them (R22, R176). -/
def State.setWeights (s : State) (k : Nat) (v : Word) : State :=
  (upto 16 0).foldl (fun t i => t.updTen (16 * k + i) fun e =>
    { e with weight := BitVec.ofNat 4 (bits v.toNat (4 * i) 4) }) s

/-- The effect of a write; none where the register is not assigned, not writable, or refuses the value. -/
def State.sysPut (s : State) (idx : Nat) (v : Word) : Option State :=
  match idx with
  | 0x084 =>
    if s.me.fault.handler then some (s.updMe fun k => { k with fault := { k.fault with ret := v } }) else none
  | 0x0C0 => some (s.setWeights 0 v)
  | 0x0C1 => some (s.setWeights 1 v)
  | 0x0C2 => some (s.setWeights 2 v)
  | 0x0C3 => some (s.setWeights 3 v)
  | 0x0C4 => some (s.updCore (coreOf s.cur.slot) fun c => { c with roles := v.setWidth 4 })
  | 0x108 => some (s.updMe fun k => k.clearFlags v)
  | 0x140 =>
    let n := bits v.toNat 0 4
    if n = 0 ∨ 8 < n then none else some (s.updMe fun k => { k with routeDepth := BitVec.ofNat 4 n })
  | 0x180 => some (s.updCore (coreOf s.cur.slot) fun c => { c with errSel := v.setWidth 24 })
  | 0x184 =>
    if injOk v then some (s.updCore (coreOf s.cur.slot) fun c => { c with errInj := v &&& injMask }) else none
  | _ => none

/-- SYSWR (R174). -/
def execSyswr (h : Hdr) (a : Reg) (idx : BitVec 12) (s : State) : Out :=
  if sysPriv idx.toNat && !s.me.task.priv then .next (s.issueFault ⟨cPRIV, 0, s.cur.pc⟩ 0 s.cur.pc)
  else
    s.issueSeq h [a] [] fun t =>
      match t.sysPut idx.toNat (t.rg a) with
      | none => .bad (badSys t.cur.pc)
      | some u => .done u

end Sys2Proof.Machine
end

