-- ==== Sys2Proof/Machine/Queues.lean ====
section
/-! DEFINITION. Job queues: entries and their checks (R16 to R18, R302, R309), the state block and completion records (R303,
R304), RESET (R306), launches from the device and the fabric (R26, R226, R308), and `JWAIT`. -/

namespace Sys2Proof.Machine

/-! ### The statuses of R303 -/

def qRUNNING : Nat := 0
def qDISABLED : Nat := 1
def qDELTA : Nat := 2
def qLENGTH : Nat := 3
def qGAP : Nat := 4
def qFIELD : Nat := 5
def qOWNER : Nat := 6
def qLINK : Nat := 7

/-- LOGSIZE and LOGC lie within their limits (R302). -/
def JQ.configured (q : JQ) : Bool :=
  decide (12 ≤ q.logSize) && decide (q.logSize ≤ 30) && decide (4 ≤ q.logC) && decide (q.logC ≤ 16)

/-- ENABLE is set on a configuration that opens nothing. -/
def JQ.misset (q : JQ) : Bool := q.enable && !q.configured

/-- The queue is read. -/
def JQ.opened (q : JQ) : Bool := q.enable && q.configured && q.status == qRUNNING && !q.linkStop

/-- STATUS as the state block shows it. -/
def JQ.shown (q : JQ) : Nat := if q.linkStop then qLINK else if q.misset then qFIELD else q.status

/-! ### The memory of a queue, in ASID 0 (R302) -/

/-- Reads bytes of the entry stream. -/
def State.rdRing (s : State) (q : JQ) (c : Nat) : Nat → Option (List Byte)
  | 0 => some []
  | n + 1 =>
    match s.rdVirt 0 (q.base + c % 2 ^ q.logSize) 1, s.rdRing q (c + 1) n with
    | some b, some r => some (b ++ r)
    | _, _ => none

/-- Writes bytes of the entry stream. -/
def State.wrRing (s : State) (q : JQ) (c : Nat) : List Byte → State
  | [] => s
  | b :: r => (s.wrVirt 0 (q.base + c % 2 ^ q.logSize) [b]).wrRing q (c + 1) r

/-- The 128 bytes of the state block (R303); a configuration that opens nothing shows its STATUS alone (R302). -/
def JQ.block (q : JQ) : List Byte :=
  leBytes 8 q.shown ++ leBytes 8 q.read.toNat ++ leBytes 8 (q.hostLast.toNat + b2n q.hvalid * 2 ^ 32) ++
    leBytes 8 q.devSeq.toNat ++ leBytes 8 q.cwrite.toNat ++ leBytes 8 q.haltSeq.toNat ++ leBytes 8 q.denied.toNat ++
    leBytes 72 0

/-- Writes the state block of a queue; one stopped by the loss of the Lomnik link keeps it on the base die (R307). -/
def State.showQueue (s : State) (n : Nat) : State :=
  let q := s.queueAt n
  if q.linkStop ∧ s.lomnik.lost then s
  else if q.misset then (s.wrVirt 0 q.sblk (leBytes 8 q.shown)).wrVirt 0 (q.sblk + 0x28) (leBytes 8 0)
  else s.wrVirt 0 q.sblk q.block

/-- Changes a queue and writes its state block. -/
def State.changeQueue (s : State) (n : Nat) (f : JQ → JQ) : State := (s.updQueue n f).showQueue n

/-- The queue halts at an entry (R18). -/
def State.haltQueue (s : State) (n status seq : Nat) : State :=
  s.changeQueue n fun q => { q with status := status, haltSeq := BitVec.ofNat 32 seq }

/-! ### Entries (R16 to R18, R309) -/

/-- The previous entry's fields, or the defaults of a queue reset. -/
def JQ.before (q : JQ) : SMap Word := if q.hvalid then q.prev else SMap.set [] 0 9 0xFFFF0080

/-- The indexes of the fields that a MASK names. -/
def maskFields (mask : Nat) : List Nat := (upto 16 0).filter (bit mask)

/-- The fields of an entry: those given, the others from before. -/
def mergeFields (prev : SMap Word) (mask : Nat) (ws : List Nat) : SMap Word :=
  ((maskFields mask).zip ws).foldl (fun m e => SMap.set m 0 e.1 (BitVec.ofNat 64 e.2)) prev

/-- The header of an entry. -/
structure EntryHdr where
  mask : Nat
  len : Nat
  rsvd : Nat
  seq : Nat
deriving DecidableEq, Repr

def entryHdr (w : Nat) : EntryHdr := ⟨bits w 48 16, bits w 40 8, bits w 32 8, bits w 0 32⟩

/-- The length in bytes that a MASK asks for. -/
def EntryHdr.size (h : EntryHdr) : Nat := 8 * (1 + (maskFields h.mask).length)

/-- The checks of R18 on the header: DELTA, LENGTH. -/
def JQ.headStatus (q : JQ) (h : EntryHdr) : Option Nat :=
  if !q.hvalid && !([0, 1, 2, 7, 8, 10].all (bit h.mask)) then some qDELTA
  else if h.len ≠ 1 + (maskFields h.mask).length then some qLENGTH
  else none

/-- A field value breaks FIELD (R17, R18). -/
def Job.badField (j : Job) (h : EntryHdr) : Bool :=
  let f := fun i => j.f i
  h.rsvd != 0 || bits (f 2) 8 24 != 0 || bits (f 8) 6 2 != 0 || bits (f 8) 22 42 != 0 || bits (f 9) 8 8 != 0 ||
    bits (f 9) 32 32 != 0 || bits (f 10) 3 5 != 0 || bits (f 10) 24 40 != 0 || bits (f 11) 5 59 != 0 ||
    j.recsz % 8 != 0 || decide (j.recsz < 8) || decide (128 < j.recsz) || j.spr == 0 || decide (4 < j.spr) ||
    decide (512 < j.part) || decide (32 < j.acc) || decide (2 ≤ j.yieldPolicy)

/-- The OWNER check (R309). -/
def State.badOwner (s : State) (q : JQ) (j : Job) : Bool :=
  let e := s.asidEntry j.asid
  !(s.tenAt j.tenant).valid || j.tenant != q.owner || !bit (s.rdPhys e 8) 0 || bits (s.rdPhys (e + 8) 8) 0 6 != j.tenant

/-- The sync word an address of a job names: its physical address in the synchronisation tier. -/
def State.syncTarget (s : State) (asid va : Nat) : Option Nat :=
  match s.translate asid va with
  | .ok l => if l.tier = 2 then some (l.loc va).pa else none
  | .error _ => none

/-- The dependences a card names: address and threshold (R17). -/
def Job.depFields (j : Job) : List (Nat × Nat) :=
  ((upto 4 3).map fun i => (bits (j.f i) 24 40 * 8, bits (j.f i) 0 24)).filter fun d => d.2 != 0

/-- The translation checks of FIELD. -/
def State.badTargets (s : State) (j : Job) : Bool :=
  (j.depFields.any fun d => (s.syncTarget j.asid d.1).isNone) || (j.f 7 != 0 && (s.syncTarget j.asid (j.f 7)).isNone)

/-- The checks of R18 behind the header: GAP, FIELD on values, OWNER, FIELD on translations. -/
def State.bodyStatus (s : State) (q : JQ) (h : EntryHdr) (j : Job) : Option Nat :=
  if q.hvalid ∧ h.seq ≠ (q.hostLast + 1).toNat then some qGAP
  else if j.badField h then some qFIELD
  else if s.badOwner q j then some qOWNER
  else if s.badTargets j then some qFIELD
  else none

/-- The card of an accepted entry (R17, R19). -/
def State.cardOf (s : State) (j : Job) : Job :=
  let deps := j.depFields.filterMap fun d =>
    (s.syncTarget j.asid d.1).map fun pa => (pa, d.2, decide (d.2 ≤ (s.syncWord (syncKey pa)).toNat))
  let m := BitVec.ofNat 4 (bits (j.f 9) 0 4)
  { j with
    st := .blocked, deps := deps, doneWord := if j.f 7 = 0 then none else s.syncTarget j.asid (j.f 7),
    dieMask := if m = 0 then 0xF else m }

/-- A job enters the package: blocked, or eligible where its dependences are met (R19). -/
def State.addJob (s : State) (j : Job) : State :=
  let j := j.unblock s.nextOrder
  { s.updJob s.nextJob fun _ => j with nextJob := s.nextJob + 1, nextOrder := s.nextOrder + 1 }

/-- An entry is consumed: READ, HOSTLAST and HVALID written together, then its job leaves QUEUED (R303). A job with COUNT 0
is done once it is eligible (DEDUCED, log 49). -/
def State.consume (s : State) (n size seq : Nat) (j : Job) : State :=
  let t := s.changeQueue n fun q =>
    { q with read := q.read + BitVec.ofNat 64 size, hostLast := BitVec.ofNat 32 seq, hvalid := true, prev := j.field }
  (t.addJob (t.cardOf j)).finishEmpty

/-- The entry at READ of a host queue, whose header is `h`. -/
def State.readEntry (s : State) (n : Nat) (h : EntryHdr) : State :=
  let q := s.queueAt n
  match q.headStatus h with
  | some st => s.haltQueue n st h.seq
  | none =>
    if (q.write - q.read).toNat < h.size then s
    else
      match s.rdRing q (q.read.toNat + 8) (h.size - 8) with
      | none => s
      | some bs =>
        let ws := (upto (maskFields h.mask).length 0).map fun i => leNat ((bs.drop (8 * i)).take 8)
        let j : Job := { queue := n, seq := BitVec.ofNat 32 h.seq, field := mergeFields q.before h.mask ws }
        match s.bodyStatus q h j with
        | some st => s.haltQueue n st h.seq
        | none => s.consume n h.size h.seq j

/-- The header at READ, where the doorbell covers it. -/
def State.nextHdr (s : State) (q : JQ) : Option EntryHdr :=
  if (q.write - q.read).toNat < 8 then none else (s.rdRing q q.read.toNat 8).map fun bs => entryHdr (leNat bs)

/-- WRITE − READ exceeds the ring of a host queue (R302; DEDUCED, log 57). -/
def JQ.overrun (q : JQ) : Bool := !q.device && decide (2 ^ q.logSize < (q.write - q.read).toNat)

/-- ENTRY_READ (R18, R302 to R304): one entry of a host queue is accepted, or halts the queue (DEDUCED, log 57). -/
def execEntryRead (n : Nat) (s : State) : Out :=
  let q := s.queueAt n
  if !q.opened || q.device || decide (64 ≤ q.waiting.length) then .next s
  else
    match s.nextHdr q with
    | none => .next s
    | some h => .next (if q.overrun then s.haltQueue n qFIELD h.seq else s.readEntry n h)

/-! ### Doorbells and configuration (R302, R305, R306) -/

/-- The registers of R302 and R309 take writes once STAGE reads 4 (R316). -/
def Boot.ready (b : Boot) : Bool := b.stage == 4

/-- A WRITE kept; one that breaks the ring's size halts a running host queue (R302, R305). -/
def State.doorbell (s : State) (n : Nat) (v : BitVec 64) : State :=
  let t := s.updQueue n fun q => { q with write := v }
  let q := t.queueAt n
  if q.opened && q.overrun then t.haltQueue n qFIELD (((t.nextHdr q).map (·.seq)).getD 0) else t

/-- WRITE (R302, R305). -/
def execWrite (n : Nat) (v : BitVec 64) (s : State) : Out := if s.boot.ready then .next (s.doorbell n v) else .next s

/-- ENABLE set or cleared: a halt outlives it (R18). -/
def State.setEnable (s : State) (n : Nat) (on : Bool) : State :=
  s.changeQueue n fun q =>
    let st := if q.status = qRUNNING ∨ q.status = qDISABLED then (if on && q.configured then qRUNNING else qDISABLED)
      else q.status
    { q with enable := on, status := st }

/-- ENABLE (R302). -/
def execEnable (n : Nat) (on : Bool) (s : State) : Out := if s.boot.ready then .next (s.setEnable n on) else .next s

/-- RESET takes effect (R306); on a queue stopped by the loss of the link it is ignored while the link is down (R307). -/
def State.resetQueue (s : State) (n : Nat) : State :=
  if (s.queueAt n).linkStop ∧ s.lomnik.down.isSome then s
  else
    s.changeQueue n fun q =>
      { q with read := q.write, hvalid := false, prev := [], linkStop := false,
               status := if q.enable && q.configured then qRUNNING else qDISABLED }

/-- RESET (R306). -/
def execReset (n : Nat) (s : State) : Out := if s.boot.ready then .next (s.resetQueue n) else .next s

/-- CREAD (R304). -/
def execCread (n : Nat) (v : BitVec 64) (s : State) : Out :=
  if s.boot.ready then .next (s.updQueue n fun q => { q with cread := v }) else .next s

/-! ### Completion records (R303, R304) -/

/-- The history word of a completion record. -/
def CRec.history (r : CRec) : Word :=
  BitVec.ofNat 64 (r.jobSeq.toNat + r.cause.toNat * 2 ^ 32 + b2n r.failed * 2 ^ 40 + b2n r.late * 2 ^ 41 +
    b2n r.overCnt * 2 ^ 42 + 2 ^ 63)

/-- The 64 bytes of a completion record. -/
def CRec.record (r : CRec) (devSeq lastHost : BitVec 32) : List Byte :=
  leBytes 4 devSeq.toNat ++ leBytes 4 lastHost.toNat ++ leBytes 8 (r.history.toNat % 2 ^ 43) ++ leBytes 8 r.ftime.toNat ++
    leBytes 4 r.recs ++ leBytes 4 0 ++ (r.user.flatMap fun w => leBytes 8 w.toNat) ++ leBytes 8 r.origin.toNat

/-- The K9 can reach bytes in ASID 0 now. -/
def State.reaches (s : State) (va n : Nat) : Bool :=
  match s.access 0 va n (fun _ => none) (fun _ => none) with
  | .ok _ => true
  | _ => false

/-- Writes the first waiting record, its history word, the state block, and the interrupt message, in this order (R300;
DEDUCED, log 57). -/
def State.writeRecord (s : State) (n : Nat) (r : CRec) (rest : List CRec) : State :=
  let q := s.queueAt n
  let dev := q.devSeq + 1
  let i := r.jobSeq.toNat % 1024
  let t := s.wrVirt 0 (q.cring + 64 * (q.cwrite.toNat % 2 ^ q.logC)) (r.record dev q.hostLast)
  let t := t.wrVirt 0 (q.sblk + 0x80 + 8 * i) (leBytes 8 r.history.toNat)
  let t := t.changeQueue n fun q =>
    { q with devSeq := dev, cwrite := q.cwrite + 1, waiting := rest, history := SMap.set q.history 0 i r.history }
  if q.intr = 0 then t else t.wrVirt 0 q.intr (leBytes 4 dev.toNat)

/-- The first waiting record of a queue can be written: the ring has room, and the memory can be reached (R304, R307). -/
def State.recordReady (s : State) (n : Nat) : Bool :=
  let q := s.queueAt n
  decide ((q.cwrite - q.cread).toNat < 2 ^ q.logC) && !(q.linkStop && s.lomnik.lost) && s.reaches q.sblk 128 &&
    s.reaches (q.cring + 64 * (q.cwrite.toNat % 2 ^ q.logC)) 64

/-- COMPLETION_RECORD (R304). -/
def execCompletionRecord (n : Nat) (s : State) : Out :=
  match (s.queueAt n).waiting with
  | [] => .next s
  | r :: rest => if s.recordReady n then .next (s.writeRecord n r rest) else .next s

/-! ### Launches (R26, R308, R226) -/

/-- A word of an access-control table admits a package and tenant. -/
def aclAdmits (w pkg ten : Nat) : Bool :=
  bit w 63 && (bit w 9 || bits w 0 9 == pkg) && (bit w 16 || bits w 10 6 == ten)

/-- A queue admits a launch; a host queue admits none. -/
def State.admits (s : State) (q : JQ) (pkg ten : Nat) : Bool :=
  q.device && (upto 256 0).any fun i =>
    match s.rdVirt 0 (q.acl + 8 * i) 8 with
    | some bs => aclAdmits (leNat bs) pkg ten
    | none => false

/-- A device queue can take an entry now: it runs, and fewer than 64 records wait (R304; DEDUCED, log 57). -/
def JQ.takes (q : JQ) : Bool := q.opened && q.device && decide (q.waiting.length < 64)

/-- What an entry image comes to on a queue: its header under the next SEQ, and its job; or the status it breaks. -/
def State.image (s : State) (n : Nat) (ws : List Nat) : Except Nat (EntryHdr × Job) :=
  let q := s.queueAt n
  let seq := q.hostLast + 1
  let h := { entryHdr (ws.headD 0) with seq := seq.toNat }
  match q.headStatus h with
  | some st => .error st
  | none =>
    let j : Job := { queue := n, seq := seq, field := mergeFields q.before h.mask ws.tail }
    match s.bodyStatus q h j with
    | some st => .error st
    | none => .ok (h, j)

/-- An admitted entry is appended to the ring under SEQ and consumed in the same step (R303). -/
def State.appendEntry (s : State) (n : Nat) (h : EntryHdr) (j : Job) (ws : List Nat) : State :=
  let q := s.queueAt n
  let hw := ws.headD 0 / 2 ^ 32 * 2 ^ 32 + h.seq
  let bytes := ((hw :: ws.tail).take (h.size / 8)).flatMap (leBytes 8)
  let t := (s.wrRing q q.read.toNat bytes).updQueue n fun q => { q with write := q.read + BitVec.ofNat 64 h.size }
  t.consume n h.size h.seq j

/-- A launch is refused: DENIED counts it. -/
def State.deny (s : State) (n : Nat) : State := s.changeQueue n fun q => { q with denied := q.denied + 1 }

/-- LAUNCH_PACKET (R26): denied, or read under the rules of any other entry. -/
def execLaunchPacket (n pkg ten : Nat) (entry : List (BitVec 64)) (s : State) : Out :=
  let q := s.queueAt n
  if !s.admits q pkg ten then .next ((s.deny n).send (.launchDenied pkg))
  else if !q.takes then .next s
  else
    let ws := entry.map BitVec.toNat
    match s.image n ws with
    | .error st => .next (s.haltQueue n st (q.hostLast + 1).toNat)
    | .ok (h, j) => .next (s.appendEntry n h j ws)

/-- The words of an entry image at an address, as many as its LEN gives. -/
def State.imageWords (s : State) (bs : List (Nat × Leaf × Loc)) : List Nat :=
  let b := bs.map fun x => s.homeByte x.2.2
  (upto (b.length / 8) 0).map fun i => leNat ((b.drop (8 * i)).take 8)

/-- `JPOST` with its image read. -/
def State.postImage (t : State) (d : Reg) (n : Nat) (x : Word) (ws : List Nat) : Body :=
  let q := t.queueAt n
  match t.image n ws with
  | .error _ => .bad ⟨cILLEGAL, 0x0F, x⟩
  | .ok (h, j) =>
    if !t.admits q t.pkg t.me.task.tenant then .badWith (t.deny n) ⟨cPROT, 0x0B, x⟩
    else if !q.takes then .stall t
    else .done ((t.appendEntry n h j ws).wg d (BitVec.ofNat 64 h.seq))

/-- JPOST (R226): a release at system scope of the task's earlier writes. -/
def execJpost (h : Hdr) (d a b : Reg) (s : State) : Out :=
  s.issueSeq h [d, a, b] [] fun t =>
    let x := t.rg b
    if x.toNat % 8 ≠ 0 then .bad ⟨cALIGN, 1, x⟩
    else if !t.me.copiesDone then .stall t
    else
      let t := t.releaseCache t.cur.slot 5 false
      match t.access t.me.task.asid x.toNat 8 lsXl noPr with
      | .bad e => .bad e
      | .wait c => .stall (t.memWait c)
      | .void pa => .void pa
      | .ok hd =>
        let n := 8 * max 1 (entryHdr ((t.imageWords hd).headD 0)).len
        match t.access t.me.task.asid x.toNat n lsXl noPr with
        | .bad e => .bad e
        | .wait c => .stall (t.memWait c)
        | .void pa => .void pa
        | .ok bs => (t.holdAll t.me.task.asid bs).postImage d (bits (t.rg a).toNat 0 12) x (t.imageWords bs)

/-! ### JWAIT (R226) -/

/-- The last job of a queue with a SEQ. -/
def State.jobBySeq (s : State) (n : Nat) (seq : BitVec 32) : Option Job :=
  (s.jobs.filter fun e => e.2.queue == n && e.2.seq == seq).getLast?.map (·.2)

/-- What `JWAIT` writes: cause, LATE, OVERCOUNT, UNKNOWN. -/
def waitWord (cause : BitVec 8) (late ovr unknown : Bool) : Word :=
  BitVec.ofNat 64 (cause.toNat + b2n late * 2 ^ 8 + b2n ovr * 2 ^ 9 + b2n unknown * 2 ^ 10)

/-- The record of a finished job still waits to be written. -/
def State.recordWaits (s : State) (n : Nat) (j : Job) : Bool :=
  !j.recorded || (s.queueAt n).waiting.any fun r => r.jobSeq == j.seq

/-- The result of `JWAIT`, none while the job has not ended: of the card while its record is to be written, then of the
history word; UNKNOWN where the queue retains neither (DEDUCED, log 57). -/
def State.waitResult (s : State) (n : Nat) (seq : BitVec 32) : Option Word :=
  let w := (SMap.get (s.queueAt n).history 0 (seq.toNat % 1024)).toNat
  let kept :=
    if bit w 63 && bits w 0 32 == seq.toNat then waitWord (BitVec.ofNat 8 (bits w 32 8)) (bit w 41) (bit w 42) false
    else waitWord 0 false false true
  match s.jobBySeq n seq with
  | none => some kept
  | some j =>
    if j.st = .done ∨ j.st = .failed then
      some (if s.recordWaits n j then waitWord j.cause j.late j.overCnt false else kept)
    else none

/-- JWAIT (R226): a DONE result is an acquire at system scope. -/
def execJwait (h : Hdr) (d a b : Reg) (s : State) : Out :=
  s.issueSeq h [d, a, b] [] fun t =>
    match t.waitResult (bits (t.rg a).toNat 0 12) ((t.rg b).setWidth 32) with
    | none => .stall t
    | some v =>
      let u := t.wg d v
      .done (if bits v.toNat 0 8 = 0 && !bit v.toNat 10 then u.acquireCache t.cur.slot 5 false else u)

end Sys2Proof.Machine
end

