-- ==== Sys2Proof/Machine/Registers.lean ====
section
/-! DEFINITION. The control window and the aperture: host writes of registers (R299 to R302, R309, R320, R321, R336, R356 to
R359), what the host reads there, the mailbox (R313, R314) and the mark key (R357). -/

namespace Sys2Proof.Machine

/-! ### The mark key (R357) -/

/-- Word `i` of the mark key is written, unless the key is set. -/
def Ten.putKey (e : Ten) (i : Nat) (v : Word) : Ten :=
  if e.keyWords = 0xF ∨ 4 ≤ i then e
  else
    { e with
      key := (e.key &&& ~~~((BitVec.allOnes 64).setWidth 256 <<< (64 * i))) ||| (v.setWidth 256 <<< (64 * i))
      keyWords := e.keyWords ||| BitVec.twoPow 4 i }

def Ten.clearKey (e : Ten) : Ten := { e with key := 0, keyWords := 0 }

/-- MARK_KEY (R357). -/
def execMarkKey (t i : Nat) (v : BitVec 64) (s : State) : Out := .next (if t < 64 then s.updTen t fun e => e.putKey i v else s)

/-- CLEAR (R357). -/
def execClear (t : Nat) (s : State) : Out := .next (if t < 64 then s.updTen t Ten.clearKey else s)

/-! ### The mailbox (R301, R314, R322) -/

/-- The operation that the mailbox registers name. -/
def Boot.operation (b : Boot) : Instr :=
  match b.mbOp.toNat with
  | 1 => .mailboxXinv b.mba b.mbb
  | 2 => .mailboxXinvForced b.mba b.mbb
  | 3 => .mailboxXpin b.mba b.mbb
  | 4 => .mailboxXunpin b.mba b.mbb
  | 5 => .descinv b.mba b.mbb
  | 6 => .hold b.mba b.mbb
  | 7 => .release b.mba b.mbb
  | 8 => .preempt b.mba b.mbb
  | 9 => .resume b.mba b.mbb
  | 10 => .pushsave b.mba b.mbb
  | 11 => .drop b.mba b.mbb
  | 12 => .adopt b.mba b.mbb
  | 13 => .quarantineRelease b.mba b.mbb
  | 14 => .signReport b.mba b.mbb
  | _ => .mailboxUnassigned b.mbOp b.mba b.mbb

/-- A write of MBCMD: ignored while the mailbox is busy; GO starts the operation. -/
def State.mailboxGo (s : State) (v : Word) : State :=
  if s.boot.mbBusy then s
  else
    let b := { s.boot with mbOp := v.extractLsb' 0 4, mbBusy := v.getLsbD 31 }
    { s with boot := b, agenda := if b.mbBusy then .event b.operation :: s.agenda else s.agenda }

/-- A selector with a reserved value: SIZE 3, or ALL outside XINV (R198, R314; DEDUCED, log 58). -/
def badSelector (all : Bool) (b : Word) : Bool := selSize b == 3 || (selAll b && !all)

/-- XINV through the mailbox: it stays busy while it waits. -/
def State.mailInv (s : State) (a b : Word) (force : Bool) : State :=
  if badSelector true b then s.mbDone 7
  else
    match s.xinv (invSel a b) force with
    | none => s
    | some (t, st) => t.mbDone (BitVec.ofNat 3 st)

/-- XPIN and XUNPIN through the mailbox. -/
def State.mailPin (s : State) (a b : Word) (f : State → Nat → Nat → Nat → State × Nat) : State :=
  if badSelector false b then s.mbDone 7
  else
    let r := f s (selAsid b) (sizeBits (selSize b)) a.toNat
    r.1.mbDone (BitVec.ofNat 3 r.2)

/-- MAILBOX_XINV (R314). -/
def execMailboxXinv (a b : BitVec 64) (s : State) : Out := .next (s.mailInv a b false)
/-- MAILBOX_XINV_FORCED (R314). -/
def execMailboxXinvForced (a b : BitVec 64) (s : State) : Out := .next (s.mailInv a b true)
/-- MAILBOX_XPIN (R314). -/
def execMailboxXpin (a b : BitVec 64) (s : State) : Out := .next (s.mailPin a b State.xpin)
/-- MAILBOX_XUNPIN (R314). -/
def execMailboxXunpin (a b : BitVec 64) (s : State) : Out := .next (s.mailPin a b State.xunpin)

/-- DESCINV (R203, R314): an instruction reads an entry in the step in which it issues, so none is waited for
(DEDUCED, log 58). -/
def execDescinv (a b : BitVec 64) (s : State) : Out :=
  let named := fun (k : Nat) => k / 65536 == selAsid b && (selAll b || k % 65536 == bits a.toNat 0 16)
  if selSize b = 3 then .next (s.mbDone 7)
  else
    let t := s.cores.foldl (fun t e => t.updCore e.1 fun c => { c with desc := c.desc.filter fun d => !named d.1 }) s
    .next (t.mbDone 0)

/-- The log2 of the size of the page that holds an address: that of its leaf, or of the smallest page where it has
none. -/
def State.pageBits (s : State) (asid va : Nat) : Nat :=
  match s.walk asid va with
  | .ok l => l.bits
  | .error _ => 16

/-- HOLD (R314): a move is one step, so none is under way (DEDUCED, log 58). -/
def execHold (a b : BitVec 64) (s : State) : Out :=
  let h := (selAsid b, a.toNat)
  if badSelector false b then .next (s.mbDone 7)
  else .next ({ s with holds := if s.holds.contains h then s.holds else s.holds ++ [h] }.mbDone 0)

/-- RELEASE (R314): every HOLD on the page of the address is lifted (DEDUCED, log 58). -/
def execRelease (a b : BitVec 64) (s : State) : Out :=
  let m := s.pageBits (selAsid b) a.toNat
  if badSelector false b then .next (s.mbDone 7)
  else
    .next ({ s with holds := s.holds.filter fun h => !(h.1 == selAsid b && h.2 / 2 ^ m == a.toNat / 2 ^ m) }.mbDone 0)

/-- MAILBOX_UNASSIGNED (R314): status 7, and no effect. -/
def execMailboxUnassigned (_op : BitVec 4) (_a _b : BitVec 64) (s : State) : Out := .next (s.mbDone 7)

/-! ### Writes of registers -/

/-- Every queue is DISABLED. -/
def State.queuesOff (s : State) : Bool := s.queues.all fun q => !q.2.enable

/-- A write of QCFG (R302): the fields while ENABLE is 0, then ENABLE, then RESET. -/
def State.writeQcfg (s : State) (n v : Nat) : State :=
  let on := (s.queueAt n).enable
  let t := if on then s else
    s.updQueue n fun q =>
      { q with logSize := bits v 0 5, device := bit v 8, owner := bits v 16 6, logC := bits v 24 5 }
  let t := if bit v 9 = on then t else t.setEnable n (bit v 9)
  if bit v 10 then t.resetQueue n else t

/-- A write in a queue's block (R302). -/
def State.writeQueue (s : State) (n off : Nat) (v : Word) : State :=
  let put := fun (f : JQ → JQ) => if (s.queueAt n).enable then s else s.updQueue n f
  match off with
  | 0x00 => put fun q => { q with base := bits v.toNat 6 58 * 2 ^ 6 }
  | 0x08 => s.writeQcfg n v.toNat
  | 0x10 => put fun q => { q with sblk := bits v.toNat 7 57 * 2 ^ 7 }
  | 0x18 => put fun q => { q with cring := bits v.toNat 6 58 * 2 ^ 6 }
  | 0x20 => put fun q => { q with acl := bits v.toNat 3 61 * 2 ^ 3 }
  | 0x28 => s.doorbell n v
  | 0x30 => s.updQueue n fun q => { q with cread := v }
  | 0x38 => s.updQueue n fun q => { q with intr := bits v.toNat 2 62 * 2 ^ 2 }
  | _ => s

/-- A write in a tenant function's record (R309). -/
def State.writeTenant (s : State) (t off : Nat) (v : Word) : State :=
  match off with
  | 0x00 => s.updTen t fun e => { e with valid := v.getLsbD 0, weight := v.extractLsb' 4 4 }
  | 0x08 => s.updTen t fun e => { e with poolM := bits v.toNat 6 58 * 2 ^ 6 }
  | 0x10 => s.updTen t fun e => { e with poolH := bits v.toNat 6 58 * 2 ^ 6 }
  | _ => s

/-- A write in a mark-key block (R357). -/
def State.writeMark (s : State) (t off : Nat) (v : Word) : State :=
  if off < 0x20 ∧ off % 8 = 0 then s.updTen t fun e => e.putKey (off / 8) v
  else if off = 0x20 ∧ v.getLsbD 1 then s.updTen t Ten.clearKey
  else s

/-- An offset inside `n` blocks of `k` bytes from `base`: the block and the offset in it. -/
def inBlocks (off base k n : Nat) : Option (Nat × Nat) :=
  if base ≤ off ∧ off < base + k * n then some ((off - base) / k, (off - base) % k) else none

/-- A host write in one of the global registers (R301). -/
def State.writeGlobal (s : State) (off : Nat) (v : Word) : State :=
  match off with
  | 0x010 => if s.queuesOff then { s with boot := { s.boot with asidBase := bits v.toNat 12 40 * 2 ^ 12 } } else s
  | 0x018 => if s.queuesOff then { s with boot := { s.boot with memWin := bits v.toNat 36 16 * 2 ^ 36 } } else s
  | 0x100 => s.mailboxGo v
  | 0x108 => { s with boot := { s.boot with mba := v } }
  | 0x110 => { s with boot := { s.boot with mbb := v } }
  | _ => s

/-- A host write in the control window: registers that are read-only, reserved or written only by firmware drop it. -/
def State.writeReg (s : State) (off : Nat) (v : Word) : State :=
  match inBlocks off 0x100000 64 4096, inBlocks off 0x200000 64 64, inBlocks off 0x500000 64 64, inBlocks off 0x580000 64 64 with
  | some (q, o), _, _, _ => if s.boot.ready then s.writeQueue q o v else s
  | _, some (t, o), _, _ => if s.boot.ready then s.writeTenant t o v else s
  | _, _, some (t, o), _ =>
    if o = 8 ∧ (s.tenAt t).savePool = 0 then s.updTen t fun e => { e with saveSize := bits v.toNat 16 24 * 2 ^ 16 } else s
  | _, _, _, some (t, o) => s.writeMark t o v
  | _, _, _, _ => s.writeGlobal off v

/-- REGISTER_WRITE (R301, R302, R309, R321, R336, R357). -/
def execRegisterWrite (off : Nat) (v : BitVec 64) (s : State) : Out := .next (s.writeReg off v)

/-! ### What the host reads in the control window -/

/-- The value of fields given with their lowest bits. -/
def regWord (l : List (Nat × Nat)) : Word := BitVec.ofNat 64 (sumOf (l.map fun e => e.1 * 2 ^ e.2))

def State.readGlobal (s : State) (off : Nat) : Word :=
  let b := s.boot
  match off with
  | 0x000 => 0x0B92400
  | 0x008 => regWord [(b.stage, 0)]
  | 0x010 => regWord [(b.asidBase, 0)]
  | 0x018 => regWord [(b.memWin, 0)]
  | 0x020 => regWord [(b.svcBase, 0)]
  | 0x028 => regWord [(b.svcLen, 0)]
  | 0x100 => regWord [(b.mbOp.toNat, 0), (b2n b.mbBusy, 31)]
  | 0x108 => b.mba
  | 0x110 => b.mbb
  | 0x118 => b.mbStat.setWidth 64
  | 0x501000 => s.scorr
  | 0x501008 => s.suncorr
  | 0x501010 => s.slost
  | _ => 0

def JQ.readReg (q : JQ) (off : Nat) : Word :=
  match off with
  | 0x00 => regWord [(q.base, 0)]
  | 0x08 =>
    regWord [(q.logSize, 0), (b2n q.device, 8), (b2n q.enable, 9), (q.owner, 16), (q.logC, 24), (b2n q.linkStop, 29)]
  | 0x10 => regWord [(q.sblk, 0)]
  | 0x18 => regWord [(q.cring, 0)]
  | 0x20 => regWord [(q.acl, 0)]
  | 0x28 => q.write
  | 0x30 => q.cread
  | 0x38 => regWord [(q.intr, 0)]
  | _ => 0

def Ten.readReg (e : Ten) (off : Nat) : Word :=
  match off with
  | 0x00 => regWord [(b2n e.valid, 0), (e.weight.toNat, 4)]
  | 0x08 => regWord [(e.poolM, 0)]
  | 0x10 => regWord [(e.poolH, 0)]
  | 0x50 => e.moves
  | 0x58 => e.yields
  | _ => 0

/-- The stall totals of a record overlap none of its other words: 0x18 to 0x48 (R309, R97). -/
def Ten.readRecord (e : Ten) (off : Nat) : Word :=
  if 0x18 ≤ off ∧ off < 0x50 ∧ off % 8 = 0 then SMap.get e.stall 0 ((off - 0x18) / 8) else e.readReg off

/-- SAVEPOOL to LOST (R321). -/
def Ten.readSave (e : Ten) (off : Nat) : Word :=
  match off with
  | 0x00 => regWord [(e.savePool, 0)]
  | 0x08 => regWord [(e.saveSize, 0)]
  | 0x10 => e.corr
  | 0x18 => e.uncorr
  | 0x20 => e.lost
  | _ => 0

/-- STATE of SLOTST (R15, R320). -/
def SlotSt.code : SlotSt → Nat
  | .free => 0
  | .start => 1
  | .solo => 2
  | .both => 3
  | .meetA | .meetX => 4
  | .closing => 5
  | .saving => 6
  | .killed => 7

/-- SLOTST and SLOTREC (R320). -/
def State.readSlotReg (s : State) (n off : Nat) : Word :=
  let k := s.slotAt n
  match off with
  | 0x0 => regWord [(k.st.code, 0), (k.task.tenant, 8), (k.task.queue, 16), (k.task.seq.toNat, 32)]
  | 0x8 =>
    let z := if k.st.savable then ceilDiv (s.totalOf (s.linkedSet n) n) 4096 else 0
    regWord [(k.task.record, 0), (z, 32)]
  | _ => 0

/-- The blocks of the cores (R336). -/
def Core.readBlock (c : Core) (off : Nat) : Word :=
  let r := c.ret
  if off < 0x20 ∧ off % 8 = 0 then
    regWord [(SMap.get c.quotaT 512 (off / 8), 0), (SMap.get c.quotaA 32 (off / 8), 16)]
  else
    match off with
    | 0x20 => regWord [(r.reqArray, 0), (r.reqBank, 8), (b2n (r.phase != 0 || !r.queue.isEmpty), 31)]
    | 0x28 => r.retdl.setWidth 64
    | 0x30 => regWord [(r.phase, 0), (r.relaunched, 8), (r.failed, 16), (b2n r.refused, 24)]
    | _ => 0

/-- STATE and KATFAIL of a core (R356). -/
def Core.readHealth (c : Core) : Word := regWord [(c.health.toNat, 0), (c.katFail.toNat, 8)]

/-- KEYSET; the words of the key read as zero (R357). -/
def Ten.readMark (e : Ten) (off : Nat) : Word := if off = 0x20 then regWord [(b2n (e.keyWords == 0xF), 0)] else 0

/-- The register at an offset as the host reads it; reserved offsets read zero (DEDUCED, log 72). -/
def State.readReg (s : State) (off : Nat) : Word :=
  match inBlocks off 0x100000 64 4096, inBlocks off 0x480000 16 768, inBlocks off 0x400000 256 192 with
  | some (q, o), _, _ => (s.queueAt q).readReg o
  | _, some (n, o), _ => s.readSlotReg n o
  | _, _, some (c, o) => (s.coreAt c).readBlock o
  | _, _, _ =>
    match inBlocks off 0x200000 64 64, inBlocks off 0x500000 64 64, inBlocks off 0x580000 64 64 with
    | some (t, o), _, _ => (s.tenAt t).readRecord o
    | _, some (t, o), _ => (s.tenAt t).readSave o
    | _, _, some (t, o) => (s.tenAt t).readMark o
    | _, _, _ =>
      match inBlocks off 0x440000 8 192, inBlocks off 0x460000 16 72, inBlocks off 0x5A0000 8 6 with
      | some (c, _), _, _ => (s.coreAt c).readHealth
      | _, some (i, o), _ => Config.telemetry s.time i (o / 8)
      | _, _, some (w, _) => BitVec.ofNat 64 (leNat ((upto 8 (8 * w)).map Config.publicKey))
      | _, _, _ => s.readGlobal off

/-! ### The aperture (R299, R312) -/

/-- A page that some page table under a table marks DEVONLY holds a frame. -/
def State.devOnlyUnder (s : State) (pa : Nat) : List Nat → Nat → Bool
  | [], _ => false
  | sh :: rest, table =>
    (upto (if sh = 16 then 32 else 512) 0).any fun i =>
      let pte := s.rdPhys (table + 8 * i) 8
      if !bit pte 0 then false
      else if bit pte 1 then
        match leafOf pte sh 0 with
        | .ok l => sh != 39 && l.devOnly && decide (l.base ≤ pa) && decide (pa < l.base + 2 ^ sh)
        | .error _ => false
      else s.devOnlyUnder pa rest (bits pte 8 44 * 2 ^ 8)

/-- A byte of module memory lies in a frame whose page is DEVONLY, in the table of some address space. -/
def State.devOnlyFrame (s : State) (pa : Nat) : Bool :=
  (upto 4096 0).any fun a =>
    let w := s.rdPhys (s.asidEntry a) 8
    bit w 0 && s.devOnlyUnder pa [39, 30, 21, 16] (bits w 12 40 * 2 ^ 12)

/-- The bytes of an access through the aperture that the host reaches. -/
def State.apertureByte (s : State) (pa : Nat) : Byte := if s.devOnlyFrame pa then 0 else SMap.get s.mem 0 pa

/-- The links behind an access through the aperture hold it or have lost it (DEDUCED, log 59). -/
def State.apertureHeld (s : State) (pa : Nat) : Bool :=
  (upto 8 pa).any fun a => (s.linkHolds { tier := 0, pa := a }).isSome

/-- Writes bytes through the aperture; those of DEVONLY frames are dropped. -/
def State.aperturePut (s : State) : Nat → List Byte → State
  | _, [] => s
  | pa, b :: r => (if s.devOnlyFrame pa then s else { s with mem := SMap.set s.mem 0 pa b }).aperturePut (pa + 1) r

/-- APERTURE_ACCESS (R299): eight bytes at the home; a read's answer stands in `lastRead` (DEDUCED, log 59;
DEDUCED, log 72). -/
def execApertureAccess (wr : Bool) (off : Nat) (v : BitVec 64) (s : State) : Out :=
  let pa := s.boot.memWin + off
  if 2 ^ 36 < off + 8 then .next s
  else if Config.moduleBytes < pa + 8 then .fault (.noMemory pa)
  else if s.apertureHeld pa then .next s
  else if wr then .next (s.aperturePut pa (leBytes 8 v.toNat))
  else .next { s with lastRead := BitVec.ofNat 64 (leNat ((upto 8 pa).map s.apertureByte)) }

end Sys2Proof.Machine
end

