-- ==== Sys2Proof/Machine/Capacity.lean ====
section
/-! DEFINITION. Capacity that shrinks: retirement requests and quotas (R336), the phases of a tile-store retirement (R63, R66,
R67), the over-capacity fault and the deadline (R68, R69), and the other banks (R64, R65). -/

namespace Sys2Proof.Machine

/-! ### Requests (R336) -/

/-- A bank of an array of a core is live. -/
def State.bankLive (s : State) (core array bank : Nat) : Bool :=
  let c := s.coreAt core
  match array with
  | 0 => c.tileBanks.getLsbD bank
  | 1 => c.parBanks.getLsbD bank
  | 2 => c.accBanks.getLsbD bank
  | 3 => c.vecBanks.getLsbD bank
  | 4 => c.dBanks.getLsbD bank
  | 5 => c.iBanks.getLsbD bank
  | 0x10 => (SMap.get s.sync.banks (BitVec.allOnes 16) (core / 48)).getLsbD bank
  | _ => false

/-- The request may be queued: the array is one that this core retires, and the bank exists and is live. -/
def State.retirable (s : State) (core array bank : Nat) : Bool :=
  (decide (array ≤ 5) || (array == 0x10 && core % 48 == 0)) && bankExists array bank && s.bankLive core array bank

/-- The next queued retirement of an idle core begins: phase 1, and its deadline (R66; DEDUCED, log 60). -/
def State.beginRetirement (s : State) (core : Nat) : State :=
  let c := s.coreAt core
  if c.ret.phase ≠ 0 then s
  else
    match c.ret.queue.dropWhile fun q => !s.bankLive core q.1 q.2 with
    | [] => s.updCore core fun c => { c with ret := { c.ret with queue := [] } }
    | q :: rest =>
      let t := s.updCore core fun c =>
        { c with ret := { c.ret with phase := 1, array := q.1, bank := q.2, queue := rest,
                                     deadline := s.time + 1000 * c.ret.retdl.setWidth 64 } }
      (slotsOf core).foldl (fun t n => t.updSlot n fun k => { k with overCap := false }) t

/-- The retirement of a core has ended: firmware records the bank (R337), and the next retirement begins. -/
def State.endRetirement (s : State) (core : Nat) : State :=
  let r := (s.coreAt core).ret
  let t := { s with retired := s.retired ++ [(r.array, r.bank, core)] }
  (t.updCore core fun c => { c with ret := { c.ret with phase := 0, moving := none, todo := [] } }).beginRetirement core

/-- RETREQ (R336): the request is queued, or refused. -/
def execRetreq (core array bank : Nat) (s : State) : Out :=
  let ok := s.retirable core array bank
  let t := s.updCore core fun c =>
    { c with ret := { c.ret with reqArray := array, reqBank := bank, refused := !ok,
                                 queue := if ok then c.ret.queue ++ [(array, bank)] else c.ret.queue } }
  .next (t.beginRetirement core)

/-! ### Over capacity (R68) -/

/-- The slots whose tasks a retirement of a core may find over capacity: its own, and those of its cluster that own a
tile of it at or above TILES. -/
def State.capSlots (s : State) (core : Nat) : List Nat :=
  (clusterSlots (4 * core)).filter fun n =>
    (s.slotAt n).st != .free &&
      (coreOf n == core || (s.owned n).any fun e => e.1 == core && decide ((s.coreAt core).capTile ≤ e.2))

/-- Those that are over capacity. -/
def State.overSlots (s : State) (core : Nat) : List Nat := (s.capSlots core).filter fun n => (s.overReason n).isSome

/-- CAPACITY is raised in a slot that has become over capacity, once for a retirement. -/
def State.raiseCapacity (s : State) (core slot : Nat) : State :=
  match s.overReason slot with
  | some r =>
    if (s.slotAt slot).overCap then s
    else
      let t := s.updSlot slot fun k => { k with overCap := true }
      { t with free := t.free + 1 }.raise slot
        { cause := cCAPACITY, reason := r, addr := (s.coreAt core).ret.deadline, pc := Config.freeWord t.free, source := 6,
          async := true }
  | none => s

/-- CAPACITY in every slot that a retirement in progress finds over capacity (DEDUCED, log 61). -/
def State.raiseOver (s : State) (core : Nat) : State :=
  if (s.coreAt core).ret.phase = 0 then s else (s.overSlots core).foldl (fun t n => t.raiseCapacity core n) s

/-- QUOTA (R336): from the next placement, and at once to a running task, never above its job's PART and ACC
(DEDUCED, log 61). -/
def execQuota (core k : Nat) (tile : BitVec 10) (acc : BitVec 6) (s : State) : Out :=
  if 4 ≤ k then .next s
  else
    let t := s.updCore core fun c =>
      { c with quotaT := SMap.set c.quotaT 512 k tile.toNat, quotaA := SMap.set c.quotaA 32 k acc.toNat }
    let n := 4 * core + k
    let j := s.jobAt (s.slotAt n).task.job
    let u :=
      if (s.slotAt n).st = .free then t
      else t.updSlot n fun k => { k with quotaT := min k.task.part tile.toNat, quotaA := min j.acc acc.toNat }
    .next (u.raiseOver core)

/-! ### Frames (R62, R63) -/

/-- The group of a frame and its number in the group. -/
def frameGroup (f : Nat) : Nat := f / 128
def frameIdx (f : Nat) : Nat := f % 128

/-- The frame of a logical slot (DESIGN CHOICE, log 20). -/
def Core.frameOf (c : Core) (idx : Nat) : Nat := (SMap.get c.frame none idx).getD idx
def Core.setFrame (c : Core) (idx f : Nat) : Core := { c with frame := SMap.set c.frame none idx (some f) }

/-- The live data banks of a group. -/
def Core.liveOf (c : Core) (g : Nat) : Nat := ((upto 8 (8 * g)).filter fun b => c.tileBanks.getLsbD b).length

/-- The group whose bank a retirement takes. -/
def Ret.group (r : Ret) : Nat := r.bank / 8

/-- A frame stays after the retirement of a core. -/
def Core.survives (c : Core) (f : Nat) : Bool :=
  let l := c.liveOf (frameGroup f)
  decide (frameIdx f < 16 * (if frameGroup f = c.ret.group then l - 1 else l))

/-- The occupied frames of a core: a logical slot with a tile in it, and its frame. -/
def Core.occupied (c : Core) : List (Nat × Nat) :=
  (c.tiles.filter fun e => e.2.st != .free).map fun e => (e.1, c.frameOf e.1)

/-- Two logical slots exchange their frames. -/
def Core.swapFrames (c : Core) (i j : Nat) : Core := (c.setFrame i (c.frameOf j)).setFrame j (c.frameOf i)

/-- A number placed in a list that rises by a key, ahead of those of the same key. -/
def insertBy (key : Nat → Nat) (i : Nat) : List Nat → List Nat
  | [] => [i]
  | j :: r => if key i ≤ key j then i :: j :: r else j :: insertBy key i r

/-- The logical slots in the order of their frames: by group, then by number in the group (DESIGN CHOICE, log 20). -/
def Core.byFrame (c : Core) (l : List Nat) : List Nat := l.foldr (fun i r => insertBy c.frameOf i r) []

/-- The free logical slots whose frames stay, in the order in which phase 3 chooses: those of the retiring bank's group
first (R66; DESIGN CHOICE, log 20). -/
def Core.freeFrames (c : Core) : List Nat :=
  let l := c.byFrame ((upto 512 0).filter fun i =>
    (SMap.get c.tiles {} i).st == .free && c.survives (c.frameOf i))
  let mine := fun (i : Nat) => frameGroup (c.frameOf i) == c.ret.group
  l.filter mine ++ l.filter fun i => !mine i

/-- A command writes or fills the tiles it works on. -/
def Cmd.writesTile (c : Cmd) : Bool :=
  match c.instr with
  | .fetch .. | .fetchT .. | .fetchMc .. | .fetchRf .. | .unpark .. | .cgath .. | .mdrain .. | .mstacc .. | .mtopkrdT .. |
    .vst .. => true
  | _ => false

/-- A write or fill to a tile is in flight, so that its frame may not start to move (R67). -/
def State.writing (s : State) (core idx : Nat) : Bool :=
  let h := mkHandle core (s.tileAt core idx).owner idx (s.tileAt core idx).serial
  (clusterSlots (4 * core)).any fun n =>
    let k := s.slotAt n
    (k.cq ++ k.mq ++ k.vq).any fun c => c.writesTile && c.started && !c.ended && c.handles.contains h

/-! ### The phases (R66) -/

/-- SHRINK (R66 phase 1): TILES falls by 16, GRANTs to their QUOTAs, and CAPACITY is raised (DEDUCED, log 62). -/
def execShrink (core : Nat) (s : State) : Out :=
  let r := (s.coreAt core).ret
  if r.phase ≠ 1 ∨ r.array ≠ 0 then .next s
  else
    let t := s.updCore core fun c => { c with capTile := c.capTile - 16, ret := { c.ret with phase := 2 } }
    let t := (slotsOf core).foldl (fun t n => t.updSlot n fun k => { k with grantT := min k.grantT k.quotaT }) t
    .next (t.raiseOver core)

/-- The end of phase 2: for a tile store phase 3, for accumulators the end of the retirement, whose frames lie where no
program sees them (R65). -/
def State.endStanding (s : State) (core : Nat) : State :=
  if (s.coreAt core).ret.array = 0 then
    s.updCore core fun c =>
      let out := (c.occupied.filter fun e => !c.survives e.2).map (·.1)
      { c with ret := { c.ret with phase := 3, todo := c.byFrame out, moving := none } }
  else s.endRetirement core

/-- The phase after the standing phase begins as soon as no task is over capacity (DEDUCED, log 62). -/
def State.tryStanding (s : State) (core : Nat) : State :=
  if (s.coreAt core).ret.phase = 2 ∧ (s.overSlots core).isEmpty then s.endStanding core else s

/-- What the deadline does to one slot (R69): the task is stopped, and relaunched or its job failed; both are counted. -/
def State.deadlineStop (s : State) (core slot : Nat) : State :=
  if (s.slotAt slot).st = .free ∨ (s.overReason slot).isNone then s
  else
    let members := (s.groupSlots slot).length
    let live := (s.jobAt (s.slotAt slot).task.job).st != .failed
    let r := s.stopAndRelaunch slot cCAPACITY
    r.1.updCore core fun c =>
      { c with ret :=
          if r.2 then { c.ret with relaunched := c.ret.relaunched + members }
          else { c.ret with failed := c.ret.failed + if live then 1 else 0 } }

/-- An orphan in a vanishing slot is settled, and freed (R69). -/
def State.settleOrphans (s : State) (core : Nat) : State :=
  s.updCore core fun c =>
    { c with tiles := c.tiles.filterMap fun e =>
        if e.2.orphan ∧ c.capTile ≤ e.1 then (let t := e.2.gone false; if t = {} then none else some (e.1, t)) else some e }

/-- RETIREMENT_DEADLINE (R69): every task still over capacity is stopped. -/
def execRetirementDeadline (core : Nat) (s : State) : Out :=
  let r := (s.coreAt core).ret
  if r.phase ≠ 2 ∨ s.time.ult r.deadline then .next s
  else
    let t := s.updCore core fun c => { c with ret := { c.ret with relaunched := 0, failed := 0 } }
    let t := (s.overSlots core).foldl (fun t n => t.deadlineStop core n) t
    .next ((t.settleOrphans core).endStanding core)

/-- A move of a frame that has started ends (R67). -/
def State.endMove (s : State) (core : Nat) (f : Core → Core) : State :=
  s.updCore core fun c => let d := f c; { d with ret := { d.ret with moving := none, todo := d.ret.todo.tail } }

/-- The move of the first frame to be moved starts, unless a write or fill to it is in flight; a tile that has gone
meanwhile is passed over. The last move ends the phase (DESIGN CHOICE, log 20). -/
def State.startMove (s : State) (core : Nat) (done : State → State) : State :=
  match (s.coreAt core).ret.todo with
  | [] => done s
  | i :: r =>
    if (s.tileAt core i).st = .free then s.updCore core fun c => { c with ret := { c.ret with todo := r } }
    else if s.writing core i then s
    else s.updCore core fun c => { c with ret := { c.ret with moving := some i } }

/-- RELOCATE (R66 phase 3): a move starts, or the one that has started ends with its slot-table entry rewritten; after the
last, phase 4. -/
def execRelocate (core : Nat) (s : State) : Out :=
  let s := s.tryStanding core
  let r := (s.coreAt core).ret
  if r.phase ≠ 3 then .next s
  else
    match r.moving with
    | some i =>
      .next (s.endMove core fun c =>
        match c.freeFrames with
        | j :: _ => c.swapFrames i j
        | [] => c)
    | none =>
      .next (s.startMove core fun t => t.updCore core fun c =>
        let l := (c.occupied.filter fun e => frameGroup e.2 == c.ret.group).map (·.1)
        { c with ret := { c.ret with phase := 4, todo := (c.byFrame l).reverse } })

/-- RE_INTERLEAVE (R66 phase 4): a move starts, or the one that has started ends; after the last, phase 5. -/
def execReInterleave (core : Nat) (s : State) : Out :=
  let r := (s.coreAt core).ret
  if r.phase ≠ 4 then .next s
  else
    match r.moving with
    | some _ => .next (s.endMove core fun c => c)
    | none => .next (s.startMove core fun t => t.updCore core fun c => { c with ret := { c.ret with phase := 5 } })

/-- A free logical slot below TILES whose frame goes takes the frame of a slot at or above it (DESIGN CHOICE, log 20). -/
def Core.repair (c : Core) : Core :=
  (upto c.capTile 0).foldl (fun c i =>
    if c.survives (c.frameOf i) then c
    else
      match (upto (512 - c.capTile) c.capTile).find? fun j => c.survives (c.frameOf j) with
      | some j => c.swapFrames i j
      | none => c) c

/-- CLOSE (R66 phase 5): the bank leaves its group. -/
def execClose (core : Nat) (s : State) : Out :=
  let r := (s.coreAt core).ret
  if r.phase ≠ 5 then .next s
  else
    let t := s.updCore core fun c =>
      let d := c.repair
      { d with tileBanks := d.tileBanks &&& ~~~(BitVec.twoPow 32 r.bank) }
    .next (t.endRetirement core)

/-! ### The other banks (R64, R65) -/

/-- The automatic full pre-emption of the task on a slot whose vector bank retires (R65, R323): resumed at once; stopped as
R69 gives where no area can be taken. None while a member of its set cannot stop. -/
def State.autoPreempt (s : State) (slot : Nat) : Option State :=
  if (s.slotAt slot).st = .free then some s
  else
    let t := s.boundaries slot
    if (t.slotAt slot).st = .free then some t
    else if !t.canStop slot then none
    else
      let area := (t.tenAt (t.slotAt slot).task.tenant).savePool
      match t.saveSet slot (t.slotAt slot).saveKind with
      | none => some (t.stopAndRelaunch slot cCAPACITY).1
      | some u =>
        let back := fun (v : Option Saved) => v.map fun v =>
          if v.kind = 3 then v else { v with resume := some 0, order := u.nextOrder }
        some { u with saved := SMap.upd u.saved none area back, nextOrder := u.nextOrder + 1 }

/-- Every line of a core's data cache is written back and invalidated. -/
def State.emptyCache (s : State) (core : Nat) : State :=
  (s.linesWhere core fun _ _ => true).foldl (fun t k => t.invalidate core k) s

/-- The effect of the retirement of a bank that is no tile-store data bank; none while it waits (R64, R65). -/
def State.retireBank (s : State) (core array bank : Nat) : Option State :=
  match array with
  | 1 => some ((s.updCore core fun c => { c with parBanks := c.parBanks &&& ~~~(BitVec.twoPow 4 bank) }).endRetirement core)
  | 2 =>
    some ((s.updCore core fun c =>
      { c with accBanks := c.accBanks &&& ~~~(BitVec.twoPow 8 bank), capAcc := c.capAcc - 4,
               ret := { c.ret with phase := 2 } }).raiseOver core)
  | 3 =>
    let t := s.updCore core fun c => { c with vecBanks := c.vecBanks &&& ~~~(BitVec.twoPow 4 bank) }
    (t.autoPreempt (4 * core + bank)).map fun u =>
      (u.updCore core fun c => { c with capSlots := c.capSlots - 1 }).endRetirement core
  | 4 =>
    some (((s.emptyCache core).updCore core fun c =>
      { c with dBanks := c.dBanks &&& ~~~(BitVec.twoPow 8 bank), capD := c.capD - 32 }).endRetirement core)
  | 5 =>
    some ((s.updCore core fun c =>
      { c with iBanks := c.iBanks &&& ~~~(BitVec.twoPow 4 bank), capI := c.capI - 32 }).endRetirement core)
  | _ =>
    let die := core / 48
    let live := SMap.get s.sync.banks (BitVec.allOnes 16) die
    let t := { s with sync := { s.sync with
      banks := SMap.set s.sync.banks (BitVec.allOnes 16) die (live &&& ~~~(BitVec.twoPow 16 bank)) } }
    some (t.updCore core fun c => { c with ret := { c.ret with phase := 4 } })

/-- An accumulator retirement ends as soon as no task is over capacity (DEDUCED, log 62). -/
def State.tryOther (s : State) (core : Nat) : State := if (s.coreAt core).ret.array = 0 then s else s.tryStanding core

/-- BANK_RETIREMENT (R64, R65): the retirement at the head of a core takes effect; an accumulator retirement goes on until
its tasks are under capacity. -/
def execBankRetirement (core : Nat) (s : State) : Out :=
  let r := (s.coreAt core).ret
  .next (if r.phase = 1 ∧ r.array ≠ 0 then (s.retireBank core r.array r.bank).getD s else s.tryOther core)

/-- The first word number of a bank of a die's synchronisation engine: 16 banks of 256 KiB (R65; DEDUCED, log 68). -/
def bankWord (die bank : Nat) : Nat := die * 2 ^ 19 + bank * 2 ^ 15

/-- SYNC_WORD_MOVE (R65): the next word of the retiring bank of a die moves to the overflow area, its value, full bit and
waiters with it; after the last, the retirement ends (DEDUCED, log 68). -/
def execSyncWordMove (die : Nat) (s : State) : Out :=
  let core := 48 * die
  let r := (s.coreAt core).ret
  if r.phase ≠ 4 ∨ r.array ≠ 0x10 then .next s
  else
    let n := SMap.get s.sync.spill 0 (bankWord die r.bank) + 1
    let t := { s with sync := { s.sync with spill := SMap.set s.sync.spill 0 (bankWord die r.bank) n } }
    .next (if 2 ^ 15 ≤ n then t.endRetirement core else t)

end Sys2Proof.Machine
end

