-- ==== Sys2Proof/Machine/Errors.lean ====
section
/-! DEFINITION. Errors: the logs and counters (R332, R334, R335), injection (R333), the rebuilding of tile lines (R64), the replay
of a matrix window (R233), and suspect and quarantined cores (R356). -/

namespace Sys2Proof.Machine

/-! ### Logs and counters -/

/-- An error met: where, its syndrome, and the tenant and address space of its context, where known. -/
structure ErrAt where
  core : Nat
  array : Nat
  bank : Nat
  addr : BitVec 40
  syndrome : BitVec 16
  ctx : Option (Nat × Nat) := none
deriving DecidableEq, Repr

/-- The log entry of an error (R332). -/
def ErrAt.entry (e : ErrAt) (kind : Nat) (now : Word) : ErrEnt :=
  let c := e.ctx.getD (0, 0)
  { log0 := regWord [(e.addr.toNat, 0), (e.bank, 40), (e.array, 48), (kind, 56), (1, 63)]
    log1 := regWord [(e.syndrome.toNat, 0), (c.1, 16), (b2n e.ctx.isSome, 22), (c.2, 24), (bits now.toNat 10 24, 40)] }

/-- A new entry enters a log of 64, newest first. -/
def pushLog (e : ErrEnt) (l : List ErrEnt) : List ErrEnt := (e :: l).take 64

/-- The error is logged. -/
def State.logError (s : State) (e : ErrAt) (kind : Nat) : State :=
  let x := e.entry kind s.time
  if e.array < 0x10 then s.updCore e.core fun c => { c with errLog := SMap.upd c.errLog [] e.array (pushLog x) }
  else { s with dieLog := SMap.upd s.dieLog [] (sharedLog e.core e.array) (pushLog x) }

/-- The error adds one to one counter (R334): that of its tenant, or a shared one. -/
def State.countError (s : State) (e : ErrAt) (kind : Nat) : State :=
  match e.ctx, kind with
  | some (t, _), 0 => s.updTen t fun x => { x with corr := x.corr + 1 }
  | some (t, _), 1 => s.updTen t fun x => { x with uncorr := x.uncorr + 1 }
  | some (t, _), _ => s.updTen t fun x => { x with lost := x.lost + 1 }
  | none, 0 => { s with scorr := s.scorr + 1 }
  | none, 1 => { s with suncorr := s.suncorr + 1 }
  | none, _ => { s with slost := s.slost + 1 }

/-- The context of a slot. -/
def State.contextOf (s : State) (slot : Nat) : Nat × Nat := (s.tenantOf slot, s.asidOf slot)

/-! ### The replay of a window (R233) -/

/-- The accumulator halves a command writes whole, without reading them. -/
def Cmd.writesWhole (c : Cmd) : List (Nat × Bool) :=
  match c.instr with
  | .mzero _ n _ => [(n.toNat, false), (n.toNat, true)]
  | .mldacc _ n _ half => [(n.toNat, half)]
  | .macc _ d _ add => if add then [] else [(d.toNat, false), (d.toNat, true)]
  | _ => []

/-- The accumulator a command accumulates into. -/
def Cmd.accumulates (c : Cmd) : Option Nat :=
  match c.instr with
  | .mmul _ _ _ n _ => some n.toNat
  | .mmulc _ d _ _ _ | .mrot _ d _ => some d.toNat
  | .macc _ d _ add => if add then some d.toNat else none
  | _ => none

/-- The accumulator a command reads beside that. -/
def Cmd.readsAcc (c : Cmd) : Option Nat :=
  match c.instr with
  | .mmulc _ _ e _ _ | .mrot _ _ e | .macc _ _ e _ => some e.toNat
  | .mtopk _ n _ _ _ | .mstacc _ n _ _ | .mdrain _ _ n _ _ _ => some n.toNat
  | _ => none

/-- The accumulators that some of the commands write. -/
def writtenAccs (l : List Cmd) : List Nat := l.flatMap fun c => c.writesWhole.map (·.1) ++ c.accumulates.toList

/-- Every retained command accumulates only into accumulators written whole before it, and reads only such, or such as no
retained command writes and the error spares. `whole` are the halves written so far. -/
def replayAccs (written : List Nat) (hit : Bool) : List (Nat × Bool) → List Cmd → Bool
  | _, [] => true
  | whole, c :: r =>
    let full := fun (n : Nat) => whole.contains (n, false) && whole.contains (n, true)
    c.accumulates.all full && c.readsAcc.all (fun e => full e || (!written.contains e && !hit)) &&
      replayAccs written hit (whole ++ c.writesWhole) r

/-- A tile that a retained command read can be read again: it is reserved, or its handle still names it. -/
def State.rereads (s : State) (slot : Nat) (h : Word) : Bool :=
  (s.slotAt slot).win.charges.any (fun x => x.1 == h) ||
    ((s.tileOf h).serial == hSerial h && match (s.tileOf h).st with
      | .live | .filling => true
      | _ => false)

/-- The retained commands before the one in which the error was found. -/
def Slot.replayed (k : Slot) (c : Cmd) : List Cmd := k.win.retained.filter fun x => x.num != c.num

/-- The window can be replayed; `hit` says that the error lies in an accumulator. -/
def State.replayable (s : State) (slot : Nat) (c : Cmd) (hit : Bool) : Bool :=
  let k := s.slotAt slot
  let l := k.replayed c
  replayAccs (writtenAccs l) hit [] (l ++ [c]) && l.all fun x => x.handles.all fun h => match x.instr with
    | .mmul .. | .mmulc .. | .mldacc .. => s.rereads slot h
    | _ => true

/-- The retained commands run again on the snapshots of `MSTART`, without tokens, reservations, and writes to tiles and
registers. -/
def State.replay (s : State) (slot : Nat) (c : Cmd) : State :=
  let k := s.slotAt slot
  let l := k.replayed c
  let t := s.updSlot slot fun k => { k with cfg := k.win.cfg, topk := k.win.topk }
  l.foldl (fun t x => t.matrixCompute slot x) t

/-- The window, or the command outside one, ends in DATA_LOST. -/
def State.matrixLost (s : State) (slot : Nat) (c : Cmd) (reason : BitVec 8) : State :=
  (s.headFault slot .matrix c ⟨cDATA_LOST, reason, 0⟩).discardWindow slot

/-- An uncorrectable error in the matrix engine's data during command `c` (R233, R243): the state, and whether a replay
mended it. `again` says that a second one met the replay (DEDUCED, log 63). -/
def State.matrixError (s : State) (slot : Nat) (c : Cmd) (hit again : Bool) : State × Bool :=
  match c.instr with
  | .mkat .. =>
    let t := { s with free := s.free + 1 }
    ((t.katFailed slot c (Config.freeWord s.free)).leaveQueue .matrix slot c, false)
  | _ =>
    if !(s.slotAt slot).win.opened then (s.matrixLost slot c 2, false)
    else if again then (s.matrixLost slot c 1, false)
    else if s.replayable slot c hit then (s.replay slot c, true)
    else (s.matrixLost slot c 2, false)

/-- The command that runs at the head of a queue of a slot. -/
def State.running (s : State) (e : Engine) (slot : Nat) : Option Cmd :=
  match (s.slotAt slot).queue e with
  | c :: _ => if c.started && !c.ended then some c else none
  | [] => none

/-- REPLAY (R233, R335): an uncorrectable error met by the matrix command that runs in a slot. -/
def execReplay (core slot array bank : Nat) (addr : BitVec 40) (syndrome : BitVec 16) (again : Bool) (s : State) : Out :=
  match s.running .matrix slot with
  | none => .next s
  | some c =>
    if coreOf slot ≠ core ∨ !([0x00, 0x02, 0x06].contains array && bankExists array bank) then .next s
    else
      let r := s.matrixError slot c (array == 0x02) again
      let e : ErrAt := ⟨core, array, bank, addr, syndrome, some (s.contextOf slot)⟩
      let kind := if r.2 then 1 else 2
      .next ((r.1.logError e kind).countError e kind)

/-! ### Injection (R333) -/

/-- The commands of a core that run, with their slots: matrix engine, vector engine, copy engine. -/
def State.runningIn (s : State) (core : Nat) : List (Engine × Nat × Cmd) :=
  [Engine.matrix, .vector, .copy].flatMap fun e => (slotsOf core).filterMap fun n => (s.running e n).map fun c => (e, n, c)

/-- The command whose access to an array receives an injected error: one that works on a tile of the core, a matrix
command, or a vector command (DEDUCED, log 63). -/
def State.victim (s : State) (core array : Nat) : Option (Engine × Nat × Cmd) :=
  (s.runningIn core).find? fun x =>
    match array with
    | 0 | 1 => x.2.2.handles.any fun h => hCore h == core
    | 2 | 6 => x.1 == .matrix
    | 3 => x.1 == .vector
    | _ => false

/-- Arrays that an engine command reaches. -/
def engineArray (array : Nat) : Bool := decide (array ≤ 3) || array == 6

/-- A read that cannot be rebuilt ends in DATA_LOST for its command (R64, R271; DEDUCED, log 63). -/
def State.readLost (s : State) (x : Engine × Nat × Cmd) (reason : BitVec 8) : State :=
  match x.1 with
  | .copy => s.moveFault x.2.1 x.2.2 ⟨cDATA_LOST, 0, 0⟩
  | .matrix => s.matrixLost x.2.1 x.2.2 2
  | .vector => s.headFault x.2.1 .vector x.2.2 ⟨cDATA_LOST, reason, 0⟩

/-- The path an uncorrectable error takes: `two` says that two banks of a row are hit. A tile line is rebuilt where its
parity bank lives; the matrix engine replays; a vector command ends. Other arrays have no path that the manual gives. -/
def State.errorPath (s : State) (core array bank : Nat) (two : Bool) (x : Engine × Nat × Cmd) : State :=
  match array with
  | 0 => if two || !(s.coreAt core).parBanks.getLsbD (bank / 8) then s.readLost x 0 else s
  | 2 | 6 => (s.matrixError x.2.1 x.2.2 (array == 2) false).1
  | 3 => s.readLost x 3
  | _ => s

/-- One of COUNT accesses has received the error; the last clears ARM (DEDUCED, log 63). -/
def spendInjection (v : Word) : Word :=
  let n := bits v.toNat 24 4 - 1
  (v &&& 0x0003FFFF) ||| regWord [(n, 24), (if n = 0 then 0 else 1, 31)]

/-- ERR_INJECT (R333): an access to the armed array and bank receives the error; it is logged with KIND 3 and counted as its
ERR gives. -/
def execErrInject (core array bank : Nat) (addr : BitVec 40) (syndrome : BitVec 16) (s : State) : Out :=
  let inj := (s.coreAt core).errInj.toNat
  if !(bit inj 31 && bits inj 0 8 == array && bits inj 8 8 == bank) then .next s
  else
    let v := s.victim core array
    if engineArray array && v.isNone then .next s
    else
      let err := bits inj 16 2
      let e : ErrAt := ⟨core, array, bank, addr, syndrome, v.map fun x => s.contextOf x.2.1⟩
      let t := s.updCore core fun c => { c with errInj := spendInjection c.errInj }
      let t := match v with
        | some x => if err = 0 then t else t.errorPath core array bank (err == 2) x
        | none => t
      .next ((t.logError e 3).countError e err)

/-! ### Suspect and quarantined cores (R356) -/

/-- A core is quarantined, and recorded. -/
def State.quarantine (s : State) (core : Nat) : State :=
  let t := s.updCore core fun c => { c with health := 2 }
  { t with quarantined := if t.quarantined.contains core then t.quarantined else t.quarantined ++ [core] }

/-- KNOWN_ANSWER_SERVICE (R356): the run over 4,096 seeds on a suspect core ends. -/
def execKnownAnswerService (core : Nat) (pass : Bool) (s : State) : Out :=
  if (s.coreAt core).health ≠ 1 then .next s
  else if pass then .next (s.updCore core fun c => { c with health := 0 })
  else .next (s.quarantine core)

/-- QUARANTINE_RELEASE (R356): mailbox operation 13 names a core; ABSENT where it is not quarantined (DEDUCED, log 67). -/
def execQuarantineRelease (a _b : BitVec 64) (s : State) : Out :=
  let core := a.toNat
  if (s.coreAt core).health ≠ 2 then .next (s.mbDone 3)
  else
    let t := s.updCore core fun c => { c with health := 0 }
    .next ({ t with quarantined := t.quarantined.filter (· != core) }.mbDone 0)

end Sys2Proof.Machine
end

