-- ==== Sys2Proof/Machine/Links.lean ====
section
/-! DEFINITION. Links and homes: the failure, time-out and recovery of memory, Lomnik and fabric links (R97, R299, R307), flits
and retraining (R342, R343), and the home agent's moves (R96, R315). -/

namespace Sys2Proof.Machine

/-! ### State of the links -/

def State.fLink (s : State) (k : Nat) : FLink := SMap.get s.fab.links {} k
def State.updFLink (s : State) (k : Nat) (f : FLink → FLink) : State :=
  { s with fab := { s.fab with links := SMap.upd s.fab.links {} k f } }
def State.mLink (s : State) (k : Nat) : MLink := SMap.get s.mlinks {} k
def State.updMLink (s : State) (k : Nat) (f : MLink → MLink) : State := { s with mlinks := SMap.upd s.mlinks {} k f }

/-- A link that works fails and retrains. -/
def MLink.fail (l : MLink) (now : Word) : MLink :=
  match l.down with
  | some _ => l
  | none => { down := some now, retrain := true }

/-- 50 ms in ns (R97). -/
def linkLimit : Nat := 50000000

/-- A link has been down for 50 ms and has not been given up yet. -/
def MLink.due (l : MLink) (now : Word) : Bool :=
  match l.down with
  | some t => !l.lost && decide (linkLimit ≤ now.toNat - t.toNat)
  | none => false

/-- A link is given up. -/
def MLink.giveUp (l : MLink) : MLink := { l with lost := true, retrain := false }

/-! ### Reductions that a plane or a member carried (R353) -/

/-- Every open reduction that satisfies a test ends as FAILED (DEDUCED, log 64). -/
def State.failReds (s : State) (p : Red → Bool) : State :=
  s.reds.foldl (fun t e => match e.2 with
    | some r => if !r.ended && p r then (t.endRed e.1 r fFAILED).dropRed e.1 else t.dropRed e.1
    | none => t) s

/-- A fabric link goes down: its plane carries no more of the reductions of this package (DEDUCED, log 64). -/
def State.planeDown (s : State) (k : Nat) : State :=
  (s.updFLink k fun l => { l with up := false, retrain := none }).failReds fun r => r.red.members.contains s.pkg

/-- LINK_FAILURE (R97, R299, R343). -/
def execLinkFailure (k : LinkKind) (n : Nat) (s : State) : Out :=
  match k with
  | .memory => .next (if n < 32 then s.updMLink n fun l => l.fail s.time else s)
  | .lomnik => .next { s with lomnik := s.lomnik.fail s.time }
  | .fabric =>
    .next (if n < 16 ∧ (s.fLink n).up ∧ (s.fLink n).retrain.isNone then s.updFLink n fun l => { l with retrain := some s.time } else s)

/-! ### The time-out of a link (R97, R299) -/

/-- The destination of the next sent line of a copy lies behind a link that has been given up. -/
def State.lineLost (s : State) (slot : Nat) (c : Cmd) : Bool :=
  let va := c.opN 0 + 128 * c.done
  decide (c.done < c.sent) && match s.translate (s.asidOf slot) va with
    | .ok l => s.linkHolds (l.loc va) == some none
    | .error _ => false

/-- The copies in flight of a slot that wait for lost memory end with DATA_LOST. -/
def State.loseFlight (s : State) (slot : Nat) : State :=
  let gone := (s.slotAt slot).flight.filter (s.lineLost slot)
  let t := s.updSlot slot fun k =>
    let k := gone.foldl (fun k c => k.untag c.tags) k
    { k with flight := k.flight.filter fun c => !s.lineLost slot c }
  gone.foldl (fun t c => t.raise slot
    { cause := cDATA_LOST, addr := BitVec.ofNat 64 (c.opN 0 + 128 * c.done), pc := c.pc, source := 2, itag := c.hdr.itag }) t

/-- The copy at the head, where it waits for lost memory. -/
def State.loseHead (s : State) (slot : Nat) : State :=
  match s.running .copy slot with
  | some c =>
    if s.lineLost slot c then
      let d := { c with sent := c.done, buf := [] }
      (s.updSlot slot fun k => k.setHead .copy d).headFault slot .copy d
        ⟨cDATA_LOST, 0, BitVec.ofNat 64 (c.opN 0 + 128 * c.done)⟩
    else s
  | none => s

/-- Every sent line that waits for lost memory ends; other accesses find the loss when they try again. -/
def State.loseLines (s : State) : State := s.slots.foldl (fun t e => (t.loseFlight e.1).loseHead e.1) s

/-- An address of address space 0 lies in host memory. -/
def State.inHost (s : State) (va : Nat) : Bool :=
  match s.translate 0 va with
  | .ok l => l.tier == 1
  | .error _ => false

/-- A byte range of address space 0 has a page in host memory. -/
def State.rangeInHost (s : State) (va n : Nat) : Bool :=
  (upto ((va + n - 1) / 2 ^ 16 - va / 2 ^ 16 + 1) (va / 2 ^ 16)).any fun p => s.inHost (p * 2 ^ 16)

/-- The entry ring, the state block or the completion ring of a queue lies in host memory (R299). -/
def State.hostQueue (s : State) (q : JQ) : Bool :=
  s.rangeInHost q.base (2 ^ q.logSize) || s.rangeInHost q.sblk 0x2080 || s.rangeInHost q.cring (64 * 2 ^ q.logC)

/-- Every queue in use that needs the host is stopped (R307). -/
def State.stopQueues (s : State) : State :=
  s.queues.foldl (fun t e =>
    if e.2.enable ∧ s.hostQueue e.2 then t.updQueue e.1 fun q => { q with linkStop := true } else t) s

/-- LINK_TIMEOUT (R97, R299): a link that has not recovered within 50 ms of failing; a fabric link that has not goes down. -/
def execLinkTimeout (k : LinkKind) (n : Nat) (s : State) : Out :=
  match k with
  | .memory => .next (if (s.mLink n).due s.time then (s.updMLink n MLink.giveUp).loseLines else s)
  | .lomnik => .next (if s.lomnik.due s.time then { s with lomnik := s.lomnik.giveUp }.stopQueues.loseLines else s)
  | .fabric =>
    .next (match (s.fLink n).retrain with
      | some t => if linkLimit ≤ s.time.toNat - t.toNat then s.planeDown n else s
      | none => s)

/-! ### Recovery (R97, R307) -/

/-- The state blocks of the queues in use are written: what a write could not reach while a link was down is written now. -/
def State.showQueues (s : State) : State := s.queues.foldl (fun t e => if e.2.enable ∨ e.2.linkStop then t.showQueue e.1 else t) s

/-- LINK_RECOVERY (R97, R307). The records that wait follow, each by its own step (R304). -/
def execLinkRecovery (k : LinkKind) (n : Nat) (s : State) : Out :=
  match k with
  | .memory => .next (s.updMLink n fun _ => {}).showQueues
  | .lomnik => .next { s with lomnik := {} }.showQueues
  | .fabric => .next (if n < 16 then s.updFLink n fun l => { l with up := true, retrain := none } else s)

/-! ### Flits (R342, R343) -/

/-- One bit of the CRC-32 of IEEE 802.3, in its reflected form. -/
def crcBit (c : Nat) : Nat := if c % 2 = 1 then (c / 2) ^^^ 0xEDB88320 else c / 2

/-- One byte of it. -/
def crcByte (c : Nat) (b : Byte) : Nat := (upto 8 0).foldl (fun c _ => crcBit c) (c ^^^ b.toNat)

/-- The CRC-32 of a list of bytes. -/
def crc32 (l : List Byte) : Nat := l.foldl crcByte 0xFFFFFFFF ^^^ 0xFFFFFFFF

/-- A corrected flit passes its check. -/
def flitOk (f : List Byte) : Bool := f.length == 256 && leNat ((f.drop 244).take 4) == crc32 (f.take 244)

/-- SEQ of a flit. -/
def flitSeq (f : List Byte) : BitVec 12 := BitVec.ofNat 12 (leNat (f.take 4))

/-- An entry of the fabric-link log (R343): its address, syndrome and, for a change of rate, its kind are free values, since
no rule gives them (DEDUCED, log 65). -/
def State.linkLog (s : State) (k : Nat) (kind : Option Nat) : State :=
  let w := Config.freeWord s.free
  let e : ErrAt := ⟨0, 0x21, k, w.extractLsb' 0 40, w.extractLsb' 40 16, none⟩
  let t := { s with free := s.free + 1 }.logError e (kind.getD (bits w.toNat 56 2))
  match kind with
  | some n => t.countError e n
  | none => t

/-- A link that replays too often: half its rate, or down from 56 Gb/s (DEDUCED, log 65). -/
def State.degrade (s : State) (k : Nat) : State :=
  let l := s.fLink k
  let t :=
    if l.rate ≤ 56 then s.planeDown k
    else s.updFLink k fun l => { l with rate := l.rate / 2, retrain := some s.time, replays := [] }
  t.linkLog k none

/-- A replay on a link, which is logged; the seventeenth within 1 ms retrains it (R343; DEDUCED, log 65). -/
def State.replayLink (s : State) (k : Nat) : State :=
  let now := s.time
  let t := (s.updFLink k fun l =>
    { l with replays := (l.replays.filter fun r => decide (now.toNat - r.toNat ≤ 1000000)) ++ [now] }).linkLog k (some 1)
  if 16 < (t.fLink k).replays.length then t.degrade k else t

/-- FLIT_RECEIVE (R342): corrected, checked, and taken in SEQ order, or refused and asked for again. What a flit carries comes
by the steps of its messages. -/
def execFlitReceive (link : Nat) (bytes : List (BitVec 8)) (s : State) : Out :=
  let l := s.fLink link
  if 16 ≤ link ∨ !l.up ∨ l.retrain.isSome then .next s
  else
    let f := Config.rsCorrect bytes
    if flitOk f then
      if flitSeq f = l.rxSeq then
        .next ((s.updFLink link fun l => { l with rxSeq := l.rxSeq + 1 }).send (.flitAck link l.rxSeq))
      else .next s
    else .next ((s.replayLink link).send (.flitReplay link l.rxSeq))

/-- RETRAIN_END (R343): the link carries traffic again. -/
def execRetrainEnd (link : Nat) (s : State) : Out :=
  if (s.fLink link).retrain.isSome then .next (s.updFLink link fun l => { l with retrain := none, replays := [] }) else .next s

/-- RETRAIN_AT_REQUEST (R343): firmware retrains a link, which returns to its full rate. -/
def execRetrainAtRequest (link : Nat) (s : State) : Out :=
  if 16 ≤ link then .next s
  else
    .next ((s.updFLink link fun l => { l with rate := 224, up := true, retrain := some s.time, replays := [] }).linkLog link none)

/-! ### Home moves (R96, R315) -/

/-- The bytes of a range of one memory, laid over a range of another. -/
def copyRange (src dst : Memory) (a b n : Nat) : Memory :=
  (src.filter fun e => decide (a ≤ e.1) && decide (e.1 < a + n)).foldl (fun m e => SMap.set m 0 (e.1 - a + b) e.2)
    (dst.filter fun e => !(decide (b ≤ e.1) && decide (e.1 < b + n)))

/-- The page is held, or pinned by `XPIN`. -/
def State.heldPage (s : State) (asid va sh : Nat) : Bool :=
  (s.holds.any fun h => h.1 == asid && h.2 / 2 ^ sh == va / 2 ^ sh) ||
    s.pins.any fun p => p.1 == asid && pagesMeet p.2.1 (p.2.2 * 2 ^ p.2.1) sh va

/-- A stack of frames (DESIGN CHOICE, log 28): its count, then the frames, the top last. -/
def State.stackTop (s : State) (stack : Nat) : Option Nat :=
  let n := s.rdPhys stack 8
  if stack = 0 ∨ n = 0 then none else some (s.rdPhys (stack + 8 * n) 8)
def State.popFrame (s : State) (stack : Nat) : State := s.wrPhys stack 8 (s.rdPhys stack 8 - 1)
def State.pushFrame (s : State) (stack f : Nat) : State :=
  let n := s.rdPhys stack 8 + 1
  (s.wrPhys (stack + 8 * n) 8 f).wrPhys stack 8 n

/-- The home agent may move a page (DESIGN CHOICE, log 28). -/
def State.movable (s : State) (asid va : Nat) (l : Leaf) : Bool :=
  l.dev && !l.pinned && decide (l.tier < 2) && !l.devOnly && !s.heldPage asid va l.bits && s.lomnik.down.isNone &&
    (s.linkHolds (l.loc va)).isNone

/-- The lines of a page leave every data cache, written back first, so that the stores already made move with it
(DEDUCED, log 22). -/
def State.flushFrame (s : State) (l : Leaf) : State :=
  s.cores.foldl (fun t e =>
    (t.linesWhere e.1 fun p _ => p.tier == l.tier && decide (l.base ≤ p.pa) &&
      decide (p.pa < l.base + 2 ^ l.bits)).foldl (fun u k => u.invalidate e.1 k) t) s

/-- A leaf entry with its TIER and FRAME replaced. -/
def movedPte (pte tier frame : Nat) : Nat :=
  pte - bits pte 5 2 * 2 ^ 5 - bits pte 16 36 * 2 ^ 16 + tier * 2 ^ 5 + frame / 2 ^ 16 * 2 ^ 16

/-- A page moves to a frame of the other tier: data, entry, translations, stacks, and MOVES. -/
def State.movePage (s : State) (ten : Nat) (l : Leaf) (take give frame : Nat) : State :=
  let n := 2 ^ l.bits
  let t := s.flushFrame l
  let t := if l.tier = 0 then { t with host := copyRange t.mem t.host l.base frame n }
    else { t with mem := copyRange t.host t.mem l.base frame n }
  let t := (t.popFrame take).pushFrame give l.base
  let t := t.wrPhys l.pte 8 (movedPte (t.rdPhys l.pte 8) (1 - l.tier) frame)
  let t := { t with tlb := t.tlb.filter fun e => match e.2 with
    | some x => x.pte != l.pte
    | none => true }
  t.updTen ten fun e => { e with moves := e.moves + 1 }

/-- HOME_MOVE (R96, R315). -/
def execHomeMove (asid : Nat) (va : BitVec 64) (s : State) : Out :=
  match s.walk asid va.toNat with
  | .error _ => .next s
  | .ok l =>
    let ten := bits (s.rdPhys (s.asidEntry asid + 8) 8) 0 6
    let e := s.tenAt ten
    let take := if l.tier = 0 then e.poolH else e.poolM
    let give := if l.tier = 0 then e.poolM else e.poolH
    match s.stackTop take with
    | none => .next s
    | some f =>
      if s.movable asid va.toNat l && decide (give ≠ 0) && f % 2 ^ l.bits == 0 then .next (s.movePage ten l take give f)
      else .next s

end Sys2Proof.Machine
end

