-- ==== Sys2Proof/Machine/Domain.lean ====
section
/-! DEFINITION. The fabric domain: heartbeats, deaths, the arbiter and its standby (R346, R349, R350), the messages of an
exchange (R223, R347, R348), reductions (R353), and remote atomics at the home and at the source (R184, R351). -/

namespace Sys2Proof.Machine

/-! ### Life and death of packages (R346) -/

/-- Three missed heartbeats, in ns. -/
def beatLimit : Nat := 30000

/-- Three heartbeats of a package have been missed in a row. -/
def State.beatsMissed (s : State) (p : Nat) : Bool :=
  decide (beatLimit ≤ s.time.toNat - (SMap.get s.fab.beatAt 0 p).toNat)

/-- The lowest-numbered live package but for those named. -/
def State.lowestLive (s : State) (but : List Nat) : Nat :=
  ((upto Config.packages 0).find? fun p => !s.isDead p && !but.contains p).getD s.pkg

def State.amArbiter (s : State) : Bool := s.fab.arbiter == s.pkg

/-- HEARTBEAT (R346): sent by this package to the arbiter and the standby, or received from another (DEDUCED, log 66). -/
def execHeartbeat (pkg : Nat) (s : State) : Out :=
  if pkg = s.pkg then
    .next (([s.fab.arbiter, s.fab.standby].filter (· != s.pkg)).foldl (fun t d => t.send (.beat d)) s)
  else if s.isDead pkg ∨ Config.packages ≤ pkg then .next s
  else .next { s with fab := { s.fab with beatAt := SMap.set s.fab.beatAt 0 pkg s.time } }

/-- The tenant and tag of a tag's key. -/
def keyTenant (key : Nat) : Nat := key / 65536
def keyTag (key : Nat) : Nat := key % 65536

/-- The tags of this package that are posted and whose exchange has no commit. -/
def State.uncommitted (s : State) : List Nat :=
  (s.xtags.filter fun e => e.2.posted && !e.2.finished && e.2.commit.isNone).map (·.1)

/-- Each agent sends its postings again to the arbiter of the moment (R349). -/
def State.repost (s : State) : State := s.uncommitted.foldl (fun t key => t.sendPosting (keyTenant key) (keyTag key)) s

/-- This package becomes arbiter (R349): tags whose commit it holds are committed again, the others are posted again, with
REPOST (DEDUCED, log 66). -/
def State.takeOver (s : State) : State :=
  let old := s.fab.arbiter
  let t := { s with fab := { s.fab with arbiter := s.pkg, standby := s.lowestLive [s.pkg, old], fresh := false }, arbTags := [] }
  let t := s.uncommitted.foldl (fun t key => t.updArbTag key fun a => { a with repost := true }) t
  let t := t.fab.recorded.foldl (fun t e => match e.2 with
    | some base => t.commitTag (keyTenant e.1) (keyTag e.1) base
    | none => t) t
  t.repost

/-- STANDBY_TAKEOVER (R346, R349; DEDUCED, log 66). -/
def execStandbyTakeover (s : State) : Out :=
  if s.fab.standby = s.pkg ∧ !s.amArbiter ∧ s.beatsMissed s.fab.arbiter then .next s.takeOver else .next s

/-- The entries of a running exchange with a dead peer end; what they were to bring counts as landed (R223, R350). -/
def State.endEntries (s : State) (key : Nat) : State :=
  let x := s.xtagAt key
  if !x.running then s
  else
    let y := s.endDeadEntries x
    let es := x.cal.getD []
    let lost := sumOf ((es.zip (upto es.length 0)).map fun e =>
      if e.1.dst == s.pkg && y.ended.contains e.2 && !x.ended.contains e.2 then e.1.bytes - SMap.get x.received 0 e.2 else 0)
    (s.updXtag key fun _ => y).landFor (s.runnerOf key) lost

/-- Arbiter and standby were lost before a commit (R223, R349): `DCAL` and `DRUN` at the heads fault, and the tag is no
longer posted. -/
def State.loseTag (s : State) (key : Nat) : State :=
  let t := s.slots.foldl (fun t e => match e.2.cq with
    | c :: _ =>
      let waits := match c.instr with
        | .dcal .. | .drun .. => true
        | _ => false
      if waits && !c.started && t.keyOf e.1 c == key then t.headFault e.1 .copy c ⟨cDEMAND, 4, 0⟩ else t
    | [] => t) s
  t.updXtag key fun _ => {}

/-- What the death of a package changes in the roles of R346: the arbiter's place is the standby's; a standby that this
package follows without having heard of it is lost with its arbiter. -/
def State.followDeath (s : State) (p : Nat) : State :=
  if p = s.fab.arbiter then
    let next := if s.isDead s.fab.standby then s.lowestLive [] else s.fab.standby
    if next = s.pkg then s.takeOver
    else
      let t := { s with fab := { s.fab with arbiter := next, standby := s.lowestLive [next], fresh := true } }
      if s.fab.fresh then s.uncommitted.foldl (fun t key => t.loseTag key) t else t.repost
  else if p = s.fab.standby then { s with fab := { s.fab with standby := s.lowestLive [s.fab.arbiter] } }
  else s

/-- A member that is not waited for any more may complete the postings and acknowledgements of a tag (R347, R348). -/
def State.recheckTags (s : State) : State :=
  if !s.amArbiter then s
  else
    s.arbTags.foldl (fun t e =>
      let t := t.tryDecompose (keyTenant e.1) (keyTag e.1)
      let a := t.arbTagAt e.1
      if a.cal.isSome && a.commit.isNone && (t.liveMembers (keyTenant e.1)).all fun m => a.acks.contains m then
        t.commitTag (keyTenant e.1) (keyTag e.1) (commitBase t.time)
      else t) s

/-- A package is dead (R346, R350, R351, R353; DEDUCED, log 66). -/
def State.packageDead (s : State) (p : Nat) : State :=
  let t := { s with fab := { s.fab with dead := SMap.set s.fab.dead false p true }, rhomes := SMap.set s.rhomes {} p {} }
  let t := t.xtags.foldl (fun t e => t.endEntries e.1) t
  let t := t.failReds fun r => r.red.members.contains p || r.red.dpkg == p
  (t.followDeath p).recheckTags

/-- The arbiter announces a death to every live package. -/
def State.announce (s : State) (p : Nat) : State :=
  ((upto Config.packages 0).filter fun m => m != s.pkg && !s.isDead m).foldl (fun t m => t.send (.dead m p)) s

/-- DECLARE_DEAD (R346): by this package as arbiter, once three heartbeats are missed; or announced by the arbiter. -/
def execDeclareDead (pkg : Nat) (s : State) : Out :=
  if pkg = s.pkg ∨ Config.packages ≤ pkg ∨ s.isDead pkg then .next s
  else if s.amArbiter then .next (if s.beatsMissed pkg then (s.packageDead pkg).announce pkg else s)
  else .next (s.packageDead pkg)

/-! ### Messages of an exchange -/

/-- A live member of a tenant's set other than this package. -/
def State.peerMember (s : State) (tenant m : Nat) : Bool := m != s.pkg && (s.liveMembers tenant).contains m

/-- POSTING (R347): the arbiter receives a member's posting. -/
def execPosting (member tenant tag accept : Nat) (demand : List Nat) (s : State) : Out :=
  if s.amArbiter && s.peerMember tenant member then .next (s.takePosting member tenant (tag % 65536) accept demand) else .next s

/-- The arbiter has been heard of. -/
def State.heardArbiter (s : State) : State := { s with fab := { s.fab with fresh := false } }

/-- CALENDAR (R348): a member receives its entries from the arbiter. -/
def execCalendar (tenant tag : Nat) (phases : Nat) (repost : Bool) (entries : List CalEntry) (s : State) : Out :=
  if s.amArbiter then .next s else .next (s.heardArbiter.takeCalendar tenant (tag % 65536) phases repost entries)

/-- CALENDAR_ACK (R348): the arbiter receives a member's acknowledgement. -/
def execCalendarAck (member tenant tag : Nat) (s : State) : Out :=
  if s.amArbiter && s.peerMember tenant member then .next (s.takeAck member tenant (tag % 65536)) else .next s

/-- COMMIT (R348): a commit reaches this package, as member and, on the standby, to be recorded. -/
def execCommit (tenant tag : Nat) (base : Nat) (s : State) : Out :=
  if s.amArbiter then .next s
  else
    let b := BitVec.ofNat 64 base
    let t := s.heardArbiter
    let t :=
      if t.fab.standby = t.pkg then
        { t with fab := { t.fab with recorded := SMap.set t.fab.recorded none (tagKey tenant (tag % 65536)) (some b) } }
      else t
    .next (t.takeCommit tenant (tag % 65536) b)

/-- DRUN_ENTRY (R223): an entry of this package's calendar, once it is open, sends its bytes or receives some. -/
def execDrunEntry (tenant tag e : Nat) (data : List (BitVec 8)) (ended : Bool) (s : State) : Out :=
  let key := tagKey tenant (tag % 65536)
  let x := s.xtagAt key
  match (x.cal.getD [])[e]? with
  | none => .next s
  | some ent =>
    if !s.entryOpen x e ent then .next s
    else if ent.src = s.pkg then .next (s.sendEntry tenant (tag % 65536) e x ent)
    else if ent.dst = s.pkg then .next (s.recvEntry tenant (tag % 65536) e x ent data ended)
    else .next s

/-! ### Reductions (R353) -/

/-- FRED_CONTRIBUTION (R353): the contribution of another member; beyond 256 open reductions it waits. -/
def execFredContribution (member : Nat) (red : FredDesc) (data : List (BitVec 8)) (s : State) : Out :=
  if member = s.pkg ∨ s.isDead member ∨ data.length ≠ red.len then .next s
  else if 256 ≤ s.openReds ∧ (SMap.get s.reds none red.rid).isNone then .next s
  else .next (s.contribute member red data 0)

/-- The deadline of a reduction in ns after its first arrival: WAIT, or 200 µs (R225). -/
def redWait (r : Red) : Nat := if r.red.wait = 0 then 200000 else r.red.wait

/-- REDUCTION_DEADLINE (R353). -/
def execReductionDeadline (rid : Nat) (s : State) : Out :=
  match SMap.get s.reds none rid with
  | some r =>
    if !r.ended && decide (redWait r ≤ s.time.toNat - r.first.toNat) then
      .next ((s.endRed rid r (fFAILED ||| fDEADLINE)).dropRed rid)
    else .next s
  | none => .next s

/-! ### Remote atomics at the home (R351) -/

/-- 2 ms in ns, and the entries of a reply cache. -/
def cacheTime : Nat := 2000000
def cacheRoom : Nat := 1024

def State.rhomeAt (s : State) (p : Nat) : RHome := SMap.get s.rhomes {} p
def State.setRhome (s : State) (p : Nat) (r : RHome) : State := { s with rhomes := SMap.set s.rhomes {} p r }

/-- The oldest entry of a full cache has been held 2 ms. -/
def RHome.due (r : RHome) (now : Word) : Bool :=
  decide (cacheRoom ≤ r.cache.length) && match r.cache with
    | (_, _, t) :: _ => decide (cacheTime ≤ now.toNat - t.toNat)
    | [] => false

/-- The oldest entry leaves, and the floor rises past its number. -/
def RHome.expire (r : RHome) : RHome :=
  match r.cache with
  | (n, _, _) :: rest => { r with cache := rest, floor := max r.floor (n + 1) }
  | [] => r

/-- An atomic is performed once, its reply cached and sent. -/
def State.performRemote (s : State) (src num : Nat) (op : AtomOp) : State :=
  let x := s.atomHome 0 op
  let r := x.1.rhomeAt src
  let v := BitVec.ofNat 64 x.2
  (x.1.setRhome src { r with cache := r.cache ++ [(num, v, s.time)] }).send (.atomReply src num (.old v))

/-- The memory behind an atomic can be reached now. -/
def State.homeReached (s : State) (op : AtomOp) : Bool := (s.linkHolds { tier := 0, pa := op.pa }).isNone

/-- A new number, the cache having room. -/
def State.roomFor (s : State) (src num : Nat) (op : AtomOp) : Out :=
  if Config.moduleBytes ≤ op.pa then .fault (.noMemory op.pa)
  else if s.homeReached op then .next (s.performRemote src num op)
  else .next s

/-- REMOTE_ATOMIC (R351). -/
def execRemoteAtomic (src num : Nat) (op : AtomOp) (s : State) : Out :=
  let r := s.rhomeAt src
  if s.isDead src then .next s
  else
    match r.cache.find? fun e => e.1 == num with
    | some (_, v, _) => .next (s.send (.atomReply src num (.old v)))
    | none =>
      if num < r.floor then .next (s.send (.atomReply src num .unknown))
      else if r.held.any fun h => h.1 == num then .next (s.send (.atomReply src num .held))
      else if r.cache.length < cacheRoom then s.roomFor src num op
      else if r.due s.time && r.held.isEmpty then
        let t := s.setRhome src r.expire
        if num < r.expire.floor then .next (t.send (.atomReply src num .unknown)) else t.roomFor src num op
      else .next ((s.setRhome src { r with held := r.held ++ [(num, op)] }).send (.atomReply src num .held))

/-- REPLY_CACHE_EXPIRY (R351): the oldest entry leaves a full cache after 2 ms where an atomic is held for its place. -/
def execReplyCacheExpiry (src : Nat) (s : State) : Out :=
  let r := s.rhomeAt src
  match r.held with
  | [] => .next s
  | (num, op) :: rest =>
    if !r.due s.time then .next s
    else if Config.moduleBytes ≤ op.pa then .fault (.noMemory op.pa)
    else if !s.homeReached op then .next s
    else .next ((s.setRhome src { r.expire with held := rest }).performRemote src num op)

/-! ### Remote atomics at the source (R184, R351) -/

/-- A-seq of the slot stands at the atomic. -/
def State.atAtomic (s : State) (r : RAtom) : Bool :=
  (s.slotAt r.slot).st.runs && (s.slotAt r.slot).a.pc == r.pc

/-- A remote atomic retires with its old value. -/
def State.retireAtomic (s : State) (num : Nat) (r : RAtom) (v : Word) : State :=
  let t := (s.endAtomic r.slot num).updSlot r.slot fun k => (k.updSeq .a fun q => q.wr r.d v).finish .a r.h r.pc r.next
  if bit r.ord 0 then t.acquireCache r.slot r.scope false else t

/-- The outcome of a remote atomic is unknown: REMOTE, delivered at A-seq's instruction. -/
def State.unknownAtomic (s : State) (num : Nat) (r : RAtom) : State :=
  let t := s.endAtomic r.slot num
  if r.live then t.takeFault r.slot { cause := cREMOTE, reason := 3, pc := r.pc, source := 5 } r.pc
  else { s with ratoms := SMap.set s.ratoms none num none }

/-- ATOMIC_REPLY (R351, R184): the answer to an atomic of a task that has been killed is discarded; that of a saved one comes
again after its resume. -/
def execAtomicReply (num : Nat) (reply : AtomReply) (s : State) : Out :=
  match SMap.get s.ratoms none num with
  | none => .next s
  | some r =>
    let put := fun (r : RAtom) => { s with ratoms := SMap.set s.ratoms none num (some r) }
    if r.slot = Config.slots then .next s
    else
      match reply with
      | .held => .next (put { r with heldHome := true })
      | .unknown => .next (s.unknownAtomic num r)
      | .old v =>
        if !r.live then .next { s with ratoms := SMap.set s.ratoms none num none }
        else if s.atAtomic r then .next (s.retireAtomic num r v)
        else .next (put { r with old := some v })

/-- 50 µs in ns. -/
def retryTime : Nat := 50000

/-- ATOMIC_RETRY (R351): sent again under its number, or given up after four tries. -/
def execAtomicRetry (num : Nat) (s : State) : Out :=
  match SMap.get s.ratoms none num with
  | none => .next s
  | some r =>
    if r.slot = Config.slots ∨ r.heldHome ∨ r.old.isSome ∨ s.time.toNat - r.sentAt.toNat < retryTime then .next s
    else if r.tries < 4 then
      let again := { r with tries := r.tries + 1, sentAt := s.time }
      .next ({ s with ratoms := SMap.set s.ratoms none num (some again) }.send (.atomReq r.dst num r.op))
    else .next (s.unknownAtomic num r)

end Sys2Proof.Machine
end

