-- ==== Sys2Proof/Machine/Fleet.lean ====
section
/-! DEFINITION. Fleet health and bring-up: buddy images and adoption (R354, R355), measurement and attestation (R358), the module
reset and its stages (R316), and the end of an `AWAIT` of time (R167). -/

namespace Sys2Proof.Machine

/-! ### Buddy images (R354) -/

/-- Two images are of one task. -/
def sameTask (a b : BuddyImg) : Bool := a.pkg == b.pkg && a.queue == b.queue && a.seq == b.seq && a.record == b.record

/-- BUDDY_IMAGE (R354): the last byte of an image has come, and it takes the place of the older one. -/
def execBuddyImage (img : BuddyImg) (s : State) : Out :=
  .next { s with buddies := s.buddies.filter (fun b => !sameTask b img) ++ [img] }

/-! ### ADOPT (R355) -/

/-- The card of an image. -/
def imgCard (b : BuddyImg) : SMap Word :=
  (b.card.zip (upto b.card.length 0)).foldl (fun m e => SMap.set m 0 e.2 e.1) []

/-- The card of an adopted job: DEP0 to DEP3 and DONE cleared (DEDUCED, log 29). -/
def adoptedCard (b : BuddyImg) : SMap Word := [3, 4, 5, 6, 7].foldl (fun m i => SMap.set m 0 i 0) (imgCard b)

/-- ORIGIN of an adopted job (R355). -/
def originWord (b : BuddyImg) : Word := regWord [(b.pkg, 0), (b.queue, 9), (b.seq, 32)]

/-- TOTAL of an image (R327). -/
def imgTotal (b : BuddyImg) : Nat := ((b.image.find? fun e => e.1 == 0x28).map fun e => e.2.toNat).getD 0

/-- An image becomes a saved task of a job in an area of its tenant's pool; none where the pool has no area for it. The
image's TIN names memory of the dead package and is left out (DEDUCED, log 29). -/
def State.adoptImage (s : State) (id : Nat) (b : BuddyImg) : Option State :=
  let j := s.jobAt id
  if (s.tenAt j.tenant).saveSize < imgTotal b then none
  else
    match s.popPool j.tenant with
    | none => none
    | some (t, area) =>
      let w := fun (off : Nat) => ((b.image.find? fun e => e.1 == off).map fun e => e.2.toNat).getD 0
      let left := w 0x10
      let ws := b.image.filter fun e => e.1 != 0x08 && e.1 != 0x10 && e.1 != 0x258
      let ws := ws ++ [(0x08, BitVec.ofNat 64 s.nextTask),
        (0x10, regWord [(j.queue, 0), (bits left 12 4, 12), (j.seq.toNat, 32)])]
      let task : Task :=
        { taskId := BitVec.ofNat 64 s.nextTask, job := id, queue := j.queue, seq := j.seq, record := b.record, spr := j.spr,
          tenant := j.tenant, asid := j.asid, flags := BitVec.ofNat 5 (j.f 11), part := j.part, args := j.f 1, recsz := j.recsz }
      let v : Saved := { task := task, kind := 2, c := bits left 12 2, t := bits left 14 2, head := true }
      let u := t.writeArea area (imgTotal b) ws
      some { u with saved := SMap.set u.saved none area (some v), nextTask := s.nextTask + 1 }

/-- The images of a job become saved tasks; the records of those that find no area are returned. -/
def State.adoptImages (s : State) (id : Nat) : List BuddyImg → State × List Nat
  | [] => (s, [])
  | b :: r =>
    match s.adoptImage id b with
    | some t => t.adoptImages id r
    | none => let x := s.adoptImages id r; (x.1, b.record :: x.2)

/-- One job of a dead package is adopted into a queue. -/
def State.adoptJob (s : State) (q : Nat) (b : BuddyImg) : State :=
  let id := s.nextJob
  let seq := (s.queueAt q).hostLast + 1
  let imgs := s.buddies.filter fun x => x.pkg == b.pkg && x.queue == b.queue && x.seq == b.seq
  let m := BitVec.ofNat 4 (bits (SMap.get (imgCard b) 0 9).toNat 0 4)
  let done := imgs.flatMap (·.completed)
  let j : Job := { queue := q, seq := seq, field := adoptedCard b, dieMask := if m = 0 then 0xF else m, origin := originWord b }
  let fin := (upto j.count 0).filter done.contains
  let live := imgs.filter fun x => !done.contains x.record
  let j := { j with next := j.count, completed := fin.length, order := s.nextOrder }
  let t := s.changeQueue q fun x => { x with hostLast := seq, hvalid := true }
  let t := { t.updJob id fun _ => j with nextJob := id + 1, nextOrder := s.nextOrder + 1 }
  let x := t.adoptImages id live
  let again := (upto j.count 0).filter fun r => !fin.contains r && !(live.any fun b => b.record == r && !x.2.contains r)
  (x.1.updJob id fun j =>
    { j with returned := again, st := if again.isEmpty then .running else .eligible }).jobCheck id

/-- One image for each job of a dead package whose tenant owns a queue. -/
def State.adoptable (s : State) (pkg owner : Nat) : List BuddyImg :=
  (s.buddies.filter fun b => b.pkg == pkg && bits (SMap.get (imgCard b) 0 8).toNat 0 6 == owner).foldl
    (fun l b => if l.any fun x => x.queue == b.queue && x.seq == b.seq then l else l ++ [b]) []

/-- ADOPT (R355): ABSENT where the package is not dead or Q is no open device queue (DEDUCED, log 67). -/
def execAdopt (a _b : BitVec 64) (s : State) : Out :=
  let pkg := bits a.toNat 0 9
  let q := bits a.toNat 12 12
  if !(s.isDead pkg && (s.queueAt q).opened && (s.queueAt q).device) then .next (s.mbDone 3)
  else
    let l := s.adoptable pkg (s.queueAt q).owner
    let t := l.foldl (fun t b => t.adoptJob q b) s
    let t := { t with buddies := t.buddies.filter fun b => !(l.any fun x => x.pkg == b.pkg && x.queue == b.queue && x.seq == b.seq) }
    let t := { t with boot := { t.boot with mbb := BitVec.ofNat 64 l.length } }
    .next (t.mbDone 0)

/-! ### Measurement and attestation (R358) -/

/-- A measurement is added to a register. -/
def State.measure (s : State) (n : Nat) (m : List Byte) : State :=
  let v := SMap.get s.meas 0 n
  { s with meas := SMap.set s.meas 0 n (BitVec.ofNat 512 (leNat (shake256 (leBytes 64 v.toNat ++ m) 64))) }

/-- MEASUREMENT_EXTEND (R358): registers 3 to 7. -/
def execMeasurementExtend (n : Nat) (m : List (BitVec 8)) (s : State) : Out :=
  if 3 ≤ n ∧ n ≤ 7 then .next (s.measure n m) else .next s

/-- The report before its signature. -/
def State.report (s : State) (nonce : List Byte) : List Byte :=
  leBytes 4 0x5441394B ++ leBytes 4 1 ++ leBytes 4 0x0B92400 ++ leBytes 4 Config.deviceSerial.toNat ++ nonce ++
    ((upto 8 0).flatMap fun i => leBytes 64 (SMap.get s.meas 0 i).toNat) ++ leBytes 8 s.time.toNat ++
    leBytes 4 s.retired.length ++ leBytes 4 s.quarantined.length

/-- Bytes of the signature. -/
def signatureBytes : Nat := 35664

/-- SIGN_REPORT (R358): ABSENT where the buffer is misaligned or does not lie in module memory (DEDUCED, log 67). -/
def execSignReport (a _b : BitVec 64) (s : State) : Out :=
  let pa := a.toNat
  if pa % 64 ≠ 0 ∨ Config.moduleBytes < pa + 0x40 + 0x240 + signatureBytes then .next (s.mbDone 3)
  else
    let r := s.report ((upto 32 pa).map fun x => SMap.get s.mem 0 x)
    let sig := (upto signatureBytes 0).map (Config.signature r)
    .next ({ s with mem := writeBytes s.mem (pa + 0x40) (r ++ sig) }.mbDone 0)

/-! ### Module reset and bring-up (R60, R316) -/

/-- MODULE_RESET (R316): every register at its reset value. The records that outlive it stay, with the memories, the fabric's
time and what stands outside the package (DEDUCED, log 30). -/
def execModuleReset (s : State) : Out :=
  .next { State.reset with
    time := s.time, pkg := s.pkg, mem := s.mem, host := s.host, peer := s.peer, retired := s.retired,
    quarantined := s.quarantined, out := s.out, agenda := s.agenda, turn := s.turn, focus := s.focus, free := s.free }

/-- A recorded bank is retired again (R60). -/
def State.reapply (s : State) (r : Nat × Nat × Nat) : State :=
  let core := r.2.2
  let b := r.2.1
  match r.1 with
  | 0 =>
    s.updCore core fun c =>
      let d := { c with capTile := c.capTile - 16, ret := { c.ret with bank := b } }.repair
      { d with tileBanks := d.tileBanks &&& ~~~(BitVec.twoPow 32 b), ret := { d.ret with bank := 0 } }
  | 1 => s.updCore core fun c => { c with parBanks := c.parBanks &&& ~~~(BitVec.twoPow 4 b) }
  | 2 => s.updCore core fun c => { c with accBanks := c.accBanks &&& ~~~(BitVec.twoPow 8 b), capAcc := c.capAcc - 4 }
  | 3 => s.updCore core fun c => { c with vecBanks := c.vecBanks &&& ~~~(BitVec.twoPow 4 b), capSlots := c.capSlots - 1 }
  | 4 => s.updCore core fun c => { c with dBanks := c.dBanks &&& ~~~(BitVec.twoPow 8 b), capD := c.capD - 32 }
  | 5 => s.updCore core fun c => { c with iBanks := c.iBanks &&& ~~~(BitVec.twoPow 4 b), capI := c.capI - 32 }
  | _ =>
    let live := SMap.get s.sync.banks (BitVec.allOnes 16) (core / 48)
    { s with sync := { s.sync with
        banks := SMap.set s.sync.banks (BitVec.allOnes 16) (core / 48) (live &&& ~~~(BitVec.twoPow 16 b))
        spill := SMap.set s.sync.spill 0 (bankWord (core / 48) b) (2 ^ 15) } }

/-- The retired banks and the quarantined cores are put out of service again (DEDUCED, log 30). -/
def State.reapplyAll (s : State) : State :=
  s.quarantined.foldl (fun t c => t.updCore c fun c => { c with health := 2 }) (s.retired.foldl State.reapply s)

/-- A field of a service bundle (R293). -/
def bundleField (b : List Byte) (off n : Nat) : Nat := leNat ((b.drop off).take n)

/-- A service bundle that firmware takes: SVC values distinct, and every KHOFF below BLEN. -/
def svcBundleOk (b : List Byte) : Bool :=
  let n := bundleField b 6 2
  let svc := (upto n 0).map fun i => bundleField b (0x40 + 16 * i) 2
  decide (svc.Nodup) && (upto n 0).all fun i => decide (bundleField b (0x48 + 16 * i) 8 < bundleField b 8 8)

/-- The service region's base. -/
def svcPlace : Nat := Config.serviceBase % 2 ^ 52 / 64 * 64

/-- Stage 2 registers the service region and loads the bundle into it. -/
def State.loadService (s : State) (b : List Byte) : State :=
  if svcBundleOk b then
    { s with mem := writeBytes s.mem svcPlace b, boot := { s.boot with svcBase := svcPlace, svcLen := b.length } }
  else s

/-- BOOT_STAGE (R316, R358): a stage ends; `ok` says whether the next one's image carried its signature. -/
def execBootStage (ok : Bool) (image : List (BitVec 8)) (s : State) : Out :=
  let go := fun (t : State) (n : Nat) => Host.Outcome.next { t with boot := { t.boot with stage := n } }
  match s.boot.stage with
  | 0 => go s 1
  | 1 => go (s.measure 0 image) (if ok then 2 else 15)
  | 2 => go (s.reapplyAll.measure 1 image) (if ok then 3 else 15)
  | 3 => go ((s.measure 2 image).loadService image) 4
  | _ => .next s

/-! ### AWAIT_TIME (R167) -/

/-- AWAIT_TIME (R167): fabric time reaches the value a waiting A-seq named, which retires its `AWAIT`. -/
def execAwaitTime (slot : Nat) (s : State) : Out :=
  let k := s.slotAt slot
  if !(k.st.issues .a && k.a.parked && k.a.held.isEmpty && !s.deliverable slot) then .next s
  else
    match s.fetchAt slot .a k.a.pc with
    | .ok f =>
      match f.instr with
      | .await h kind reg =>
        if kind = 4 ∧ s.awaitEnded slot f.instr then
          execAwait h kind reg
            { s with cur := { slot := slot, st := .a, pc := f.pc, next := f.next, bundle := f.pc, g := k.a.g, p := k.a.p } }
        else .next s
      | _ => .next s
    | _ => .next s

end Sys2Proof.Machine
end

