-- ==== Sys2Proof/Machine/Dispatch.lean ====
section
/-! DEFINITION. The meaning of each row of the opcode table: one arm per constructor, each one call. -/

namespace Sys2Proof.Machine

/-- The meaning of an instruction or event. -/
def exec (i : Instr) (s : State) : Host.Outcome State Fault Refusal :=
  match i with
  | .add h d a b => Sys2Proof.Machine.execAdd h d a b s
  | .sub h d a b => Sys2Proof.Machine.execSub h d a b s
  | .mul h d a b => Sys2Proof.Machine.execMul h d a b s
  | .mulh h d a b => Sys2Proof.Machine.execMulh h d a b s
  | .mulhu h d a b => Sys2Proof.Machine.execMulhu h d a b s
  | .div h d a b => Sys2Proof.Machine.execDiv h d a b s
  | .divu h d a b => Sys2Proof.Machine.execDivu h d a b s
  | .rem h d a b => Sys2Proof.Machine.execRem h d a b s
  | .remu h d a b => Sys2Proof.Machine.execRemu h d a b s
  | .and h d a b => Sys2Proof.Machine.execAnd h d a b s
  | .or h d a b => Sys2Proof.Machine.execOr h d a b s
  | .xor h d a b => Sys2Proof.Machine.execXor h d a b s
  | .andn h d a b => Sys2Proof.Machine.execAndn h d a b s
  | .shl h d a b => Sys2Proof.Machine.execShl h d a b s
  | .shr h d a b => Sys2Proof.Machine.execShr h d a b s
  | .sar h d a b => Sys2Proof.Machine.execSar h d a b s
  | .rot h d a b => Sys2Proof.Machine.execRot h d a b s
  | .min h d a b => Sys2Proof.Machine.execMin h d a b s
  | .max h d a b => Sys2Proof.Machine.execMax h d a b s
  | .minu h d a b => Sys2Proof.Machine.execMinu h d a b s
  | .maxu h d a b => Sys2Proof.Machine.execMaxu h d a b s
  | .sel h d a b p => Sys2Proof.Machine.execSel h d a b p s
  | .addi h d a imm => Sys2Proof.Machine.execAddi h d a imm s
  | .andi h d a imm => Sys2Proof.Machine.execAndi h d a imm s
  | .ori h d a imm => Sys2Proof.Machine.execOri h d a imm s
  | .xori h d a imm => Sys2Proof.Machine.execXori h d a imm s
  | .shli h d a n => Sys2Proof.Machine.execShli h d a n s
  | .shri h d a n => Sys2Proof.Machine.execShri h d a n s
  | .sari h d a n => Sys2Proof.Machine.execSari h d a n s
  | .roti h d a n => Sys2Proof.Machine.execRoti h d a n s
  | .cmpi h p a c imm => Sys2Proof.Machine.execCmpi h p a c imm s
  | .clz h d a => Sys2Proof.Machine.execClz h d a s
  | .popc h d a => Sys2Proof.Machine.execPopc h d a s
  | .sext h d a k => Sys2Proof.Machine.execSext h d a k s
  | .zext h d a k => Sys2Proof.Machine.execZext h d a k s
  | .bfx h d a b => Sys2Proof.Machine.execBfx h d a b s
  | .bfi h d a b => Sys2Proof.Machine.execBfi h d a b s
  | .cmp h p c a b => Sys2Proof.Machine.execCmp h p c a b s
  | .pand h d a b => Sys2Proof.Machine.execPand h d a b s
  | .por h d a b => Sys2Proof.Machine.execPor h d a b s
  | .pxor h d a b => Sys2Proof.Machine.execPxor h d a b s
  | .pnot h d a => Sys2Proof.Machine.execPnot h d a s
  | .pmov h d a => Sys2Proof.Machine.execPmov h d a s
  | .li h d lo hi => Sys2Proof.Machine.execLi h d lo hi s
  | .br h p neg off syl => Sys2Proof.Machine.execBr h p neg off syl s
  | .brl h p neg off syl => Sys2Proof.Machine.execBrl h p neg off syl s
  | .jmpr h a => Sys2Proof.Machine.execJmpr h a s
  | .call h d a => Sys2Proof.Machine.execCall h d a s
  | .ret h a => Sys2Proof.Machine.execRet h a s
  | .loop h c off syl => Sys2Proof.Machine.execLoop h c off syl s
  | .dqpush h a => Sys2Proof.Machine.execDqpush h a s
  | .dqpop h d => Sys2Proof.Machine.execDqpop h d s
  | .bqpush h p => Sys2Proof.Machine.execBqpush h p s
  | .brq h p neg off syl => Sys2Proof.Machine.execBrq h p neg off syl s
  | .fork h off syl => Sys2Proof.Machine.execFork h off syl s
  | .rdv h => Sys2Proof.Machine.execRdv h s
  | .exit h => Sys2Proof.Machine.execExit h s
  | .yield h dropt keep => Sys2Proof.Machine.execYield h dropt keep s
  | .await h kind reg => Sys2Proof.Machine.execAwait h kind reg s
  | .nop h => Sys2Proof.Machine.execNop h s
  | .qcancel h d tag => Sys2Proof.Machine.execQcancel h d tag s
  | .trap h code => Sys2Proof.Machine.execTrap h code s
  | .eret h => Sys2Proof.Machine.execEret h s
  | .brk h code => Sys2Proof.Machine.execBrk h code s
  | .sysrd h d idx => Sys2Proof.Machine.execSysrd h d idx s
  | .syswr h a idx => Sys2Proof.Machine.execSyswr h a idx s
  | .shape h d a acc => Sys2Proof.Machine.execShape h d a acc s
  | .ld h d b z o => Sys2Proof.Machine.execLd h d b z o s
  | .st h d b z o => Sys2Proof.Machine.execSt h d b z o s
  | .aadd h d a b sz ord scope => Sys2Proof.Machine.execAadd h d a b sz ord scope s
  | .afadd h d a b sz ord scope => Sys2Proof.Machine.execAfadd h d a b sz ord scope s
  | .amin h d a b sz ord scope u => Sys2Proof.Machine.execAmin h d a b sz ord scope u s
  | .amax h d a b sz ord scope u => Sys2Proof.Machine.execAmax h d a b sz ord scope u s
  | .aand h d a b sz ord scope => Sys2Proof.Machine.execAand h d a b sz ord scope s
  | .aor h d a b sz ord scope => Sys2Proof.Machine.execAor h d a b sz ord scope s
  | .axor h d a b sz ord scope => Sys2Proof.Machine.execAxor h d a b sz ord scope s
  | .aswp h d a b sz ord scope => Sys2Proof.Machine.execAswp h d a b sz ord scope s
  | .acas h d a b sz ord scope c => Sys2Proof.Machine.execAcas h d a b sz ord scope c s
  | .sldf h d a scope => Sys2Proof.Machine.execSldf h d a scope s
  | .sldw h d a scope => Sys2Proof.Machine.execSldw h d a scope s
  | .sste h d a scope => Sys2Proof.Machine.execSste h d a scope s
  | .sstf h d a scope => Sys2Proof.Machine.execSstf h d a scope s
  | .seclr h a => Sys2Proof.Machine.execSeclr h a s
  | .fence h scope => Sys2Proof.Machine.execFence h scope s
  | .fencer h scope mask => Sys2Proof.Machine.execFencer h scope mask s
  | .drain h eng => Sys2Proof.Machine.execDrain h eng s
  | .rngbind h n a kind lreg len => Sys2Proof.Machine.execRngbind h n a kind lreg len s
  | .rngfree h n => Sys2Proof.Machine.execRngfree h n s
  | .gjoin h d a => Sys2Proof.Machine.execGjoin h d a s
  | .gleave h d a => Sys2Proof.Machine.execGleave h d a s
  | .gbar h d a scope => Sys2Proof.Machine.execGbar h d a scope s
  | .rres h d a b => Sys2Proof.Machine.execRres h d a b s
  | .rpub h e a b => Sys2Proof.Machine.execRpub h e a b s
  | .rtake h d a p => Sys2Proof.Machine.execRtake h d a p s
  | .rfree h e a => Sys2Proof.Machine.execRfree h e a s
  | .xroute h d a b => Sys2Proof.Machine.execXroute h d a b s
  | .xinv h d a b force => Sys2Proof.Machine.execXinv h d a b force s
  | .xpin h d a b => Sys2Proof.Machine.execXpin h d a b s
  | .xunpin h d a b => Sys2Proof.Machine.execXunpin h d a b s
  | .fetch h d t r n c sh cg cgv disc rcmd u => Sys2Proof.Machine.execFetch h d t r n c sh cg cgv disc rcmd u s
  | .fetchT h d t r n c sh cg cgv disc rcmd u => Sys2Proof.Machine.execFetchT h d t r n c sh cg cgv disc rcmd u s
  | .fetchMc h d t r n c sh cg cgv disc rcmd u mc => Sys2Proof.Machine.execFetchMc h d t r n c sh cg cgv disc rcmd u mc s
  | .fetchRf h d t r c cg cgv u => Sys2Proof.Machine.execFetchRf h d t r c cg cgv u s
  | .talloc h d t sh disc n => Sys2Proof.Machine.execTalloc h d t sh disc n s
  | .tstore h t r c hd u cg cgv => Sys2Proof.Machine.execTstore h t r c hd u cg cgv s
  | .tcon h hd => Sys2Proof.Machine.execTcon h hd s
  | .trel h hd => Sys2Proof.Machine.execTrel h hd s
  | .tadj h hd b => Sys2Proof.Machine.execTadj h hd b s
  | .tsettle h hd k => Sys2Proof.Machine.execTsettle h hd k s
  | .tquery h d hd sel => Sys2Proof.Machine.execTquery h d hd sel s
  | .park h d a cg cgv => Sys2Proof.Machine.execPark h d a cg cgv s
  | .unpark h d a cg cgv => Sys2Proof.Machine.execUnpark h d a cg cgv s
  | .cgrp h cg => Sys2Proof.Machine.execCgrp h cg s
  | .cwait h cg => Sys2Proof.Machine.execCwait h cg s
  | .ccopy h d a n cg cgv => Sys2Proof.Machine.execCcopy h d a n cg cgv s
  | .cgath h d t l n r m cg cgv => Sys2Proof.Machine.execCgath h d t l n r m cg cgv s
  | .cscat h d l r m cg cgv => Sys2Proof.Machine.execCscat h d l r m cg cgv s
  | .btnext h d k t => Sys2Proof.Machine.execBtnext h d k t s
  | .dpost h a => Sys2Proof.Machine.execDpost h a s
  | .dcal h d a => Sys2Proof.Machine.execDcal h d a s
  | .drun h cg cgv a b => Sys2Proof.Machine.execDrun h cg cgv a b s
  | .dstat h d a sel => Sys2Proof.Machine.execDstat h d a sel s
  | .fred h a cg cgv => Sys2Proof.Machine.execFred h a cg cgv s
  | .jpost h d a b => Sys2Proof.Machine.execJpost h d a b s
  | .jwait h d a b => Sys2Proof.Machine.execJwait h d a b s
  | .mset h fa fb sr => Sys2Proof.Machine.execMset h fa fb sr s
  | .mzero h n disc => Sys2Proof.Machine.execMzero h n disc s
  | .mstart h => Sys2Proof.Machine.execMstart h s
  | .mmul h a b n tb => Sys2Proof.Machine.execMmul h a b n tb s
  | .mmulc h d e b tb => Sys2Proof.Machine.execMmulc h d e b tb s
  | .mrot h d e => Sys2Proof.Machine.execMrot h d e s
  | .mdrain h hd n fmt part sigma => Sys2Proof.Machine.execMdrain h hd n fmt part sigma s
  | .mtopk h n c k clr => Sys2Proof.Machine.execMtopk h n c k clr s
  | .mtopkrd h d imm => Sys2Proof.Machine.execMtopkrd h d imm s
  | .mtopkrdT h hd => Sys2Proof.Machine.execMtopkrdT h hd s
  | .mkat h seed slo shi => Sys2Proof.Machine.execMkat h seed slo shi s
  | .macc h d e add => Sys2Proof.Machine.execMacc h d e add s
  | .mldacc h n hd half => Sys2Proof.Machine.execMldacc h n hd half s
  | .mstacc h n hd half => Sys2Proof.Machine.execMstacc h n hd half s
  | .vadd h d a b k => Sys2Proof.Machine.execVadd h d a b k s
  | .vsub h d a b k => Sys2Proof.Machine.execVsub h d a b k s
  | .vmul h d a b k => Sys2Proof.Machine.execVmul h d a b k s
  | .vmin h d a b k => Sys2Proof.Machine.execVmin h d a b k s
  | .vmax h d a b k => Sys2Proof.Machine.execVmax h d a b k s
  | .vfma h d a b k => Sys2Proof.Machine.execVfma h d a b k s
  | .vfmaN h d a b k => Sys2Proof.Machine.execVfmaN h d a b k s
  | .vabs h d a k => Sys2Proof.Machine.execVabs h d a k s
  | .vneg h d a k => Sys2Proof.Machine.execVneg h d a k s
  | .vrcp h d a k => Sys2Proof.Machine.execVrcp h d a k s
  | .vrsq h d a k => Sys2Proof.Machine.execVrsq h d a k s
  | .vexp2 h d a k => Sys2Proof.Machine.execVexp2 h d a k s
  | .vlog2 h d a k => Sys2Proof.Machine.execVlog2 h d a k s
  | .vscale h d a b k => Sys2Proof.Machine.execVscale h d a b k s
  | .vcmp h m c a b k => Sys2Proof.Machine.execVcmp h m c a b k s
  | .vsel h d a b k => Sys2Proof.Machine.execVsel h d a b k s
  | .viadd h d a b k ew u sat => Sys2Proof.Machine.execViadd h d a b k ew u sat s
  | .visub h d a b k ew u sat => Sys2Proof.Machine.execVisub h d a b k ew u sat s
  | .vimul h d a b k ew u sat => Sys2Proof.Machine.execVimul h d a b k ew u sat s
  | .vshl h d a b k ew u => Sys2Proof.Machine.execVshl h d a b k ew u s
  | .vshr h d a b k ew u => Sys2Proof.Machine.execVshr h d a b k ew u s
  | .vsar h d a b k ew u => Sys2Proof.Machine.execVsar h d a b k ew u s
  | .vand h d a b k ew u => Sys2Proof.Machine.execVand h d a b k ew u s
  | .vor h d a b k ew u => Sys2Proof.Machine.execVor h d a b k ew u s
  | .vxor h d a b k ew u => Sys2Proof.Machine.execVxor h d a b k ew u s
  | .vaddw h d a b k w => Sys2Proof.Machine.execVaddw h d a b k w s
  | .vcvt h d a k fr tgt => Sys2Proof.Machine.execVcvt h d a k fr tgt s
  | .vscan h d a k o iw u aw sat => Sys2Proof.Machine.execVscan h d a k o iw u aw sat s
  | .vred h d a k o iw u aw sat => Sys2Proof.Machine.execVred h d a k o iw u aw sat s
  | .vbcast h d a k => Sys2Proof.Machine.execVbcast h d a k s
  | .vbcastL h d a b k => Sys2Proof.Machine.execVbcastL h d a b k s
  | .vperm h d a b k => Sys2Proof.Machine.execVperm h d a b k s
  | .vrotl h d a b k => Sys2Proof.Machine.execVrotl h d a b k s
  | .viota h d a k => Sys2Proof.Machine.execViota h d a k s
  | .vcompress h d a k => Sys2Proof.Machine.execVcompress h d a k s
  | .vexpand h d a k => Sys2Proof.Machine.execVexpand h d a k s
  | .vld h d hd c cons k => Sys2Proof.Machine.execVld h d hd c cons k s
  | .vldx h d hd b cons k => Sys2Proof.Machine.execVldx h d hd b cons k s
  | .vst h a hd c k => Sys2Proof.Machine.execVst h a hd c k s
  | .vins h d a l => Sys2Proof.Machine.execVins h d a l s
  | .vext h d a l u => Sys2Proof.Machine.execVext h d a l u s
  | .vmpush h k => Sys2Proof.Machine.execVmpush h k s
  | .vminv h => Sys2Proof.Machine.execVminv h s
  | .vmpop h => Sys2Proof.Machine.execVmpop h s
  | .brmz h neg off syl => Sys2Proof.Machine.execBrmz h neg off syl s
  | .errInject core array bank addr syndrome => Sys2Proof.Machine.execErrInject core array bank addr syndrome s
  | .replay core slot array bank addr syndrome again => Sys2Proof.Machine.execReplay core slot array bank addr syndrome again s
  | .commandStart core e => Sys2Proof.Machine.execCommandStart core e s
  | .commandFinish core e => Sys2Proof.Machine.execCommandFinish core e s
  | .lineLand core => Sys2Proof.Machine.execLineLand core s
  | .linePerformed slot => Sys2Proof.Machine.execLinePerformed slot s
  | .tileFree core idx => Sys2Proof.Machine.execTileFree core idx s
  | .taskStart slot => Sys2Proof.Machine.execTaskStart slot s
  | .closingEnd slot => Sys2Proof.Machine.execClosingEnd slot s
  | .faultDeliver slot => Sys2Proof.Machine.execFaultDeliver slot s
  | .dealChunk die => Sys2Proof.Machine.execDealChunk die s
  | .entryRead q => Sys2Proof.Machine.execEntryRead q s
  | .write q v => Sys2Proof.Machine.execWrite q v s
  | .enable q on => Sys2Proof.Machine.execEnable q on s
  | .reset q => Sys2Proof.Machine.execReset q s
  | .cread q v => Sys2Proof.Machine.execCread q v s
  | .completionRecord q => Sys2Proof.Machine.execCompletionRecord q s
  | .registerWrite off v => Sys2Proof.Machine.execRegisterWrite off v s
  | .apertureAccess wr off v => Sys2Proof.Machine.execApertureAccess wr off v s
  | .launchPacket q pkg ten entry => Sys2Proof.Machine.execLaunchPacket q pkg ten entry s
  | .mailboxXinv a b => Sys2Proof.Machine.execMailboxXinv a b s
  | .mailboxXinvForced a b => Sys2Proof.Machine.execMailboxXinvForced a b s
  | .mailboxXpin a b => Sys2Proof.Machine.execMailboxXpin a b s
  | .mailboxXunpin a b => Sys2Proof.Machine.execMailboxXunpin a b s
  | .descinv a b => Sys2Proof.Machine.execDescinv a b s
  | .hold a b => Sys2Proof.Machine.execHold a b s
  | .release a b => Sys2Proof.Machine.execRelease a b s
  | .preempt a b => Sys2Proof.Machine.execPreempt a b s
  | .preemptTimeout slot => Sys2Proof.Machine.execPreemptTimeout slot s
  | .resume a b => Sys2Proof.Machine.execResume a b s
  | .restore die => Sys2Proof.Machine.execRestore die s
  | .pushsave a b => Sys2Proof.Machine.execPushsave a b s
  | .drop a b => Sys2Proof.Machine.execDrop a b s
  | .adopt a b => Sys2Proof.Machine.execAdopt a b s
  | .quarantineRelease a b => Sys2Proof.Machine.execQuarantineRelease a b s
  | .signReport a b => Sys2Proof.Machine.execSignReport a b s
  | .mailboxUnassigned op a b => Sys2Proof.Machine.execMailboxUnassigned op a b s
  | .retreq core array bank => Sys2Proof.Machine.execRetreq core array bank s
  | .shrink core => Sys2Proof.Machine.execShrink core s
  | .retirementDeadline core => Sys2Proof.Machine.execRetirementDeadline core s
  | .relocate core => Sys2Proof.Machine.execRelocate core s
  | .reInterleave core => Sys2Proof.Machine.execReInterleave core s
  | .close core => Sys2Proof.Machine.execClose core s
  | .bankRetirement core => Sys2Proof.Machine.execBankRetirement core s
  | .syncWordMove die => Sys2Proof.Machine.execSyncWordMove die s
  | .homeMove asid va => Sys2Proof.Machine.execHomeMove asid va s
  | .linkFailure k n => Sys2Proof.Machine.execLinkFailure k n s
  | .linkTimeout k n => Sys2Proof.Machine.execLinkTimeout k n s
  | .linkRecovery k n => Sys2Proof.Machine.execLinkRecovery k n s
  | .flitReceive link bytes => Sys2Proof.Machine.execFlitReceive link bytes s
  | .retrainEnd link => Sys2Proof.Machine.execRetrainEnd link s
  | .heartbeat pkg => Sys2Proof.Machine.execHeartbeat pkg s
  | .declareDead pkg => Sys2Proof.Machine.execDeclareDead pkg s
  | .standbyTakeover => Sys2Proof.Machine.execStandbyTakeover s
  | .posting member tenant tag accept demand => Sys2Proof.Machine.execPosting member tenant tag accept demand s
  | .calendar tenant tag phases repost entries => Sys2Proof.Machine.execCalendar tenant tag phases repost entries s
  | .calendarAck member tenant tag => Sys2Proof.Machine.execCalendarAck member tenant tag s
  | .commit tenant tag base => Sys2Proof.Machine.execCommit tenant tag base s
  | .drunEntry tenant tag e data ended => Sys2Proof.Machine.execDrunEntry tenant tag e data ended s
  | .fredContribution member red data => Sys2Proof.Machine.execFredContribution member red data s
  | .reductionDeadline rid => Sys2Proof.Machine.execReductionDeadline rid s
  | .remoteAtomic src num op => Sys2Proof.Machine.execRemoteAtomic src num op s
  | .atomicReply num reply => Sys2Proof.Machine.execAtomicReply num reply s
  | .atomicRetry num => Sys2Proof.Machine.execAtomicRetry num s
  | .replyCacheExpiry src => Sys2Proof.Machine.execReplyCacheExpiry src s
  | .buddyImage img => Sys2Proof.Machine.execBuddyImage img s
  | .markKey t imm v => Sys2Proof.Machine.execMarkKey t imm v s
  | .clear t => Sys2Proof.Machine.execClear t s
  | .moduleReset => Sys2Proof.Machine.execModuleReset s
  | .bootStage ok image => Sys2Proof.Machine.execBootStage ok image s
  | .illegal reason addr => Sys2Proof.Machine.execIllegal reason addr s
  | .awaitTime slot => Sys2Proof.Machine.execAwaitTime slot s
  | .quota core k tile acc => Sys2Proof.Machine.execQuota core k tile acc s
  | .knownAnswerService core pass => Sys2Proof.Machine.execKnownAnswerService core pass s
  | .retrainAtRequest link => Sys2Proof.Machine.execRetrainAtRequest link s
  | .measurementExtend n m => Sys2Proof.Machine.execMeasurementExtend n m s

end Sys2Proof.Machine
end

