-- ==== Sys2Proof/Machine/Turns.lean ====
section
/-! DEFINITION. One turn of the machine: a step of another part of it, a grant of sequencer issue (R22, R144, R150,
R170), the eviction of a cache line, or the passing of time; the order in which turns come (DESIGN CHOICE, log 4); and the placing of
an instruction where the next step fetches it (DESIGN CHOICE, log 5). -/

namespace Sys2Proof.Machine

/-! ### Grants -/

/-- The slot in issue begins an instruction: its registers as read (R144). -/
def State.begin (s : State) (slot : Nat) (st : Stream) (pc next bundle : Word) (q : Seq) : State :=
  { s with cur := { slot := slot, st := st, pc := pc, next := next, bundle := bundle, g := q.g, p := q.p } }

/-- Pushes the SIG masks held at retirement, in order, while they fit (R12 item 2). -/
def Slot.retrySigs (k : Slot) (st : Stream) : List (BitVec 8) → Slot
  | [] => k.updSeq st fun q => { q with held := [] }
  | m :: r => if k.tokFits m then (k.pushTok m).retrySigs st r else k.updSeq st fun q => { q with held := m :: r }

/-- A fault of the fetch: ILLEGAL has its own step (R147; DEDUCED, log 10). -/
def State.fetchFault (s : State) (b : Bad) : Out :=
  if b.cause = cILLEGAL then execIllegal b.reason b.addr s else .next (s.issueFault b 0 s.cur.pc)

/-- How one member of a bundle went. -/
def wentOf : Out → Went
  | .next t => t.cur.went
  | _ => .faulted

/-- The members of a bundle run in order on the registers read at its start. The first that does not retire decides for
all: the bundle has no other effect (R144; DEDUCED, log 34; DEDUCED, log 36). -/
def State.runBundle (s0 s : State) (slot : Nat) (bundle : Word) (q : Seq) : List Fetched → Out
  | [] => .next s
  | f :: r =>
    match exec f.instr (s.begin slot .x f.pc f.next bundle q) with
    | .next t =>
      if t.cur.went = .retired then s0.runBundle t slot bundle q r
      else
        match exec f.instr (s0.begin slot .x f.pc f.next bundle q) with
        | .next u => .next (if u.cur.went = .retired then s0 else u)
        | o => o
    | o => o

/-- The bundle holds a `DRAIN`, whose markers stand behind what was pushed before the bundle (R118, R144). -/
def Instr.isDrain : Instr → Bool
  | .drain .. => true
  | _ => false

def State.markDrain (s : State) (slot : Nat) (is : List Fetched) : State :=
  if is.any fun f => Instr.isDrain f.instr then
    s.updSlot slot fun k => { k with x := { k.x with drain := some (k.x.drain.getD k.nextCmd) } }
  else s

/-- X-seq of a slot issues the bundle at its program counter. -/
def State.issueX (s : State) (slot : Nat) : Out :=
  let q := (s.slotAt slot).x
  let s1 := s.begin slot .x q.pc q.pc q.pc q
  match s.fetchBundle slot q.pc with
  | .bad b => s1.fetchFault b
  | .wait c => .next (s1.memWait c)
  | .void pa => .fault (.noMemory pa)
  | .ok is =>
    let s2 := s1.markDrain slot is
    s2.runBundle s2 slot q.pc (s2.slotAt slot).x is

/-- A-seq waits at `RDV` beside a bundle of X-seq that waits at its own: the bundle issues at once (R15, R144). -/
def State.handOver (before after : State) (slot : Nat) : Bool :=
  decide ((before.slotAt slot).st = .meetX) && decide ((after.slotAt slot).st = .meetA)

/-- A-seq of a slot issues the instruction at its program counter. -/
def State.issueA (s : State) (slot : Nat) : Out :=
  let q := (s.slotAt slot).a
  let s1 := s.begin slot .a q.pc q.pc q.pc q
  match s.fetchAt slot .a q.pc with
  | .bad b => s1.fetchFault b
  | .wait c => .next (s1.memWait c)
  | .void pa => .fault (.noMemory pa)
  | .ok f =>
    match exec f.instr (s.begin slot .a f.pc f.next f.pc q) with
    | .next t => if s.handOver t slot then t.issueX slot else .next t
    | o => o

/-- A granted sequencer: held SIG masks first, then for A-seq a fault that waits for its boundary (R170), then its
next instruction. -/
def State.issue (s : State) (slot : Nat) (st : Stream) : Out :=
  let s := s.updSlot slot fun k => k.retrySigs st (k.seq st).held
  if !((s.slotAt slot).seq st).held.isEmpty then .next s
  else
    match st with
    | .x => s.issueX slot
    | .a => if s.deliverable slot then exec (.faultDeliver slot) s else s.issueA slot

/-- A grant of a core's A-seq or X-seq issue. -/
def State.grant (s : State) (core : Nat) (st : Stream) : Out :=
  match s.arbitrate core (arbOf st) (s.seqRequesters core st) with
  | none => .next s
  | some (t, slot) => t.issue slot st

/-! ### Turns -/

/-- One turn (DESIGN CHOICE, log 7). -/
def State.take (s : State) : Turn → Out
  | .event i => exec i s
  | .grant core st => s.grant core st
  | .evict core line => .next (s.invalidate core line)
  | .dropDesc core key => .next (s.updCore core fun c => { c with desc := SMap.erase c.desc key })
  | .tick ns => .next { s with time := s.time + BitVec.ofNat 64 ns }

/-- The turns of one core. -/
def coreTurns (c : Nat) : List Turn :=
  [.grant c .a, .grant c .x, .event (.commandStart c .copy), .event (.lineLand c), .event (.commandFinish c .copy),
   .event (.commandStart c .matrix), .event (.commandFinish c .matrix), .event (.commandStart c .vector),
   .event (.commandFinish c .vector)] ++
  (upto 4 (4 * c)).flatMap fun n =>
    [.event (.linePerformed n), .event (.taskStart n), .event (.preemptTimeout n), .event (.closingEnd n)]

/-- A fault of a closing task goes to the driver without a grant (R15). -/
def State.closingTurns (s : State) (c : Nat) : List Turn :=
  ((upto 4 (4 * c)).filter fun n => (s.slotAt n).st == .closing && s.deliverable n).map fun n => .event (.faultDeliver n)

/-- A mailbox operation that waits is tried again; a pre-emption goes on by its own steps (R314, R323). -/
def State.mailTurns (s : State) : List Turn :=
  if s.boot.mbBusy ∧ s.boot.mbOp ≠ 8 then [.event s.boot.operation] else []

/-- The turns of the queues and of a die's task scheduler (R18, R20, R304, R330). -/
def State.jobTurns (s : State) (die : Nat) : List Turn :=
  (s.queues.flatMap fun q => [.event (.entryRead q.1), .event (.completionRecord q.1)]) ++
    [.event (.dealChunk die), .event (.restore die)]

/-- The turns that follow one another while nothing stands in the agenda, around the core in focus. -/
def State.cycle (s : State) : List Turn :=
  coreTurns s.focus ++ s.closingTurns s.focus ++ s.jobTurns (s.focus / 48) ++ s.mailTurns

/-- The next turn, and the state without it: the head of the agenda, or the next of the cycle; after the last, time passes
and the next core comes into focus (DESIGN CHOICE, log 4). -/
def State.nextTurn (s : State) : Turn × State :=
  match s.agenda with
  | t :: r => (t, { s with agenda := r })
  | [] =>
    match s.cycle[s.turn]? with
    | some t => (t, { s with turn := s.turn + 1 })
    | none => (.tick 1, { s with turn := 0, focus := (s.focus + 1) % Config.cores })

/-- One step of the machine. -/
def State.advance (s : State) : Out :=
  let n := s.nextTurn
  n.2.take n.1

end Sys2Proof.Machine
end

