-- ==== Sys2Proof/Machine/Place.lean ====
section
/-! DEFINITION. How an instruction is placed where the next step runs it (DESIGN CHOICE, log 5): address space 0 with one page of module
memory that holds a code image of one line, a task in slot 0 of core 0 of die 0, and the grant of its sequencer as the
next turn. -/

namespace Sys2Proof.Machine

/-- The X stream alone holds the instruction. -/
def xOnly (i : Instr) : Bool := i.info.inX && !i.info.inA

/-- The syllable that ends the bundle of an X-stream instruction whose S is 0: `NOP` with S = 1. -/
def nopSyl : List Nat := encode (.nop ⟨true, none⟩)

/-- The syllables placed: the instruction's own, and a `NOP` that closes its bundle where it is needed. -/
def placedSyls (x : Bool) (nbits w : Nat) (len : Nat) : List Nat :=
  let own := (tableSyls (w % 2 ^ nbits)).take len
  if x && !bit w 31 then own ++ nopSyl else own

/-- The code line: link word (owner, END, COUNT) and the syllables (R128, R129; DESIGN CHOICE, log 5). -/
def placedLine (x : Bool) (syls : List Nat) : Nat :=
  let link := (if x then 1 else 0) * 2 ^ 30 + 2 ^ 29 + (syls.length - 1) * 2 ^ 25
  (syls.zip (upto syls.length 1)).foldl (fun v e => v + e.1 * 2 ^ (32 * e.2)) link

/-- The page tables of ASID 0, from 0x1000 on, with the ASID table at 0: the 64 KiB page at virtual address 0x10000 is
the module-memory page at 0x10000 (R310, R311; DESIGN CHOICE, log 5). -/
def State.placePages (s : State) : State :=
  let t := s.wrPhys 0 8 (0x1000 + 1)
  let t := t.wrPhys 0x1000 8 (0x2000 + 1)
  let t := t.wrPhys 0x2000 8 (0x3000 + 1)
  let t := t.wrPhys 0x3000 8 (0x4000 + 1)
  t.wrPhys (0x4000 + 8) 8 (0x10000 + 7)

/-- The task that runs the image (DESIGN CHOICE, log 5). -/
def State.placeTask (s : State) (x : Bool) (pc : Word) : State :=
  s.updSlot 0 fun _ =>
    let seq : Seq := { pc := pc }
    { st := if x then .both else .solo, a := seq, x := seq
      task := { taskId := 1, base := 0x10000, lines := 1, entry := pc, handler := pc }
      quotaT := 512, grantT := 512, quotaA := 32, grantA := 32, grantV := 32 }

/-- The stream and the syllables of the word placed: a word that no instruction has is one syllable of the A stream, whose
fetch faults ILLEGAL. -/
def placedForm (nbits w : Nat) : Bool × Nat :=
  match decode none (tableSyls (w % 2 ^ nbits)) with
  | .bad .. => (false, 1)
  | .ok i len => (xOnly i, len)

/-- The state with an instruction placed (DESIGN CHOICE, log 5). -/
def State.placed (s : State) (nbits w : Nat) : State :=
  let f := placedForm nbits w
  let t := (s.placePages.wrPhys 0x10000 64 (placedLine f.1 (placedSyls f.1 nbits w f.2))).placeTask f.1 0x10004
  { t with focus := 0, agenda := [.grant 0 (if f.1 then .x else .a)] }

end Sys2Proof.Machine
end

