-- ==== Sys2Proof/Machine/Step.lean ====
section
/-! DEFINITION. One step of the machine, and the placing of an instruction where the next step runs it. -/

namespace Sys2Proof.Machine

/-- One step: the next turn of the agenda, or of the fixed cycle of turns (DESIGN CHOICE, log 4). -/
def step (s : State) : Host.Outcome State Fault Refusal := s.advance

/-- The state with an instruction stored where the next step fetches it (DESIGN CHOICE, log 5). -/
def State.withFetchWord (s : State) (nbits w : Nat) : State := s.placed nbits w

end Sys2Proof.Machine
end

