-- ==== Sys2Proof/Safety.lean ====
section
/-! DEFINITION. What counts as a safe step and a safe run, and the terms in which statements say what an instruction needs, what
it changes and what it leaves. -/

namespace Sys2Proof

open Machine

/-! ### Steps -/

/-- The step goes on: it ends in no fault and no refusal of the model. -/
def Goes (o : Host.Outcome State Fault Refusal) : Prop := ∃ t, o = .next t

/-- An invariant is kept by every step. -/
def Kept (inv : State → Prop) : Prop := ∀ s t, inv s → step s = .next t → inv t

/-- Every memory of the package, and those of its peers as far as they are known, hold their canonical form. -/
def MemoryOk (s : State) : Prop :=
  s.mem.wf ∧ s.host.wf ∧ SMap.wf ([] : Memory) s.peer = true ∧ ∀ e ∈ s.peer, Memory.wf e.2

/-! ### What a sequencer instruction needs to issue (R11, R12, R33) -/

/-- The token clause names only queues the sequencer may use, no register named waits for an engine, and every WAIT queue
holds a count. -/
structure Ready (s : State) (h : Hdr) (gs : List Reg) (ps : List PReg) : Prop where
  queues : tokQueuesOk h .seq s.cur.st = true
  regs : s.mySeq.awaits gs ps = false
  tokens : s.me.hasTok h.wait = true

/-- What an engine instruction needs: queues the engine may use, no register it names awaited, room in the engine's queue, and
no `SHAPE` that holds the matrix and vector queues (R10, R33, R175). -/
structure EngReady (s : State) (e : Engine) (h : Hdr) (gs : List Reg) (ps : List PReg) : Prop where
  queues : tokQueuesOk h (engineAgent e) s.cur.st = true
  regs : s.mySeq.awaits gs ps = false
  room : s.me.queueFull e = false
  held : e = .copy ∨ s.me.a.shaping = false

/-! ### What an instruction changes -/

/-- In state `t`, the slot and the sequencer of the instruction that was in issue in `s`. -/
def Machine.State.slotOf (t s : State) : Slot := t.slotAt s.cur.slot
def Machine.State.seqOf (t s : State) : Seq := (t.slotOf s).seq s.cur.st

/-- A register after an instruction that writes `g`; `g0` discards (R30). -/
def regAfter (g : Option (Reg × Word)) (r : Reg) (old : Word) : Word :=
  match g with
  | some (d, v) => if r = d ∧ d ≠ 0 then v else old
  | none => old

/-- A predicate likewise; `p0` discards. -/
def predAfter (p : Option (PReg × Bool)) (r : PReg) (old : Bool) : Bool :=
  match p with
  | some (d, v) => if r = d ∧ d ≠ 0 then v else old
  | none => old

/-- One bit of a mask, as a count. -/
def bitCount (m : BitVec 8) (i : Fin 8) : Nat := if m.getLsbD i then 1 else 0

/-- Every queue of SIG has room once WAIT has been popped (R12 item 2). -/
def SigFits (k : Slot) (h : Hdr) : Prop := ∀ i : Fin 8, h.sig.getLsbD i = true → k.tok.get i - bitCount h.wait i < Config.tokenMax

/-- The counts after WAIT has been popped, and after SIG has been pushed where it fits (R12). -/
structure Tokens (k k' : Slot) (h : Hdr) : Prop where
  fits : SigFits k h → ∀ i : Fin 8, k'.tok.get i = k.tok.get i - bitCount h.wait i + bitCount h.sig i
  full : ¬ SigFits k h → ∀ i : Fin 8, k'.tok.get i = k.tok.get i - bitCount h.wait i

/-- The instruction in issue in `s` has retired in `t` and its sequencer stands at `pc`: one register, one predicate, the tokens
and the issue count have changed, every other register and predicate has not (R12, R30, R33, R150, R176). -/
structure Retired (s t : State) (h : Hdr) (pc : Word) (g : Option (Reg × Word)) (p : Option (PReg × Bool)) : Prop where
  went : t.cur.went = .retired
  pc : (t.seqOf s).pc = pc
  regs : ∀ r, (t.seqOf s).rd r = regAfter g r (s.mySeq.rd r)
  preds : ∀ r, (t.seqOf s).rdP r = predAfter p r (s.mySeq.rdP r)
  awaitG : (t.seqOf s).awG = s.mySeq.awG
  awaitP : (t.seqOf s).awP = s.mySeq.awP
  issued : (t.seqOf s).issued = if s.cur.st = .a ∨ h.stop = true then s.mySeq.issued + 1 else s.mySeq.issued
  tokens : Tokens s.me (t.slotOf s) h
  pushed : SigFits s.me h → (t.seqOf s).held = s.mySeq.held
  held : ¬ SigFits s.me h → (t.seqOf s).held = s.mySeq.held ++ [h.sig]

/-- Nothing outside the task slots has changed: no memory, no core, no queue, no link, no register of the package. (`cur` is the
model's own record of the instruction in issue.) -/
def OnlySlots (s t : State) : Prop := { t with slots := s.slots, cur := s.cur } = s

/-- Nothing outside the slot in issue has changed. -/
structure OnlySlot (s t : State) : Prop where
  package : OnlySlots s t
  slots : ∀ n, n ≠ s.cur.slot → t.slotAt n = s.slotAt n

/-- Nothing outside the slot in issue has changed, and that slot is `k` but for its token counts and for the sequencer in
issue. -/
structure SlotAs (s t : State) (k : Slot) : Prop extends OnlySlot s t where
  slot : { t.slotOf s with tok := k.tok, a := k.a, x := k.x } = k
  other : ∀ st, st ≠ s.cur.st → (t.slotOf s).seq st = k.seq st

/-- Nothing outside the sequencer in issue and its slot's token counts has changed. -/
abbrev OnlyIssuer (s t : State) : Prop := SlotAs s t s.me

/-- The instruction completes: it retires, writes at most `g` and `p`, goes on at `pc`, makes its slot `k` otherwise, and changes
nothing else. -/
def CompletesAs (s : State) (i : Instr) (h : Hdr) (pc : Word) (g : Option (Reg × Word)) (p : Option (PReg × Bool)) (k : Slot) :
    Prop := ∃ t, exec i s = .next t ∧ Retired s t h pc g p ∧ SlotAs s t k

/-- The instruction completes: it retires, writes at most `g` and `p`, goes on at `pc`, and changes nothing else. -/
def Completes (s : State) (i : Instr) (h : Hdr) (pc : Word) (g : Option (Reg × Word)) (p : Option (PReg × Bool)) : Prop :=
  ∃ t, exec i s = .next t ∧ Retired s t h pc g p ∧ OnlyIssuer s t

/-- It writes one register and goes on behind itself. -/
def Writes (s : State) (i : Instr) (h : Hdr) (d : Reg) (v : Word) : Prop := Completes s i h s.cur.next (some (d, v)) none

/-- It writes one predicate and goes on behind itself. -/
def WritesP (s : State) (i : Instr) (h : Hdr) (d : PReg) (v : Bool) : Prop := Completes s i h s.cur.next none (some (d, v))

/-- It waits: nothing changes but the model's own record. -/
def Stalls (s : State) (i : Instr) : Prop := exec i s = .next s.stalled

/-- It faults at issue with a cause and reason. -/
def Faults (s : State) (i : Instr) (cause reason : BitVec 8) (addr : Word) : Prop :=
  exec i s = .next (s.issueFault ⟨cause, reason, addr⟩ 0 s.cur.pc)

/-! ### Memory accesses -/

/-- The leaf and the location of a byte of the issuing task's address space. -/
def Machine.State.leafAt (s : State) (va : Nat) : Leaf :=
  match s.translate s.me.task.asid va with
  | .ok l => l
  | .error _ => {}
def Machine.State.locAt (s : State) (va : Nat) : Loc := (s.leafAt va).loc va

/-- The access of `n` bytes at `va` by the task in issue is in order: it lies in the address space (R311), and every byte has
a translation of which `ok` holds, lies where memory exists (R360), and is held up by no link (R97). -/
structure Accessible (s : State) (va n : Nat) (ok : Leaf → Bool) : Prop where
  space : va + n ≤ 2 ^ 48
  leaf : ∀ a, va ≤ a → a < va + n → ∃ l, s.translate s.me.task.asid a = .ok l ∧ ok l = true ∧
    (l.tier = 0 → (l.loc a).pa < 3 * 2 ^ 40) ∧ s.linkHolds (l.loc a) = none

/-- A byte as the core in issue reads it: through its data cache where the page is cached, and at its home otherwise. -/
def Machine.State.seesAt (s : State) (va : Nat) : Byte :=
  if cached (s.leafAt va) then s.viewByte (coreOf s.cur.slot) (s.locAt va) else s.homeByte (s.locAt va)

/-- What a load, a store or a fence leaves: only module and host memory, the held translations, the data cache of its own core
and the HOME counters of its slots can have changed, and outside the bytes `stored` a byte of memory changes only where a
dirty line of that core is written back. -/
structure MemFrame (s t : State) (stored : Loc → Prop) : Prop where
  package : { t with mem := s.mem, host := s.host, tlb := s.tlb, cores := s.cores, slots := s.slots, cur := s.cur,
                     free := s.free } = s
  cores : ∀ c, c ≠ coreOf s.cur.slot → t.coreAt c = s.coreAt c
  core : { t.coreAt (coreOf s.cur.slot) with dc := s.myCore.dc, nextStore := s.myCore.nextStore } = s.myCore
  slots : ∀ n, n ≠ s.cur.slot → { t.slotAt n with homes := (s.slotAt n).homes } = s.slotAt n
  slot : { t.slotOf s with tok := s.me.tok, a := s.me.a, x := s.me.x, homes := s.me.homes } = s.me
  other : ∀ st, st ≠ s.cur.st → (t.slotOf s).seq st = s.me.seq st
  bytes : ∀ l : Loc, l.tier < 2 → l.pkg = 0 → ¬ stored l → t.homeByte l = s.homeByte l ∨
    ((s.lineAt (coreOf s.cur.slot) (lineKey l)).dirty = true ∧ t.homeByte l = s.viewByte (coreOf s.cur.slot) l)

/-! ### Faults -/

/-- The fault that `A-seq` of the slot in issue raises is delivered to the user handler (R170): the fault registers hold it, A-seq
stands at the handler in handler mode, X-seq is held, and no register or predicate has changed. -/
structure Handled (s t : State) (tr : Trap) (ret : Word) : Prop where
  went : t.cur.went = .faulted
  cause : (t.slotOf s).fault.cause = tr.cause
  addr : (t.slotOf s).fault.addr = tr.addr
  pc : (t.slotOf s).fault.pc = tr.pc
  reason : (t.slotOf s).fault.info.extractLsb' 0 8 = tr.reason
  source : (t.slotOf s).fault.info.extractLsb' 8 3 = tr.source
  async : (t.slotOf s).fault.info.getLsbD 11 = tr.async
  code : (t.slotOf s).fault.info.extractLsb' 16 16 = tr.code
  itag : (t.slotOf s).fault.info.extractLsb' 32 8 = tr.itag
  ret : (t.slotOf s).fault.ret = ret
  mode : (t.slotOf s).fault.handler = true
  held : (t.slotOf s).xHeld = true
  entry : (t.slotOf s).a.pc = s.me.task.handler
  regs : ∀ st r, ((t.slotOf s).seq st).rd r = (s.me.seq st).rd r
  preds : ∀ st r, ((t.slotOf s).seq st).rdP r = (s.me.seq st).rdP r
  memory : t.mem = s.mem ∧ t.host = s.host ∧ t.cores = s.cores

/-! ### Engine instructions -/

/-- An engine instruction has entered its queue (R10, R33): its sequencer stands at Next with its registers as they were, those the
engine will write are awaited, no token has moved, and the entry, with the operand values `ops`, stands at the tail. -/
structure Queued (s t : State) (e : Engine) (i : Instr) (ops : List Word) (ws : List Reg) (wps : List PReg) : Prop where
  went : t.cur.went = .retired
  pc : (t.seqOf s).pc = s.cur.next
  regs : ∀ r, (t.seqOf s).rd r = s.mySeq.rd r
  preds : ∀ r, (t.seqOf s).rdP r = s.mySeq.rdP r
  awaitG : ∀ r : Reg, (t.seqOf s).awG.getLsbD r.toNat = (s.mySeq.awG.getLsbD r.toNat || (r ≠ 0 && ws.contains r))
  awaitP : ∀ r : PReg, (t.seqOf s).awP.getLsbD r.toNat = (s.mySeq.awP.getLsbD r.toNat || (r ≠ 0 && wps.contains r))
  tokens : (t.slotOf s).tok = s.me.tok
  entry : ∃ c : Cmd, c.instr = i ∧ c.pc = s.cur.pc ∧ c.ops = ops ∧ c.started = false ∧ c.num = s.me.nextCmd ∧
    if (s.me.aside e).isEmpty || s.me.fault.handler then
      (t.slotOf s).queue e = s.me.queue e ++ [c] ∧ (t.slotOf s).aside e = s.me.aside e
    else (t.slotOf s).queue e = s.me.queue e ∧ (t.slotOf s).aside e = s.me.aside e ++ [c]
  queues : ∀ e', e' ≠ e → (t.slotOf s).queue e' = s.me.queue e' ∧ (t.slotOf s).aside e' = s.me.aside e'
  other : ∀ st, st ≠ s.cur.st → (t.slotOf s).seq st = s.me.seq st

/-- An engine instruction that touches nothing else enters its queue. -/
def Enqueues (s : State) (e : Engine) (i : Instr) (ops : List Word) (ws : List Reg) (wps : List PReg) : Prop :=
  ∃ t, exec i s = .next t ∧ Queued s t e i ops ws wps ∧ OnlySlot s t

/-! ### What an engine entry leaves -/

/-- The first slot of a core has the started entry `c` at the head of its vector queue, not yet ended, whose SIG fits (R10, R12). -/
def Runs (s : State) (core : Nat) (e : Engine) (c : Cmd) (rest : List Cmd) : Prop :=
  (s.slotAt (4 * core)).queue e = c :: rest ∧ c.started = true ∧ c.ended = false ∧ c.recorded = false ∧
    (s.slotAt (4 * core)).tokFits c.hdr.sig = true

/-- Lane `i` of vector register `r`, and whether a mask selects it (R246, R248). -/
def laneAt (k : Slot) (r : Reg) (i : Nat) : Nat := (SMap.get k.v 0 r.toNat).toNat / 2 ^ (32 * i) % 2 ^ 32
def selects (k : Slot) (m : BitVec 3) (i : Nat) : Bool :=
  if m = 0 then true else if m = 7 then (k.mstack.headD (BitVec.allOnes 128)).getLsbD i else (SMap.get k.m 0 m.toNat).getLsbD i

/-- A vector command that has finished: its queue without it, its SIG pushed, and nothing outside its slot changed. -/
structure Finished1 (s t : State) (core : Nat) (e : Engine) (c : Cmd) (rest : List Cmd) : Prop where
  queue : (t.slotAt (4 * core)).queue e = rest
  tokens : ∀ i : Fin 8, (t.slotAt (4 * core)).tok.get i = (s.slotAt (4 * core)).tok.get i + bitCount c.hdr.sig i
  others : ∀ n, n ≠ 4 * core → t.slotAt n = s.slotAt n
  package : { t with slots := s.slots } = s

/-! ### Events -/

/-- An event happens: it leaves the state `t`. -/
def Happens (s : State) (i : Instr) (t : State) : Prop := exec i s = .next t

end Sys2Proof
end

