-- ==== Sys2Proof/Certificates/Slice0/Obligations.lean ====
section
/-! DEFINITION. The statements for the provers. -/

open Sys2Proof Sys2Proof.Machine

/-- Syllables put together by hand from R133 and the field tables: add g1, g2, g3; addi g4, g5, -1; cmp.ltu p2, g1, g9; li g7
with its two extension syllables; ld of 8 bytes with an offset of -1; trap 7; a token clause on nop; vadd v1, v2, v3, m1;
mmul acc2 from g3 and g4. (A sanity statement.) -/
def Obligations.KnownWordsDecode : Prop :=
  decode (some .a) [0x802110C0] = .ok (.add ⟨true, none⟩ 1 2 3) 1 ∧
  decode (some .a) [0x80000000 + 0x02 * 0x200000 + 4 * 0x10000 + 5 * 0x800 + 0x7FF] = .ok (.addi ⟨true, none⟩ 4 5 0x7FF) 1 ∧
  decode (some .a) [0x80000000 + 0x09 * 0x200000 + 2 * 0x10000 + 1 * 0x800 + 9 * 0x40 + 6] = .ok (.cmp ⟨true, none⟩ 2 6 1 9) 1 ∧
  decode (some .x) [0x80000000 + 2 * 0x20000000 + 0x0B * 0x200000 + 7 * 0x800, 0x89ABCDEF, 0x01234567] =
    .ok (.li ⟨true, none⟩ 7 0x89ABCDEF 0x01234567) 3 ∧
  decode (some .a) [0x80000000 + 0x18 * 0x200000 + 7] = .ok (.trap ⟨true, none⟩ 7) 1 ∧
  decode (some .a) [0x80000000 + 0x10000000 + 0x16 * 0x200000 + 5 * 0x10000, 0x80400900] = .ok (.nop ⟨true, some ⟨0x80, 0x40, 9, 0⟩⟩) 2

/-- For every well-formed instruction with a header (events have no encoding), with every operand at every value its entry
admits: the decoder, free of any stream, reads from its syllables exactly that instruction and consumes exactly those
syllables. Nothing of an encoding is dropped. -/
def Obligations.EncodeDecodeAgree : Prop :=
  ∀ i : Instr, WellFormed i → i.hdr? ≠ none → decode none (encode i) = .ok i (encode i).length

/-- For every stream and whatever follows: a header with LEN 3 is refused as such, an all-zero syllable has no major, an all-ones
syllable has LEN 3; a header whose extension or token syllables run past the end is refused, a matrix instruction in the A
stream is not valid in that stream, an A-only instruction not in the X stream, an unassigned minor, a wrong LEN, a token
syllable where none may stand, and a reserved bit are refused each with its own reason. -/
def Obligations.RefusedWords : Prop :=
  (∀ (st : Option Stream) (w : Nat) (r : List Nat), w / 0x20000000 % 4 = 3 → decode st (w :: r) = .bad .length3 0) ∧
  (∀ (st : Option Stream) (r : List Nat), decode st (0 :: r) = .bad .unallocated 0 ∧ decode st (0xFFFFFFFF :: r) = .bad .length3 0) ∧
  (∀ (st : Option Stream) (w : Nat), w / 0x20000000 % 4 = 1 ∨ w / 0x20000000 % 4 = 2 → decode st [w] = .bad .pastLine 0) ∧
  decode (some .a) (encode (.mstart ⟨true, none⟩)) = .bad .wrongStream 0 ∧
  decode (some .x) (encode (.eret ⟨true, none⟩)) = .bad .wrongStream 0 ∧
  decode (some .a) [0x80000000 + 0x01 * 0x200000 + 0x15] = .bad .badMinor 0 ∧
  decode (some .a) [0x80000000 + 0x20000000 + 0x01 * 0x200000, 0] = .bad .wrongLength 0 ∧
  decode (some .a) [0x80000000 + 0x10000000 + 0x01 * 0x200000, 0] = .bad .badToken 0 ∧
  decode (some .a) [0x80000000 + 0x16 * 0x200000 + 5 * 0x10000 + 1] = .bad .reserved 0

/-- For every state: at a code address that is syllable syl of line idx of the task's image, whose link word names the stream,
has a count of at most 14 and reaches syl, the fetch gives the instruction that the decoder of that stream reads from the
syllables syl to the count, its own address, and the address after it. -/
def Obligations.FetchReadsTheImage : Prop :=
  ∀ (s : State) (slot : Nat) (st : Stream) (idx syl line len : Nat) (i : Instr),
    let k := s.slotAt slot
    let pc := BitVec.ofNat 64 (k.task.base + 64 * idx + 4 + 4 * syl)
    let n := line / 2 ^ 25 % 16
    k.task.base + 64 * idx + 64 ≤ 2 ^ 64 → k.task.base % 64 = 0 → idx < k.task.lines → syl ≤ 14 → syl ≤ n → n ≠ 15 →
    s.codeLine slot st idx pc = .ok line → line / 2 ^ 30 % 4 = (match st with | .a => 0 | .x => 1) →
    decode (some st) ((List.range' syl (n + 1 - syl)).map fun j => line / 2 ^ (32 + 32 * j) % 2 ^ 32) = .ok i len →
    ∃ next last, s.fetchAt slot st pc = .ok ⟨i, pc, next, last⟩ ∧
      (syl + len ≤ n → next = BitVec.ofNat 64 (k.task.base + 64 * idx + 4 + 4 * (syl + len)))

/-- For every state whose next turn grants A-seq of a core and whose arbiter chooses a slot: where no SIG mask is left held, no
fault waits for the boundary, the slot is not in MEET with X-seq waiting, and the fetch at the program counter gives an
instruction, the step is exec of that instruction in the state with its registers and predicates read at issue, its own
address and the address after it. For X-seq the same holds of a bundle of one instruction other than DRAIN. -/
def Obligations.StepRunsTheInstruction : Prop :=
  ∀ (s : State) (core slot : Nat) (r : List Turn) (t : State) (f : Fetched),
    let u := fun st : Stream => t.updSlot slot fun k => k.retrySigs st (k.seq st).held
    let begun := fun st : Stream => { u st with
      cur := { slot := slot, st := st, pc := f.pc, next := f.next, bundle := (((u st).slotAt slot).seq st).pc,
               g := (((u st).slotAt slot).seq st).g, p := (((u st).slotAt slot).seq st).p } }
    (s.agenda = .grant core .a :: r →
      State.arbitrate { s with agenda := r } core .seqA (State.seqRequesters { s with agenda := r } core .a) = some (t, slot) →
      ((u .a).slotAt slot).a.held = [] → (u .a).deliverable slot = false → ((u .a).slotAt slot).st ≠ .meetX →
      (u .a).fetchAt slot .a ((u .a).slotAt slot).a.pc = .ok f → f.pc = ((u .a).slotAt slot).a.pc →
      step s = exec f.instr (begun .a)) ∧
    (s.agenda = .grant core .x :: r →
      State.arbitrate { s with agenda := r } core .seqX (State.seqRequesters { s with agenda := r } core .x) = some (t, slot) →
      ((u .x).slotAt slot).x.held = [] → (u .x).fetchBundle slot ((u .x).slotAt slot).x.pc = .ok [f] → Instr.isDrain f.instr = false →
      step s = exec f.instr (begun .x))

/-- For every state: with an event at the head of the agenda the step is exec of it in the state without that entry; a tick adds
its nanoseconds to fabric time; with an empty agenda and the cycle of the core in focus over, one nanosecond passes and the
next core comes into focus. -/
def Obligations.StepTakesItsTurn : Prop :=
  ∀ (s : State) (r : List Turn),
    (∀ i, s.agenda = .event i :: r → step s = exec i { s with agenda := r }) ∧
    (∀ ns, s.agenda = .tick ns :: r → step s = .next { s with agenda := r, time := s.time + BitVec.ofNat 64 ns }) ∧
    (s.agenda = [] → s.cycle.length ≤ s.turn →
      step s = .next { s with turn := 0, focus := (s.focus + 1) % 192, time := s.time + 1 })

/-- For every state in which module memory, host memory and the known memories of the peers are in canonical form (addresses
strictly rising, no byte listed that equals what an unlisted byte reads): if the step answers a next state, they are in
canonical form there. So equal memories are equal data in every run. -/
def Obligations.MemoryStaysCanonical : Prop :=
  Kept MemoryOk

/-- The state after a module reset lists no byte of any memory, so every memory is in canonical form. (What an unwritten byte
reads as is the model's choice, log 1.) -/
def Obligations.ResetMemoryIsCanonical : Prop :=
  MemoryOk State.reset ∧ State.reset.mem = [] ∧ State.reset.host = []

/-- After a module reset every task slot is FREE, no translation is held or pinned, every queue is disabled with its registers
zero and STATUS 1, every tenant weight is 0, every core has all four roles bits as R176 resets them (general), 512 tile slots
and 32 accumulators with every bank live, %err.sel and %err.inject 0, and fabric links run at 224 Gb/s. -/
def Obligations.ResetState : Prop :=
  let s := State.reset
  (∀ n, (s.slotAt n).st = .free) ∧ s.tlb = [] ∧ s.pins = [] ∧
  (∀ q, (s.queueAt q).enable = false ∧ (s.queueAt q).read = 0 ∧ (s.queueAt q).write = 0 ∧ (s.queueAt q).status = 1) ∧
  (∀ t, (s.tenAt t).weight = 0 ∧ (s.tenAt t).valid = false) ∧
  (∀ c, (s.coreAt c).roles = 8 ∧ (s.coreAt c).capTile = 512 ∧ (s.coreAt c).capAcc = 32 ∧ (s.coreAt c).capSlots = 4 ∧
    (s.coreAt c).errSel = 0 ∧ (s.coreAt c).errInj = 0 ∧ (s.coreAt c).tileBanks = BitVec.allOnes 32 ∧ (s.coreAt c).accBanks = BitVec.allOnes 8) ∧
  (∀ l, (SMap.get s.fab.links {} l).rate = 224)

/-- For every state and operands: an instruction of major 0x01 that the gates of issue let through (Ready) retires, writes gD
with the value of R152 (g0 discards it), pops WAIT and pushes SIG, goes on at Next, and changes no other register, predicate,
flag, slot, memory or register of the package. The values are stated on integers: the product of signed or unsigned operands,
the quotient rounded toward zero, division by zero, shift amounts modulo 64, rotation to the left, and the comparisons of
signed and unsigned numbers. -/
def Obligations.RegisterArithmetic : Prop :=
  ∀ (s : State) (h : Hdr) (d a b : Reg) (p : PReg), Ready s h [d, a, b] [] →
    let x := s.rg a
    let y := s.rg b
    let n := y.toNat % 64
    Writes s (.add h d a b) h d (BitVec.ofNat 64 (x.toNat + y.toNat)) ∧
    Writes s (.sub h d a b) h d (BitVec.ofInt 64 ((x.toNat : Int) - y.toNat)) ∧
    Writes s (.mul h d a b) h d (BitVec.ofNat 64 (x.toNat * y.toNat)) ∧
    Writes s (.mulh h d a b) h d (BitVec.ofInt 64 (x.toInt * y.toInt / 2 ^ 64)) ∧
    Writes s (.mulhu h d a b) h d (BitVec.ofNat 64 (x.toNat * y.toNat / 2 ^ 64)) ∧
    Writes s (.div h d a b) h d (if y = 0 then BitVec.allOnes 64 else x.sdiv y) ∧
    Writes s (.divu h d a b) h d (if y = 0 then BitVec.allOnes 64 else x / y) ∧
    Writes s (.rem h d a b) h d (if y = 0 then x else x.srem y) ∧
    Writes s (.remu h d a b) h d (if y = 0 then x else x % y) ∧
    Writes s (.and h d a b) h d (x &&& y) ∧
    Writes s (.or h d a b) h d (x ||| y) ∧
    Writes s (.xor h d a b) h d (x ^^^ y) ∧
    Writes s (.andn h d a b) h d (x &&& ~~~y) ∧
    Writes s (.shl h d a b) h d (BitVec.ofNat 64 (x.toNat * 2 ^ n)) ∧
    Writes s (.shr h d a b) h d (BitVec.ofNat 64 (x.toNat / 2 ^ n)) ∧
    Writes s (.sar h d a b) h d (BitVec.ofInt 64 (x.toInt / 2 ^ n)) ∧
    Writes s (.rot h d a b) h d (x.rotateLeft n) ∧
    Writes s (.min h d a b) h d (if x.toInt ≤ y.toInt then x else y) ∧
    Writes s (.max h d a b) h d (if x.toInt ≤ y.toInt then y else x) ∧
    Writes s (.minu h d a b) h d (if x.toNat ≤ y.toNat then x else y) ∧
    Writes s (.maxu h d a b) h d (if x.toNat ≤ y.toNat then y else x) ∧
    (Ready s h [d, a, b] [p] → Writes s (.sel h d a b p) h d (if s.rp p then x else y))

/-- For every state and operands: ADDI, ANDI, ORI and XORI use the sign-extended immediate (the sum wraps), the shifts by
immediate give the integer results of R152 with the amount of the field, and LI writes its 64-bit constant; each retires,
writes gD alone and goes on at Next. -/
def Obligations.ImmediateArithmetic : Prop :=
  ∀ (s : State) (h : Hdr) (d a : Reg) (i : BitVec 11) (n : BitVec 6) (lo hi : BitVec 32), Ready s h [d, a] [] →
    let x := s.rg a
    Writes s (.addi h d a i) h d (BitVec.ofInt 64 (x.toInt + i.toInt)) ∧
    Writes s (.andi h d a i) h d (x &&& BitVec.ofInt 64 i.toInt) ∧
    Writes s (.ori h d a i) h d (x ||| BitVec.ofInt 64 i.toInt) ∧
    Writes s (.xori h d a i) h d (x ^^^ BitVec.ofInt 64 i.toInt) ∧
    Writes s (.shli h d a n) h d (BitVec.ofNat 64 (x.toNat * 2 ^ n.toNat)) ∧
    Writes s (.shri h d a n) h d (BitVec.ofNat 64 (x.toNat / 2 ^ n.toNat)) ∧
    Writes s (.sari h d a n) h d (BitVec.ofInt 64 (x.toInt / 2 ^ n.toNat)) ∧
    Writes s (.roti h d a n) h d (x.rotateLeft n.toNat) ∧
    Writes s (.li h d lo hi) h d (BitVec.ofNat 64 (lo.toNat + 2 ^ 32 * hi.toNat))

/-- For each of the ten assigned condition codes: CMP of two registers and CMPI against the sign-extended imm7 retire and write
pD alone with the truth of the condition on signed or unsigned numbers; p0 discards it. -/
def Obligations.Comparisons : Prop :=
  ∀ (s : State) (h : Hdr) (p : PReg) (a b : Reg) (i : BitVec 7), Ready s h [a, b] [p] →
    let x := s.rg a
    let holds := fun (c : Nat) (y : Word) =>
      if c = 0 then decide (x = y)
      else if c = 1 then decide (x ≠ y)
      else if c = 2 then decide (x.toInt < y.toInt)
      else if c = 3 then decide (x.toInt ≥ y.toInt)
      else if c = 4 then decide (x.toInt > y.toInt)
      else if c = 5 then decide (x.toInt ≤ y.toInt)
      else if c = 6 then decide (x.toNat < y.toNat)
      else if c = 7 then decide (x.toNat ≥ y.toNat)
      else if c = 8 then decide (x.toNat > y.toNat)
      else decide (x.toNat ≤ y.toNat)
    ∀ c : Nat, c ≤ 9 →
      WritesP s (.cmp h p (BitVec.ofNat 6 c) a b) h p (holds c (s.rg b)) ∧
      WritesP s (.cmpi h p a (BitVec.ofNat 4 c) i) h p (holds c (BitVec.ofInt 64 i.toInt))

/-- For every state and operands. CLZ: the result c is at most 64, the c highest bits of the operand are zero and the next one,
if any, is set. POPC: the number of set bits. SEXT and ZEXT of 8, 16 or 32 bits. BFX: the operand shifted right by lsb modulo
2^w, w = 0 meaning 64. BFI: bit by bit, the bits lsb to min(lsb + w, 64) - 1 of gD replaced by the low bits of the operand. -/
def Obligations.BitFieldOperations : Prop :=
  ∀ (s : State) (h : Hdr) (d a b : Reg), Ready s h [d, a, b] [] →
    let x := s.rg a
    let lsb := (s.rg b).toNat % 64
    let w := if (s.rg b).toNat / 256 % 64 = 0 then 64 else (s.rg b).toNat / 256 % 64
    (∃ c : Nat, c ≤ 64 ∧ (∀ i, 64 - c ≤ i → x.getLsbD i = false) ∧ (c < 64 → x.getLsbD (63 - c) = true) ∧
      Writes s (.clz h d a) h d (BitVec.ofNat 64 c)) ∧
    Writes s (.popc h d a) h d (BitVec.ofNat 64 ((List.range 64).countP fun i => x.getLsbD i)) ∧
    (∀ k : Fin 3, Writes s (.sext h d a (BitVec.ofNat 5 k)) h d ((x.setWidth (2 ^ (k.val + 3))).signExtend 64)) ∧
    (∀ k : Fin 3, Writes s (.zext h d a (BitVec.ofNat 5 k)) h d (BitVec.ofNat 64 (x.toNat % 2 ^ 2 ^ (k.val + 3)))) ∧
    Writes s (.bfx h d a b) h d (BitVec.ofNat 64 (x.toNat / 2 ^ lsb % 2 ^ w)) ∧
    ∃ r : Word, (∀ i, i < 64 → r.getLsbD i = if lsb ≤ i ∧ i < lsb + w then x.getLsbD (i - lsb) else (s.rg d).getLsbD i) ∧
      Writes s (.bfi h d a b) h d r

/-- For every state and operands: each retires, writes pD with the and, or, exclusive or, complement or copy of the predicates it
reads (p0 reads true), and changes no other predicate and no register. -/
def Obligations.PredicateOperations : Prop :=
  ∀ (s : State) (h : Hdr) (d a b : PReg), Ready s h [] [d, a, b] →
    let v := fun r : PReg => r == 0 || s.cur.p.getLsbD r.toNat
    WritesP s (.pand h d a b) h d (v a && v b) ∧ WritesP s (.por h d a b) h d (v a || v b) ∧
    WritesP s (.pxor h d a b) h d (v a != v b) ∧ WritesP s (.pnot h d a) h d (!v a) ∧ WritesP s (.pmov h d a) h d (v a)

/-- For every state and operands: the branch is taken when pN XOR neg is true. Taken, the sequencer goes on at the target, which
is the syllable of the line that the two's-complement offset counts from the line of the header; BRL then also writes g31 :=
Next. Not taken, it goes on at Next and nothing else changes. -/
def Obligations.ConditionalBranches : Prop :=
  ∀ (s : State) (h : Hdr) (p : PReg) (neg : Bool) (off : BitVec 13) (syl : BitVec 4), Ready s h [31] [p] →
    let base := s.me.task.base
    let line : Int := (s.cur.pc.toNat - base : Nat) / 64 + off.toInt
    let target := BitVec.ofInt 64 (base + 64 * line + 4 + 4 * syl.toNat)
    if s.rp p = neg then
      Completes s (.br h p neg off syl) h s.cur.next none none ∧ Completes s (.brl h p neg off syl) h s.cur.next none none
    else
      Completes s (.br h p neg off syl) h target none none ∧ Completes s (.brl h p neg off syl) h target (some (31, s.cur.next)) none

/-- For every state and operands: JMPR and RET go on at the code address G(a); CALL goes on at G(a), read before gD is written,
and writes gD := Next. No other register changes. -/
def Obligations.RegisterBranches : Prop :=
  ∀ (s : State) (h : Hdr) (d a : Reg), Ready s h [d, a] [] →
    Completes s (.jmpr h a) h (s.rg a) none none ∧ Completes s (.ret h a) h (s.rg a) none none ∧
    Completes s (.call h d a) h (s.rg a) (some (d, s.cur.next)) none

/-- For every state and operands: with G(C) = 0 nothing is written and the sequencer goes on at Next (a zero count never wraps);
otherwise gC := G(C) - 1, and the sequencer goes on at the target unless the new count is zero. g0 reads zero and falls
through. -/
def Obligations.LoopCounts : Prop :=
  ∀ (s : State) (h : Hdr) (c : Reg) (off : BitVec 13) (syl : BitVec 4), Ready s h [c] [] →
    let base := s.me.task.base
    let line : Int := (s.cur.pc.toNat - base : Nat) / 64 + off.toInt
    let target := BitVec.ofInt 64 (base + 64 * line + 4 + 4 * syl.toNat)
    let n := s.rg c
    let i : Instr := .loop h c off syl
    if n = 0 then Completes s i h s.cur.next none none
    else if n = 1 then Completes s i h s.cur.next (some (c, 0)) none
    else Completes s i h target (some (c, BitVec.ofNat 64 (n.toNat - 1))) none

/-- For every state and operands. DQPUSH appends G(a) to dq.ax (A-seq, 32 entries) or dq.xa (X-seq, 16) and BQPUSH a predicate to
bq.ax or bq.xa (64 entries); into a full queue they stall, which changes nothing. DQPOP takes the oldest entry of the inbound
queue into gD, and from an empty queue stalls. BRQ pops one bit o of the inbound branch-outcome queue, writes pN := o,
branches when o differs from neg, and stalls while that queue is empty. -/
def Obligations.SequencerQueues : Prop :=
  ∀ (s : State) (h : Hdr) (r : Reg) (p : PReg) (neg : Bool) (off : BitVec 13) (syl : BitVec 4), Ready s h [r] [p] →
    let base := s.me.task.base
    let line : Int := (s.cur.pc.toNat - base : Nat) / 64 + off.toInt
    let target := BitVec.ofInt 64 (base + 64 * line + 4 + 4 * syl.toNat)
    let k := s.me
    let ax := k.dqAx ++ [s.rg r]
    let xa := k.dqXa ++ [s.rg r]
    let bax := k.bqAx ++ [s.rp p]
    let bxa := k.bqXa ++ [s.rp p]
    match s.cur.st with
    | .a =>
      (if k.dqAx.length < 32 then CompletesAs s (.dqpush h r) h s.cur.next none none { k with dqAx := ax } else Stalls s (.dqpush h r)) ∧
      (if k.bqAx.length < 64 then CompletesAs s (.bqpush h p) h s.cur.next none none { k with bqAx := bax } else Stalls s (.bqpush h p)) ∧
      (match k.dqXa with
        | v :: q => CompletesAs s (.dqpop h r) h s.cur.next (some (r, v)) none { k with dqXa := q }
        | [] => Stalls s (.dqpop h r)) ∧
      (match k.bqXa with
        | o :: q => CompletesAs s (.brq h p neg off syl) h (if o = neg then s.cur.next else target) none (some (p, o)) { k with bqXa := q }
        | [] => Stalls s (.brq h p neg off syl))
    | .x =>
      (if k.dqXa.length < 16 then CompletesAs s (.dqpush h r) h s.cur.next none none { k with dqXa := xa } else Stalls s (.dqpush h r)) ∧
      (if k.bqXa.length < 64 then CompletesAs s (.bqpush h p) h s.cur.next none none { k with bqXa := bxa } else Stalls s (.bqpush h p)) ∧
      (match k.dqAx with
        | v :: q => CompletesAs s (.dqpop h r) h s.cur.next (some (r, v)) none { k with dqAx := q }
        | [] => Stalls s (.dqpop h r)) ∧
      (match k.bqAx with
        | o :: q => CompletesAs s (.brq h p neg off syl) h (if o = neg then s.cur.next else target) none (some (p, o)) { k with bqAx := q }
        | [] => Stalls s (.brq h p neg off syl))

/-- FORK in SOLO starts X-seq at its target (BOTH); EXIT in SOLO puts the slot in CLOSING; either with X-seq not idle faults
ILLEGAL with reason 0x0D and has no other effect than that fault. RDV in SOLO retires at once; in BOTH the sequencer waits
(MEET); in MEET with the other sequencer waiting both retire, each at its own Next, and the slot is in SOLO. NOP only pops
and pushes its tokens. -/
def Obligations.TaskControl : Prop :=
  ∀ (s : State) (h : Hdr) (off : BitVec 13) (syl : BitVec 4), Ready s h [] [] →
    let k := s.me
    let line : Int := (s.cur.pc.toNat - k.task.base : Nat) / 64 + off.toInt
    let target := BitVec.ofInt 64 (k.task.base + 64 * line + 4 + 4 * syl.toNat)
    Completes s (.nop h) h s.cur.next none none ∧
    (s.cur.st = .a → k.st = .solo →
      CompletesAs s (.fork h off syl) h s.cur.next none none
        { k with st := .both, x := { k.x with pc := target, loop := {}, parked := false } } ∧
      CompletesAs s (.exit h) h s.cur.next none none { k with st := .closing } ∧
      Completes s (.rdv h) h s.cur.next none none) ∧
    (k.st ≠ .solo → Faults s (.fork h off syl) cILLEGAL 0x0D s.cur.pc ∧ Faults s (.exit h) cILLEGAL 0x0D s.cur.pc) ∧
    (k.st = .both → exec (.rdv h) s =
      .next (s.updMe fun k => { k with st := match s.cur.st with | .a => .meetA | .x => .meetX }).stalled) ∧
    (s.cur.st = .x → k.st = .meetA → ∃ t, exec (.rdv h) s = .next t ∧ t.cur.went = .retired ∧ (t.slotOf s).st = .solo ∧
      (t.slotOf s).x.pc = s.cur.next ∧ (t.slotOf s).a.pc = s.nextOf s.cur.slot .a ∧ OnlySlot s t) ∧
    (s.cur.st = .a → k.st = .meetX → s.xRdvAlone s.cur.slot = true → ∃ t, exec (.rdv h) s = .next t ∧ t.cur.went = .retired ∧
      (t.slotOf s).st = .solo ∧ (t.slotOf s).a.pc = s.cur.next ∧ (t.slotOf s).x.pc = s.nextOf s.cur.slot .x ∧ OnlySlot s t)

/-- For every state: QCANCEL retires; each queue of the slot keeps, in order, exactly the entries that have started or carry
another tag, those set aside included; gD holds the numbers removed from the copy, matrix and vector queues in bits [15:0],
[31:16] and [47:32] (each at most 64 in a queue of depth 64), and no token count changes but by its own WAIT and SIG. -/
def Obligations.QueueCancellation : Prop :=
  ∀ (s : State) (h : Hdr) (d : Reg) (tag : BitVec 8), Ready s h [d] [] →
    let keep := fun q : List Cmd => q.filter fun c => c.started || c.hdr.itag != tag
    let gone := fun e : Engine => ((s.me.queue e ++ s.me.aside e).filter fun c => !(c.started || c.hdr.itag != tag)).length
    ∃ t, exec (.qcancel h d tag) s = .next t ∧ t.cur.went = .retired ∧ (t.seqOf s).pc = s.cur.next ∧
      (∀ e, (t.slotOf s).queue e = keep (s.me.queue e) ∧ (t.slotOf s).aside e = keep (s.me.aside e)) ∧
      (d ≠ 0 → (t.seqOf s).rd d = BitVec.ofNat 64 (gone .copy + 2 ^ 16 * gone .matrix + 2 ^ 32 * gone .vector)) ∧
      Tokens s.me (t.slotOf s) h ∧ OnlySlot s t

/-- For every state in which the kernel header routes TRAP and the task can enter its handler: TRAP on A-seq writes %fault.cause
(TRAP), %fault.addr 0, %fault.pc its own address, %fault.info CODE, %fault.ret Next, sets handler mode, holds X-seq, and
A-seq goes on at the handler's address; no general register, predicate or memory changes. -/
def Obligations.TrapEntersHandler : Prop :=
  ∀ (s : State) (h : Hdr) (code : BitVec 16), Ready s h [] [] → s.cur.st = .a → s.me.routes 0x13 = true →
    ∃ t, exec (.trap h code) s = .next t ∧
      Handled s t { cause := 0x13, addr := 0, pc := s.cur.pc, source := 0, code := code } s.cur.next

/-- ERET in handler mode: A-seq goes on at %fault.ret, handler mode ends, X-seq is released unless a fault of its own is pending,
and the entries set aside by an engine return behind its queue unless a fault of that engine is pending; outside handler mode
it faults ILLEGAL with reason 0x0D. BREAK retires at Next and leaves one pending fault BREAK with its code and its own
address. -/
def Obligations.ReturnFromHandler : Prop :=
  ∀ (s : State) (h : Hdr) (code : BitVec 16), Ready s h [] [] →
    let k := s.me
    let back := fun (src : BitVec 3) (q aside : List Cmd) => if k.pending.any fun t => t.source == src then q else q ++ aside
    (k.fault.handler = true → ∃ t, exec (.eret h) s = .next t ∧ Retired s t h k.fault.ret none none ∧ OnlySlot s t ∧
      (t.slotOf s).fault = { k.fault with handler := false } ∧
      (t.slotOf s).xHeld = (k.pending.any fun t => t.source == 1) ∧
      (t.slotOf s).cq = back 2 k.cq k.cAside ∧ (t.slotOf s).mq = back 3 k.mq k.mAside ∧ (t.slotOf s).vq = back 4 k.vq k.vAside) ∧
    (k.fault.handler = false → Faults s (.eret h) cILLEGAL 0x0D s.cur.pc) ∧
    CompletesAs s (.brk h code) h s.cur.next none none { k with
      pending := k.pending ++ [{ cause := 0x12, pc := s.cur.pc, source := (match s.cur.st with | .a => 0 | .x => 1), code := code }] }

/-- ILLEGAL of the sequencer in issue: on A-seq the fault is taken with the reason and address of the check (ILLEGAL cannot be
routed, so the task is killed and its job is told); on X-seq it stands pending, with the bundle's address, X-seq held at the
bundle, and nothing else has changed. A token clause that names a queue its agent may not use faults QUEUE in the same way,
for a sequencer instruction and for an engine instruction. -/
def Obligations.IllegalIsTaken : Prop :=
  ∀ (s : State) (reason : BitVec 8) (addr : Word) (h : Hdr),
    (s.me.st.issues s.cur.st = true →
      exec (.illegal reason addr) s = .next (s.issueFault ⟨0x01, reason, addr⟩ 0 s.cur.pc) ∧
      (s.cur.st = .x → ∃ t, exec (.illegal reason addr) s = .next t ∧ t.cur.went = .faulted ∧ OnlySlot s t ∧
        t.slotOf s = { s.me with
          xHeld := true
          pending := s.me.pending ++ [{ cause := 0x01, reason := reason, addr := addr, pc := s.cur.bundle, source := 1 }] }) ∧
      (s.cur.st = .a → s.me.routes 0x01 = false → exec (.illegal reason addr) s = .next (s.killTask s.cur.slot 0x01 reason).faulted)) ∧
    (tokQueuesOk h .seq s.cur.st = false → Faults s (.nop h) cQUEUE 0 s.cur.pc) ∧
    (tokQueuesOk h .matrix s.cur.st = false → Faults s (.mstart h) cQUEUE 0 s.cur.pc) ∧
    (tokQueuesOk h .vector s.cur.st = false → Faults s (.vminv h) cQUEUE 0 s.cur.pc) ∧
    (∀ r, tokQueuesOk h .copy s.cur.st = false → Faults s (.tcon h r) cQUEUE 0 s.cur.pc)

/-- For every state: where a queue of WAIT holds no count, or a register the instruction names is awaited, ADD waits: the state
is as it was but for the model's record of the instruction in issue; a pop never happens in part. -/
def Obligations.EmptyTokenQueueStalls : Prop :=
  ∀ (s : State) (h : Hdr) (d a b : Reg), tokQueuesOk h .seq s.cur.st = true →
    ((∃ i : Fin 8, h.wait.getLsbD i = true ∧ s.me.tok.get i = 0) ∨ (∃ r ∈ [d, a, b], r ≠ 0 ∧ s.mySeq.awG.getLsbD r.toNat = true)) →
    Stalls s (.add h d a b)

/-- For every state: SYSRD of an assigned index retires with gD holding that register's fields where R176 puts them, and changes
nothing else; an index that is not assigned faults ILLEGAL with reason 0x0E; an index in a privileged range faults PRIV in a
task without privilege. -/
def Obligations.ControlRegisterReads : Prop :=
  ∀ (s : State) (h : Hdr) (d : Reg), Ready s h [d] [] →
    let k := s.me
    let c := s.myCore
    let n := s.cur.slot
    let reads := fun (idx v : Nat) => Writes s (.sysrd h d (BitVec.ofNat 12 idx)) h d (BitVec.ofNat 64 v)
    reads 0x000 (n % 4 + 2 ^ 32 * k.task.seq.toNat) ∧ reads 0x001 k.task.tenant ∧ reads 0x002 k.task.asid ∧
    reads 0x003 (n / 4 % 48) ∧ reads 0x004 (n / 4 % 48 / 4) ∧ reads 0x005 (n / 192) ∧ reads 0x006 s.pkg ∧
    reads 0x007 s.time.toNat ∧ reads 0x008 (k.task.flags.toNat + if k.task.priv then 32 else 0) ∧
    reads 0x040 c.capTile ∧ reads 0x041 (k.quotaT + 2 ^ 16 * k.grantT + 2 ^ 32 * s.used n) ∧
    reads 0x042 (c.capAcc + 2 ^ 8 * k.quotaA + 2 ^ 16 * k.grantA) ∧ reads 0x043 c.capSlots ∧ reads 0x044 c.capD ∧ reads 0x045 c.capI ∧
    reads 0x046 ((if c.ret.phase = 0 then 0 else 1) + (if s.overReason n = none then 0 else 2) + 2 ^ 32 * (c.ret.deadline.toNat % 2 ^ 32)) ∧
    reads 0x047 k.grantV ∧ reads 0x080 k.fault.cause.toNat ∧ reads 0x081 k.fault.addr.toNat ∧ reads 0x082 k.fault.pc.toNat ∧
    reads 0x083 k.fault.info.toNat ∧ reads 0x084 k.fault.ret.toNat ∧ reads 0x085 (if k.fault.handler then 1 else 0) ∧
    reads 0x100 k.overcount.toNat ∧ reads 0x101 s.mySeq.issued.toNat ∧ reads 0x108 k.statNum.toNat ∧
    (∀ i, i < 7 → reads (0x110 + i) (SMap.get c.stall 0 (64 * i + k.task.tenant)).toNat) ∧
    reads 0x140 k.routeDepth.toNat ∧ reads 0x141 k.routeDrops.toNat ∧
    (k.task.priv = true → reads 0x0C4 c.roles.toNat ∧ reads 0x180 c.errSel.toNat ∧ reads 0x184 c.errInj.toNat ∧
      (∀ j, j < 4 → reads (0x0C0 + j) (((List.range 16).map fun i => (s.tenAt (16 * j + i)).weight.toNat * 16 ^ i).sum)) ∧
      reads 0x181 (s.errEntry (n / 4)).log0.toNat ∧ reads 0x182 (s.errEntry (n / 4)).log1.toNat) ∧
    (∀ idx : BitVec 12, (0x0C0 ≤ idx.toNat ∧ idx.toNat ≤ 0x0FF) ∨ (0x180 ≤ idx.toNat ∧ idx.toNat ≤ 0x1FF) → k.task.priv = false →
      Faults s (.sysrd h d idx) cPRIV 0 s.cur.pc) ∧
    (∀ idx : BitVec 12, (0x009 ≤ idx.toNat ∧ idx.toNat ≤ 0x03F) ∨ (0x048 ≤ idx.toNat ∧ idx.toNat ≤ 0x07F) ∨ 0x200 ≤ idx.toNat →
      Faults s (.sysrd h d idx) cILLEGAL 0x0E s.cur.pc)

/-- For every state: SYSWR of %fault.ret in handler mode, %stat.num (a 1 clears its flag), %route.depth (1 to 8), %core.roles and
%err.sel retires with that one register changed and no general register written; a write of %fault.ret outside handler mode,
of a depth of 0 or above 8, or of a read-only register faults ILLEGAL with reason 0x0E. -/
def Obligations.ControlRegisterWrites : Prop :=
  ∀ (s : State) (h : Hdr) (a : Reg), Ready s h [a] [] →
    let k := s.me
    let v := s.rg a
    let i := fun idx : Nat => Instr.syswr h a (BitVec.ofNat 12 idx)
    (if k.fault.handler then CompletesAs s (i 0x084) h s.cur.next none none { k with fault := { k.fault with ret := v } }
      else Faults s (i 0x084) cILLEGAL 0x0E s.cur.pc) ∧
    CompletesAs s (i 0x108) h s.cur.next none none { k with statNum := k.statNum &&& ~~~ v.setWidth 8 } ∧
    (if 1 ≤ v.toNat % 16 ∧ v.toNat % 16 ≤ 8 then
        CompletesAs s (i 0x140) h s.cur.next none none { k with routeDepth := v.setWidth 4 }
      else Faults s (i 0x140) cILLEGAL 0x0E s.cur.pc) ∧
    (k.task.priv = true → ∃ t, exec (i 0x0C4) s = .next t ∧ Retired s t h s.cur.next none none ∧
      t.coreAt (coreOf s.cur.slot) = { s.myCore with roles := v.setWidth 4 } ∧ (∀ c, c ≠ coreOf s.cur.slot → t.coreAt c = s.coreAt c)) ∧
    (k.task.priv = true → ∃ t, exec (i 0x180) s = .next t ∧ Retired s t h s.cur.next none none ∧
      t.coreAt (coreOf s.cur.slot) = { s.myCore with errSel := v.setWidth 24 } ∧ (∀ c, c ≠ coreOf s.cur.slot → t.coreAt c = s.coreAt c)) ∧
    (∀ idx ∈ [0x000, 0x001, 0x002, 0x003, 0x004, 0x005, 0x006, 0x007, 0x008, 0x040, 0x041, 0x042, 0x043, 0x044, 0x045, 0x046, 0x047,
        0x080, 0x081, 0x082, 0x083, 0x085, 0x100, 0x101, 0x110, 0x116, 0x141], Faults s (i idx) cILLEGAL 0x0E s.cur.pc)

/-- For every state on A-seq with the slot's matrix and vector queues empty: gD is the smallest of G(a)[9:0], the quota and the
tiles of the core; the partition, vector-register and accumulator grants are set (a vector count of 0 or above 32 gives 32);
accumulators and vector registers beyond the grants read zero, those within keep their values. While a queue holds an entry
SHAPE waits. -/
def Obligations.ShapeGrants : Prop :=
  ∀ (s : State) (h : Hdr) (d a : Reg) (acc : BitVec 6), Ready s h [d, a] [] →
    let k := s.me
    let g := (s.rg a).toNat
    let part := min (g % 1024) (min k.quotaT s.myCore.capTile)
    let vreg := if g / 65536 % 64 = 0 ∨ 32 < g / 65536 % 64 then 32 else g / 65536 % 64
    let accs := min acc.toNat (min k.quotaA s.myCore.capAcc)
    if k.mq = [] ∧ k.vq = [] ∧ k.mAside = [] ∧ k.vAside = [] then
      ∃ t, exec (.shape h d a acc) s = .next t ∧ Retired s t h s.cur.next (some (d, BitVec.ofNat 64 part)) none ∧ OnlySlot s t ∧
        (t.slotOf s).grantT = part ∧ (t.slotOf s).grantV = vreg ∧ (t.slotOf s).grantA = accs ∧
        (∀ r, SMap.get (t.slotOf s).v 0 r = if r < vreg then SMap.get k.v 0 r else 0) ∧
        (∀ e, SMap.get (t.slotOf s).acc 0 e = if e < 128 * accs then SMap.get k.acc 0 e else 0)
    else ∃ t, exec (.shape h d a acc) s = .next t ∧ t.cur.went = .stalled ∧ (t.slotOf s).a.shaping = true ∧ OnlySlot s t

/-- For every state. AWAIT of kind 0 (tokens), 2 (dq.xa), 3 (bq.xa) and 4 (fabric time) retires and pops nothing but its tokens
when its condition holds, and otherwise leaves the sequencer parked, no requester, with nothing popped. CGRP opens a new
generation of a copy group with both counts zero. YIELD whose KEEP names an accumulator beyond the grant faults SHAPE; with
no request pending, no offer and no buddy save it retires at once. -/
def Obligations.WaitsAndYields : Prop :=
  ∀ (s : State) (h : Hdr) (reg : Reg) (cg : BitVec 3) (dropt : Bool) (keep : BitVec 32), Ready s h [reg] [] →
    let parks := fun i : Instr => exec i s = .next (s.updSeq s.cur.slot s.cur.st fun q => { q with parked := true }).stalled
    Completes s (.await h 0 reg) h s.cur.next none none ∧
    (if s.me.dqXa = [] then parks (.await h 2 reg) else Completes s (.await h 2 reg) h s.cur.next none none) ∧
    (if s.me.bqXa = [] then parks (.await h 3 reg) else Completes s (.await h 3 reg) h s.cur.next none none) ∧
    (if s.time.toNat < (s.rg reg).toNat then parks (.await h 4 reg) else Completes s (.await h 4 reg) h s.cur.next none none) ∧
    CompletesAs s (.cgrp h cg) h s.cur.next none none
      { s.me with cg := s.me.cg.set cg.toNat { gen := (s.me.cg.get ⟨cg.toNat, cg.isLt⟩).gen + 1 } cg.isLt } ∧
    (let g := s.me.cg.get ⟨cg.toNat, cg.isLt⟩
     if g.land = g.exp ∧ g.pend = 0 then (g.wide = false → Completes s (.cwait h cg) h s.cur.next none none) ∧
       (∃ t, exec (.cwait h cg) s = .next t ∧ t.cur.went = .retired ∧ (t.seqOf s).pc = s.cur.next)
     else Stalls s (.cwait h cg)) ∧
    ((∀ i, i < 32 → keep.getLsbD i = true → i < s.me.grantA) → s.me.pre = none → s.offerApplies s.cur.slot = false →
      (s.jobAt s.me.task.job).buddy = false → Completes s (.yield h dropt keep) h s.cur.next none none) ∧
    (∀ i, i < 32 → keep.getLsbD i = true → s.me.grantA ≤ i → (∀ j, j < i → keep.getLsbD j = true → j < s.me.grantA) →
      Faults s (.yield h dropt keep) cSHAPE 0 (BitVec.ofNat 64 i))

/-- For every state in which the queue has room, no register it names is awaited and SHAPE does not hold it back: each of the 14
matrix instructions whose accumulators lie below the GRANT enters the tail of its slot's matrix queue, its register operands
read at issue; its sequencer goes on at Next, MTOPKRD's destination is awaited, no token moves and nothing else in the
package changes. An accumulator at or above the GRANT faults SHAPE with its number as the address. -/
def Obligations.MatrixInstructionsQueue : Prop :=
  ∀ (s : State) (h : Hdr) (fa fb : BitVec 4) (sr k : BitVec 3) (n d e x y : Reg) (fmt : BitVec 4) (part : BitVec 2) (f1 : Bool)
      (seed : BitVec 16) (lo hi sigma : BitVec 32),
    let en := fun (i : Instr) (ops : List Word) (ws : List Reg) => Enqueues s .matrix i ops ws []
    EngReady s .matrix h [x, y] [] →
    (en (.mset h fa fb sr) [] [] ∧ en (.mstart h) [] [] ∧ en (.mkat h seed lo hi) [] [] ∧
      en (.mtopkrd h x y) [s.rg y] [x] ∧ en (.mtopkrdT h x) [s.rg x] []) ∧
    (if n.toNat < s.me.grantA then
      en (.mzero h n f1) [] [] ∧ en (.mmul h x y n f1) [s.rg x, s.rg y] [] ∧ en (.mdrain h x n fmt part sigma) [s.rg x] [] ∧
      en (.mtopk h n x k f1) [s.rg x] [] ∧ en (.mldacc h n x f1) [s.rg x] [] ∧ en (.mstacc h n x f1) [s.rg x] []
    else Faults s (.mmul h x y n f1) cSHAPE 0 (n.setWidth 64) ∧ Faults s (.mzero h n f1) cSHAPE 0 (n.setWidth 64)) ∧
    (d.toNat < s.me.grantA → e.toNat < s.me.grantA →
      en (.mmulc h d e x f1) [s.rg x] [] ∧ en (.mrot h d e) [] [] ∧ en (.macc h d e f1) [] [])

/-- For every state in which the queue has room and SHAPE does not hold it back: each arithmetic, integer, conversion, comparison
and selection instruction of the vector engine whose vector registers lie below the GRANT enters the tail of its slot's
vector queue and nothing else in the package changes; a register at or above the GRANT faults SHAPE with its number as the
address. -/
def Obligations.VectorLaneInstructionsQueue : Prop :=
  ∀ (s : State) (h : Hdr) (d a b : Reg) (k m c : BitVec 3) (ew w : BitVec 2) (u sat : Bool) (fr tgt : BitVec 4),
    EngReady s .vector h [] [] →
    let en := fun (i : Instr) => Enqueues s .vector i [] [] []
    (d.toNat < s.me.grantV → a.toNat < s.me.grantV → b.toNat < s.me.grantV →
      en (.vadd h d a b k) ∧ en (.vsub h d a b k) ∧ en (.vmul h d a b k) ∧ en (.vmin h d a b k) ∧ en (.vmax h d a b k) ∧
      en (.vfma h d a b k) ∧ en (.vfmaN h d a b k) ∧ en (.vabs h d a k) ∧ en (.vneg h d a k) ∧ en (.vrcp h d a k) ∧
      en (.vrsq h d a k) ∧ en (.vexp2 h d a k) ∧ en (.vlog2 h d a k) ∧ en (.vscale h d a b k) ∧ en (.vcmp h m c a b k) ∧
      en (.vsel h d a b k) ∧ en (.viadd h d a b k ew u sat) ∧ en (.visub h d a b k ew u sat) ∧ en (.vimul h d a b k ew u sat) ∧
      en (.vshl h d a b k ew u) ∧ en (.vshr h d a b k ew u) ∧ en (.vsar h d a b k ew u) ∧ en (.vand h d a b k ew u) ∧
      en (.vor h d a b k ew u) ∧ en (.vxor h d a b k ew u) ∧ en (.vaddw h d a b k w) ∧ en (.vcvt h d a k fr tgt)) ∧
    (s.me.grantV ≤ d.toNat → Faults s (.vadd h d a b k) cSHAPE 0 (d.setWidth 64) ∧ Faults s (.vabs h d a k) cSHAPE 0 (d.setWidth 64))

/-- For every state in which the queue has room, no register they name is awaited and SHAPE does not hold them back: scans,
reductions, broadcasts, permutations, tile loads and stores, lane moves and the mask-stack instructions whose vector
registers are granted enter the vector queue with the register values read at issue; VEXT's destination is awaited. BRMZ
waits while an entry that writes a mask has not finished, and otherwise branches when the truth of "the top of the stack is
zero" differs from neg. -/
def Obligations.VectorMoveInstructionsQueue : Prop :=
  ∀ (s : State) (h : Hdr) (d a b x y : Reg) (k o : BitVec 3) (iw : BitVec 2) (u aw sat : Bool) (neg : Bool) (off : BitVec 13) (syl : BitVec 4),
    let en := fun (i : Instr) (ops : List Word) (ws : List Reg) => Enqueues s .vector i ops ws []
    let line : Int := (s.cur.pc.toNat - s.me.task.base : Nat) / 64 + off.toInt
    let target := BitVec.ofInt 64 (s.me.task.base + 64 * line + 4 + 4 * syl.toNat)
    (EngReady s .vector h [x, y] [] → d.toNat < s.me.grantV → a.toNat < s.me.grantV → b.toNat < s.me.grantV →
      en (.vscan h d a k o iw u aw sat) [] [] ∧ en (.vred h d a k o iw u aw sat) [] [] ∧ en (.vbcast h d x k) [s.rg x] [] ∧
      en (.vbcastL h d a x k) [s.rg x] [] ∧ en (.vperm h d a b k) [] [] ∧ en (.vrotl h d a x k) [s.rg x] [] ∧
      en (.viota h d x k) [s.rg x] [] ∧ en (.vcompress h d a k) [] [] ∧ en (.vexpand h d a k) [] [] ∧
      en (.vld h d x y u k) [s.rg x, s.rg y] [] ∧ en (.vldx h d x b u k) [s.rg x] [] ∧ en (.vst h a x y k) [s.rg x, s.rg y] [] ∧
      en (.vins h d x y) [s.rg x, s.rg y] [] ∧ en (.vext h x a y u) [s.rg y] [x]) ∧
    (EngReady s .vector h [] [] → en (.vmpush h k) [] [] ∧ en (.vminv h) [] [] ∧ en (.vmpop h) [] []) ∧
    (Ready s h [] [] →
      if (s.me.vq ++ s.me.vAside).any Cmd.writesMask then Stalls s (.brmz h neg off syl)
      else if decide (s.me.mstack.headD (BitVec.allOnes 128) = 0) = neg then Completes s (.brmz h neg off syl) h s.cur.next none none
      else Completes s (.brmz h neg off syl) h target none none)

/-- For every state in which the copy queue has room and no register they name is awaited: TCON, TREL, TADJ, TSETTLE, TQUERY,
DCAL and DSTAT enter the tail of the slot's copy queue with the register values read at issue, the destination awaited where
there is one, and nothing else in the package changes. TALLOC does too when its tensor's descriptor is held by the core and
its readers fit the named registers. -/
def Obligations.PlainCopyInstructionsQueue : Prop :=
  ∀ (s : State) (h : Hdr) (d a b : Reg) (k sel : BitVec 3) (disc : Bool) (n : BitVec 16) (td : TDesc),
    let en := fun (i : Instr) (ops : List Word) (ws : List Reg) => Enqueues s .copy i ops ws []
    EngReady s .copy h [d, a, b] [] →
    en (.tcon h a) [s.rg a] [] ∧ en (.trel h a) [s.rg a] [] ∧ en (.tadj h a b) [s.rg a, s.rg b] [] ∧
    en (.tsettle h a k) [s.rg a] [] ∧ en (.tquery h d a sel) [s.rg a] [d] ∧ en (.dcal h d a) [s.rg a] [d] ∧
    en (.dstat h d a sel) [s.rg a] [d] ∧
    (modNb h = false → s.descFor s.cur.slot ((s.rg a).toNat % 65536) = .ok (s, td) → sharesOk n.toNat (s.rg b) = true →
      en (.talloc h d a b disc n) [s.rg a, s.rg b] [d])

/-- For every state in which the copy queue has room, no register they name is awaited and no range counter of their tags is
full: FETCH and its forms, TSTORE, PARK, UNPARK, CCOPY, CGATH, CSCAT, BTNEXT, DPOST, DRUN and FRED, with operands that pass
the checks at issue, enter the tail of the slot's copy queue with the register values read at issue and their destinations
awaited; no token moves and no register changes. -/
def Obligations.CopiesQueue : Prop :=
  ∀ (s : State) (h : Hdr) (d t r c n x y u : Reg) (rd : BitVec 16) (cg : BitVec 3) (cgv disc rcmd : Bool) (mc : BitVec 4) (td : TDesc),
    let q := fun (i : Instr) (ops : List Word) (ws : List Reg) => ∃ v, exec i s = .next v ∧ Queued s v .copy i ops ws []
    let free := fun f : List (Nat × Nat) => s.me.tagsFull (s.me.tagsOf f) = false
    let G := fun r : Reg => s.rg r
    EngReady s .copy h ([d, t, r, c, n, x, y, u, n + 1] ++ mcRegs d mc) [] → modNb h = false →
    (s.descFor s.cur.slot ((G t).toNat % 65536) = .ok (s, td) →
      (G r).toNat < 2 ^ 32 → (G c).toNat < 2 ^ 32 → (td.fmt = 3 → (G c).toNat % 32 = 0) →
      (∀ tr, free (fetchFoot td tr (G r) (G c) (G u))) →
      (sharesOk rd.toNat (G x) = true →
        q (.fetch h d t r rd c x cg cgv disc rcmd u) [G t, G r, G c, G x, G u] [d] ∧
        (td.fmt ≠ 3 → q (.fetchT h d t r rd c x cg cgv disc rcmd u) [G t, G r, G c, G x, G u] [d]) ∧
        q (.fetchMc h d t r rd c x cg cgv disc rcmd u mc) [G t, G r, G c, G x, G u] (mcRegs d mc)) ∧
      q (.fetchRf h d t r c cg cgv u) [G d, G t, G r, G c, G u] [] ∧
      q (.tstore h t r c d u cg cgv) [G t, G r, G c, G d, G u] []) ∧
    (free [] → q (.park h d t cg cgv) [G t] [d] ∧ q (.unpark h d t cg cgv) [G t] [d]) ∧
    (1 ≤ (G n).toNat → (G n).toNat ≤ 2 ^ 40 →
      ((G d).toNat + (G n).toNat ≤ (G t).toNat ∨ (G t).toNat + (G n).toNat ≤ (G d).toNat) →
      free [((G d).toNat, (G n).toNat), ((G t).toNat, (G n).toNat)] →
      q (.ccopy h d t n cg cgv) [G d, G t, G n] []) ∧
    (s.me.tagsFull s.me.tagsAll = false →
      q (.btnext h d x y) [G x, G y] [d, x] ∧ q (.drun h cg cgv x y) [G x, G y] [] ∧
      (1 ≤ (G r).toNat → (G r).toNat ≤ 128 →
        q (.cscat h d t r n cg cgv) [G d, G t, G r, G n, G (n + 1)] [] ∧
        (s.descFor s.cur.slot ((G t).toNat % 65536) = .ok (s, td) → td.fmt ≠ 3 →
          q (.cgath h d t x rd r n cg cgv) [G t, G x, G r, G n, G (n + 1)] [d]))) ∧
    (free [((G x).toNat, 2368)] → q (.dpost h x) [G x] [])

/-- For every state in which the copy queue has room and no register it names is awaited. An address that is not a multiple of 64
faults ALIGN with reason 2. With a readable descriptor whose FORMAT is 0x1, 0x2 or 0x7, and no range counter of its tags
full, FRED enters the tail of the copy queue with its address as operand; another format faults FORMAT with reason 1. -/
def Obligations.FredIssue : Prop :=
  ∀ (s : State) (h : Hdr) (a : Reg) (cg : BitVec 3) (cgv : Bool) (w : List Nat), EngReady s .copy h [a] [] →
    let va := (s.rg a).toNat
    let u := s.pushWriteBack s.cur.slot [(va, 128)]
    let fmt := w.getD 0 0 / 2 ^ 32 % 16
    let i : Instr := .fred h a cg cgv
    (va % 64 ≠ 0 → Faults s i cALIGN 2 (s.rg a)) ∧
    (va % 64 = 0 → u.fredWords u.me.task.asid va = .ok w →
      (fmt ≠ 1 → fmt ≠ 2 → fmt ≠ 7 → Faults s i cFORMAT 1 (s.rg a)) ∧
      ((fmt = 1 ∨ fmt = 2 ∨ fmt = 7) →
        u.me.tagsFull (u.me.tagsOf [(va, 128), (w.getD 1 0, w.getD 2 0), (w.getD 6 0, 64)]) = false →
        ∃ t, exec i s = .next t ∧ Queued s t .copy i [s.rg a] [] []))

/-- For every state and every size code an LD may carry: with every byte of the access translated, permitted and reachable and no
range counter full, LD retires with gD holding the little-endian bytes, zero- or sign-extended as the code says. Each byte is
what the core sees through its data cache (an uncached page: the home, or what the core held dirty of it); a byte of a state
word of a ring in use is left free. No other register changes, and memory changes only where dirty lines of the core are
written back. -/
def Obligations.LoadsReadMemory : Prop :=
  ∀ (s : State) (h : Hdr) (d b : Reg) (z : BitVec 3) (o : BitVec 8), Ready s h [d, b] [] → z.toNat ≤ 6 →
    let n : Nat := 2 ^ (z.toNat % 4)
    let va := (BitVec.ofInt 64 ((s.rg b).toInt + o.toInt * n)).toNat
    Accessible s va n (fun l => l.tier != 3) → s.me.tagsFull (s.me.tagsOf [(va, n)]) = false →
    ∃ (t : State) (v : Nat), exec (.ld h d b z o) s = .next t ∧ v < 256 ^ n ∧
      Retired s t h s.cur.next
        (some (d, if z.toNat < 4 ∨ v < 2 ^ (8 * n - 1) then BitVec.ofNat 64 v else BitVec.ofInt 64 ((v : Int) - 256 ^ n))) none ∧
      MemFrame s t (fun _ => False) ∧
      ∀ i, i < n → ¬ ((s.locAt (va + i)).tier = 2 ∧ s.ringState (syncKey (s.locAt (va + i)).pa) = true) →
        v / 256 ^ i % 256 = (s.seesAt (va + i)).toNat ∨
        (cached (s.leafAt (va + i)) = false ∧ (s.locAt (va + i)).tier < 2 ∧
          v / 256 ^ i % 256 = (s.viewByte (coreOf s.cur.slot) (s.locAt (va + i))).toNat)

/-- For every state and store size: with every byte translated, writable, of module or host memory and reachable, no range
counter full, and (for a release) every copy of the slot performed, ST retires writing no register. Each stored byte is then
what the core sees at its location (a cached page) or stands at its home (an uncached one); every other byte of memory is
unchanged unless a dirty line of the core is written back. -/
def Obligations.StoresWriteMemory : Prop :=
  ∀ (s : State) (h : Hdr) (d b : Reg) (z : BitVec 3) (o : BitVec 8), Ready s h [d, b] [] → z.toNat ≤ 3 →
    let n : Nat := 2 ^ z.toNat
    let va := (BitVec.ofInt 64 ((s.rg b).toInt + o.toInt * n)).toNat
    Accessible s va n (fun l => l.tier < 2 && l.write) → s.me.tagsFull (s.me.tagsOf [(va, n)]) = false →
    (h.mod.getLsbD 0 = true → s.me.copiesDone = true) →
    (∀ i j, i < n → j < n → i ≠ j → s.locAt (va + i) ≠ s.locAt (va + j)) →
    ∃ t : State, exec (.st h d b z o) s = .next t ∧ Retired s t h s.cur.next none none ∧
      MemFrame s t (fun l => ∃ i, i < n ∧ l = s.locAt (va + i)) ∧
      ∀ i, i < n → BitVec.ofNat 8 ((s.rg d).toNat / 256 ^ i) =
        if cached (s.leafAt (va + i)) then t.viewByte (coreOf s.cur.slot) (s.locAt (va + i)) else t.homeByte (s.locAt (va + i))

/-- For every state: where the byte at the address of an LD, ST or atomic has no translation, the instruction faults XLATE with
the walk's reason and that address; a load or store of a peer page faults XLATE with reason 3; a store to a page without
write permission faults PROT with reason 5 and one to a page of the synchronisation tier PROT with reason 6; an atomic off
its alignment faults ALIGN with reason 1. -/
def Obligations.AccessFaults : Prop :=
  ∀ (s : State) (h : Hdr) (d b c : Reg) (sz ord : BitVec 2) (scope : BitVec 3), Ready s h [d, b, c, 0] [] →
    let va := (s.rg b).toNat
    (va < 2 ^ 48 → ∀ e, s.translate s.me.task.asid va = .error e →
      Faults s (.ld h d b 0 0) cXLATE e (s.rg b) ∧ Faults s (.st h d b 0 0) cXLATE e (s.rg b)) ∧
    (va < 2 ^ 48 → ∀ l, s.translate s.me.task.asid va = .ok l →
      (l.tier = 3 → Faults s (.ld h d b 0 0) cXLATE 3 (s.rg b) ∧ Faults s (.st h d b 0 0) cXLATE 3 (s.rg b)) ∧
      (l.tier ≠ 3 → l.write = false → Faults s (.st h d b 0 0) cPROT 5 (s.rg b)) ∧
      (l.tier = 2 → l.write = true → Faults s (.st h d b 0 0) cPROT 6 (s.rg b))) ∧
    (2 ^ 48 ≤ va → Faults s (.ld h d b 0 0) cXLATE 8 (s.rg b)) ∧
    (va % 2 ^ (sz.toNat + 1) ≠ 0 → Faults s (.aadd h d b c sz ord scope) cALIGN 1 (s.rg b))

/-- For every state and size: an aligned atomic on a writable page of module memory that is reachable, with no range counter full
and (a release) every copy of the slot performed, retires with gD holding the old value, zero-extended. The old value is what
stood at home once a dirty line of the core that holds it is written back; the cell then holds the sum modulo its width, the
floating sum, the signed or unsigned smaller or larger, the bitwise result, the operand, or for a compare-and-swap the new
value where the old equalled the expected one. Every other byte of memory is unchanged but by write-backs. -/
def Obligations.AtomicsAtHome : Prop :=
  ∀ (s : State) (h : Hdr) (d a b c : Reg) (sz ord : BitVec 2) (scope : BitVec 3) (u : Bool), Ready s h [d, a, b, c] [] → sz.toNat ≤ 2 →
    let n := 2 ^ (sz.toNat + 1)
    let w := 8 * n
    let va := (s.rg a).toNat
    let l := s.locAt va
    let core := coreOf s.cur.slot
    va % n = 0 → Accessible s va n (fun l => l.tier == 0 && l.write) →
    (∀ i, i < n → s.locAt (va + i) = ⟨0, 0, l.pa + i⟩) → l.pa % 128 + n ≤ 128 →
    s.me.tagsFull (s.me.tagsOf [(va, n)]) = false → (ord.getLsbD 1 = true → s.me.copiesDone = true) →
    let old := leNat ((List.range n).map fun i =>
      if (s.lineAt core (lineKey l)).dirty then s.viewByte core (s.locAt (va + i)) else s.homeByte (s.locAt (va + i)))
    let y := (s.rg b).toNat % 2 ^ w
    let z := (s.rg c).toNat % 2 ^ w
    let sg := fun x : Nat => if x < 2 ^ (w - 1) then (x : Int) else (x : Int) - 2 ^ w
    let less := if u then decide (y < old) else decide (sg y < sg old)
    let gives := fun (i : Instr) (v : Nat) => ∃ t : State, exec i s = .next t ∧
      Retired s t h s.cur.next (some (d, BitVec.ofNat 64 old)) none ∧ t.rdPhys l.pa n = v ∧
      MemFrame s t (fun m => m.tier = 0 ∧ l.pa ≤ m.pa ∧ m.pa < l.pa + n)
    gives (.aadd h d a b sz ord scope) ((old + y) % 2 ^ w) ∧
    (n ≤ 4 → gives (.afadd h d a b sz ord scope) (if n = 2 then fadd16 old y else fadd32 old y)) ∧
    gives (.amin h d a b sz ord scope u) (if less then y else old) ∧
    gives (.amax h d a b sz ord scope u) (if less then old else y) ∧
    gives (.aand h d a b sz ord scope) (old &&& y) ∧ gives (.aor h d a b sz ord scope) (old ||| y) ∧
    gives (.axor h d a b sz ord scope) (old ^^^ y) ∧ gives (.aswp h d a b sz ord scope) y ∧
    gives (.acas h d a b sz ord scope c) (if old = y then z else old)

/-- For every state: an aligned 8-byte AADD, ASWP or ACAS on a writable page of the synchronisation tier, whose word belongs to
no group and no ring and has no waiter, retires with gD holding the old word; the word then holds the sum, the operand, or
the new value where the old equalled the expected one; its full bit is as it was. A word of a group or ring in use faults
PROT with reason 7. -/
def Obligations.AtomicsOnSyncWords : Prop :=
  ∀ (s : State) (h : Hdr) (d a b c : Reg) (scope : BitVec 3), Ready s h [d, a, b, c] [] →
    let va := (s.rg a).toNat
    let key := syncKey (s.locAt va).pa
    let old := s.syncWord key
    va % 8 = 0 → Accessible s va 8 (fun l => l.tier == 2 && l.write) → (s.locAt va).pa % 8 = 0 →
    s.me.tagsFull (s.me.tagsOf [(va, 8)]) = false →
    let gives := fun (i : Instr) (v : Word) => ∃ t : State, exec i s = .next t ∧ Retired s t h s.cur.next (some (d, old)) none ∧
      t.syncWord key = v ∧ t.syncFull key = s.syncFull key ∧ t.mem = s.mem ∧ t.host = s.host
    (s.objectWord key = true → Faults s (.aadd h d a b 2 0 scope) cPROT 7 (s.rg a)) ∧
    (s.objectWord key = false → SMap.get s.sync.wait [] key = [] →
      gives (.aadd h d a b 2 0 scope) (old + s.rg b) ∧ gives (.aswp h d a b 2 0 scope) (s.rg b) ∧
      gives (.acas h d a b 2 0 scope c) (if old = s.rg b then s.rg c else old))

/-- For every state. FENCE at cluster scope or wider, with every copy of the slot performed, retires: every line the slot had
dirty now stands at its home, and no line of the slot is left in the cache; while a copy is outstanding it waits. FENCER at
core or task scope retires exactly when the LOCAL counters of its mask stand at zero, and touches no memory. DRAIN retires
when nothing stands before its markers, and otherwise waits with its marker placed. -/
def Obligations.FencesAndDrains : Prop :=
  ∀ (s : State) (h : Hdr) (scope : BitVec 3) (mask : BitVec 16) (eng : BitVec 3), Ready s h [] [] →
    let core := coreOf s.cur.slot
    let place := s.cur.slot % 4
    (2 ≤ scope.toNat → s.me.copiesDone = true →
      ∃ t : State, exec (.fence h scope) s = .next t ∧ Retired s t h s.cur.next none none ∧ MemFrame s t (fun _ => False) ∧
        (∀ key, (s.lineAt core key).dirty = true → (s.lineAt core key).mask.getLsbD place = true →
          ∀ m ∈ lineLocs key, t.homeByte m = s.viewByte core m) ∧
        ∀ key, t.hasLine core key = true → (t.lineAt core key).mask.getLsbD place = false) ∧
    (s.me.copiesDone = false → ∃ t : State, exec (.fence h scope) s = .next t ∧ t.cur.went = .stalled ∧ MemFrame s t (fun _ => False)) ∧
    (scope.toNat < 2 →
      if ∀ i : Fin 16, mask.getLsbD i = true → SMap.get s.me.locals 0 i = 0 then
        Completes s (.fencer h scope mask) h s.cur.next none none
      else Stalls s (.fencer h scope mask)) ∧
    (2 ≤ scope.toNat → let u := s.writeBackWhere s.cur.slot fun l => s.me.covered mask l.va
      (u.me.tagsZero mask scope.toNat = true → ∃ t : State, exec (.fencer h scope mask) s = .next t ∧
        Retired s t h s.cur.next none none ∧ MemFrame s t (fun _ => False)) ∧
      (u.me.tagsZero mask scope.toNat = false → exec (.fencer h scope mask) s = .next u.stalled)) ∧
    (let mark := s.mySeq.drain.getD s.me.nextCmd
     if s.me.drained eng mark then Completes s (.drain h eng) h s.cur.next none none
     else exec (.drain h eng) s = .next (s.updSeq s.cur.slot s.cur.st fun q => { q with drain := some mark }).stalled)

/-- For every state: RNGBIND of an address with a length of 1 to 2^40 binds the range slot to those bytes, and of a tensor to the
bytes from its first to after its last element; RNGFREE unbinds it; each waits while a counter of the slot is not zero. A
length of 0 or above 2^40 faults ILLEGAL with reason 0x0F. -/
def Obligations.RangeBindings : Prop :=
  ∀ (s : State) (h : Hdr) (n : BitVec 4) (a b : Reg) (len : BitVec 31) (td : TDesc), Ready s h [a, b] [] →
    let idle := SMap.get s.me.locals 0 n.toNat = 0 ∧ SMap.get s.me.homes 0 n.toNat = 0
    let lenR := BitVec.setWidth 31 b
    let base := (s.rg a).toNat
    let sets := fun (i : Instr) (r : Rng) =>
      if idle then CompletesAs s i h s.cur.next none none { s.me with rng := SMap.set s.me.rng {} n.toNat r } else Stalls s i
    let bytes := fun l : Nat => ({ bound := true, ident := s.rg a, len := l, lo := base, hi := base + l } : Rng)
    (1 ≤ len.toNat → sets (.rngbind h n a false false len) (bytes len.toNat)) ∧
    (1 ≤ (s.rg b).toNat → (s.rg b).toNat ≤ 2 ^ 40 → sets (.rngbind h n a false true lenR) (bytes (s.rg b).toNat)) ∧
    ((s.rg b).toNat = 0 ∨ 2 ^ 40 < (s.rg b).toNat → Faults s (.rngbind h n a false true lenR) cILLEGAL 0x0F 0) ∧
    (s.descFor s.cur.slot (base % 65536) = .ok (s, td) →
      sets (.rngbind h n a true false len)
        { bound := true, tensor := true, ident := BitVec.ofNat 64 (base % 65536), lo := td.span.1, hi := td.span.2 }) ∧
    sets (.rngfree h n) {}

/-- For every state and a word of a writable synchronisation page that belongs to no group or ring and has no waiter. Full: SLDF
and SLDW retire with the word in gD, SLDF leaving it empty, SLDW full; SSTE joins its waiters. Empty: SLDF and SLDW join its
waiters, SSTE stores and sets full. SSTF stores and sets full in either case, SECLR sets empty. The stores wait while a copy
of the slot is outstanding. A word of a group or ring faults PROT with reason 7. -/
def Obligations.SyncWordInstructions : Prop :=
  ∀ (s : State) (h : Hdr) (d a : Reg) (scope : BitVec 3), Ready s h [d, a] [] →
    let va := (s.rg a).toNat
    let key := syncKey (s.locAt va).pa
    let w := s.syncWord key
    va % 8 = 0 → Accessible s va 8 (fun l => l.tier == 2 && l.write) →
    let does := fun (i : Instr) (g : Option (Reg × Word)) (v : Word) (full : Bool) => ∃ t : State, exec i s = .next t ∧
      Retired s t h s.cur.next g none ∧ t.syncWord key = v ∧ t.syncFull key = full
    let waits := fun (i : Instr) (kind : WantKind) (v : Word) => ∃ t : State, exec i s = .next t ∧ t.cur.went = .stalled ∧
      SMap.get t.sync.wait [] key = [⟨s.cur.slot, kind, h, d, s.cur.pc, s.cur.next, v, scope.toNat⟩] ∧
      t.syncWord key = w ∧ t.syncFull key = s.syncFull key
    (s.objectWord key = true → Faults s (.sldf h d a scope) cPROT 7 (s.rg a) ∧ Faults s (.sste h d a scope) cPROT 7 (s.rg a) ∧
      Faults s (.sstf h d a scope) cPROT 7 (s.rg a) ∧ Faults s (.seclr h a) cPROT 7 (s.rg a)) ∧
    (s.objectWord key = false → SMap.get s.sync.wait [] key = [] →
      does (.seclr h a) none w false ∧
      (s.me.copiesDone = true → does (.sstf h d a scope) none (s.rg d) true) ∧
      (s.syncFull key = true →
        does (.sldf h d a scope) (some (d, w)) w false ∧ does (.sldw h d a scope) (some (d, w)) w true ∧
        (s.me.copiesDone = true → waits (.sste h d a scope) .sste (s.rg d))) ∧
      (s.syncFull key = false →
        waits (.sldf h d a scope) .sldf 0 ∧ waits (.sldw h d a scope) .sldw 0 ∧
        (s.me.copiesDone = true → does (.sste h d a scope) none (s.rg d) true)))

/-- For every state and a word of no group or ring whose first waiter is an SLDF of another slot: SSTF stores, and in the same
step that waiter's register receives the value, its A-seq stands at its Next with its tokens popped and pushed, it has left
the waiters, and the word is empty again (were it the only waiter). -/
def Obligations.SyncWaiterIsServed : Prop :=
  ∀ (s : State) (h : Hdr) (d a : Reg) (scope : BitVec 3) (w : Waiter), Ready s h [d, a] [] →
    let va := (s.rg a).toNat
    let key := syncKey (s.locAt va).pa
    va % 8 = 0 → Accessible s va 8 (fun l => l.tier == 2 && l.write) → s.objectWord key = false → s.me.copiesDone = true →
    SMap.get s.sync.wait [] key = [w] → w.kind = .sldf → w.slot ≠ s.cur.slot → w.d ≠ 0 →
    ∃ t : State, exec (.sstf h d a scope) s = .next t ∧ Retired s t h s.cur.next none none ∧
      t.syncWord key = s.rg d ∧ t.syncFull key = false ∧ SMap.get t.sync.wait [] key = [] ∧
      (t.slotAt w.slot).a.rd w.d = s.rg d ∧ (t.slotAt w.slot).a.pc = w.next ∧
      Tokens (s.slotAt w.slot) (t.slotAt w.slot) w.h

/-- For every state and a 32-byte aligned object on a writable synchronisation page. GJOIN of a task that is no member, with the
object's words ready and fewer than 8 groups held, adds it and returns the number of members; GLEAVE takes the task out and
returns the number that remain, and 0 for no member; GBAR by a non-member faults PROT with reason 8; GBAR by the only member
retires at once with the generation, which then is one higher. -/
def Obligations.Groups : Prop :=
  ∀ (s : State) (h : Hdr) (d a : Reg) (scope : BitVec 3), Ready s h [d, a] [] → s.cur.st = .a →
    let va := (s.rg a).toNat
    let o := syncKey (s.locAt va).pa
    let id := s.me.task.taskId
    let ids := fun g : Group => g.members.map (·.1)
    va % 32 = 0 → Accessible s va 8 (fun l => l.tier == 2 && l.write) →
    (s.groupReady o = true → s.ringOf o = none → (s.groupAt o).has id = false → s.me.groups.length < 8 →
      ∃ t : State, exec (.gjoin h d a) s = .next t ∧
        Retired s t h s.cur.next (some (d, BitVec.ofNat 64 ((s.groupAt o).members.length + 1))) none ∧
        ids (t.groupAt o) = ids (s.groupAt o) ++ [id] ∧ (t.slotOf s).groups = s.me.groups ++ [o]) ∧
    ((s.groupAt o).has id = false → Faults s (.gbar h d a scope) cPROT 8 (s.rg a) ∧
      ∃ t : State, exec (.gleave h d a) s = .next t ∧ Retired s t h s.cur.next (some (d, 0)) none ∧ t.groupAt o = s.groupAt o) ∧
    ((s.groupAt o).has id = true → (s.groupAt o).waiters = [] →
      ∃ t : State, exec (.gleave h d a) s = .next t ∧
        Retired s t h s.cur.next (some (d, BitVec.ofNat 64 ((ids (s.groupAt o)).filter (· != id)).length)) none ∧
        ids (t.groupAt o) = (ids (s.groupAt o)).filter (· != id) ∧ (t.slotOf s).groups = s.me.groups.filter (· != o)) ∧
    (ids (s.groupAt o) = [id] → (s.groupAt o).opened = false → (s.groupAt o).waiters = [] → s.me.copiesDone = true →
      ∃ t : State, exec (.gbar h d a scope) s = .next t ∧ t.cur.went = .retired ∧ (t.slotOf s).a.pc = s.cur.next ∧
        (d ≠ 0 → (t.slotOf s).a.rd d = s.syncWord (o + 1)) ∧ t.syncWord (o + 1) = s.syncWord (o + 1) + 1)

/-- For every state and a 64-byte aligned ring object on a writable synchronisation page, initialised with LOGC 1 to 16, with no
waiter. RRES of n entries with room reserves them for the task and returns the first, RES advancing by n; without room it
joins the waiters. RPUB publishes the task's reserved entries. RTAKE takes the entry at TAKE when FILL is beyond it, with its
hole flag in the predicate. RFREE frees an entry the task took. An entry the task does not hold faults PROT with reason 9,
and a count of 0 or above C faults ILLEGAL with reason 0x0F. -/
def Obligations.Rings : Prop :=
  ∀ (s : State) (h : Hdr) (d a b e : Reg) (p : PReg), Ready s h [d, a, b, e] [p] →
    let va := (s.rg a).toNat
    let o := syncKey (s.locAt va).pa
    let id := s.me.task.taskId
    let logc := (s.syncWord o).toNat % 32
    let pos := fun (u : State) (i : Nat) => (u.syncWord (o + i)).toNat
    let n := (s.rg b).toNat
    let x := (s.rg e).toNat
    let ent := fun (u : State) (i : Nat) => SMap.get (u.ringAt o).ent none i
    va % 64 = 0 → Accessible s va 8 (fun l => l.tier == 2 && l.write) → s.syncFull o = true → 1 ≤ logc → logc ≤ 16 →
    (s.ringAt o).waiters = [] →
    (n = 0 ∨ 2 ^ logc < n → Faults s (.rres h d a b) cILLEGAL 0x0F (s.rg a)) ∧
    (1 ≤ n → n ≤ 2 ^ logc →
      if pos s 1 + n ≤ pos s 4 + 2 ^ logc then
        ∃ t : State, exec (.rres h d a b) s = .next t ∧ Retired s t h s.cur.next (some (d, s.syncWord (o + 1))) none ∧
          t.syncWord (o + 1) = BitVec.ofNat 64 (pos s 1 + n) ∧ ∀ i, pos s 1 ≤ i → i < pos s 1 + n → ent t i = some (.reserved id)
      else ∃ t : State, exec (.rres h d a b) s = .next t ∧ t.cur.went = .stalled ∧ (t.ringAt o).waiters.length = 1) ∧
    (n ≤ 2 ^ logc → (∀ i, x ≤ i → i < x + n → ent s i = some (.reserved id)) → s.me.copiesDone = true →
      ∃ t : State, exec (.rpub h e a b) s = .next t ∧ Retired s t h s.cur.next none none ∧
        ∀ i, x ≤ i → i < x + n → ent t i = some .published) ∧
    (pos s 3 < pos s 2 →
      ∃ t : State, exec (.rtake h d a p) s = .next t ∧
        Retired s t h s.cur.next (some (d, s.syncWord (o + 3))) (some (p, decide (ent s (pos s 3) = some .hole))) ∧
        t.syncWord (o + 3) = BitVec.ofNat 64 (pos s 3 + 1) ∧
        ent t (pos s 3) = some (.taken id (decide (ent s (pos s 3) = some .hole)))) ∧
    (∀ hole, ent s x = some (.taken id hole) →
      ∃ t : State, exec (.rfree h e a) s = .next t ∧ Retired s t h s.cur.next none none ∧ (ent t x = some .freed ∨ ent t x = none)) ∧
    (ent s x = none → Faults s (.rfree h e a) cPROT 9 (s.rg a))

/-- For every state with every copy of the slot performed. With the first rank 0xFFFF the result is "dropped" after 0 probes, and
%route.drops is one higher. With the first rank e whose word (on a writable synchronisation page, of no group or ring, with
no waiter) counts fewer than its capacity, the word is one higher and gD holds the count it had in [63:32], the rank 0 and e. -/
def Obligations.ExpertRouting : Prop :=
  ∀ (s : State) (h : Hdr) (d a b : Reg), Ready s h [d, a, a + 1, b] [] → s.me.copiesDone = true → 1 ≤ s.me.routeDepth.toNat →
    let e := (s.rg a).toNat % 65536
    let x := s.rg b + 8 * BitVec.ofNat 64 e
    let key := syncKey (s.locAt x.toNat).pa
    let w := (s.syncWord key).toNat
    (e = 0xFFFF → ∃ t : State, exec (.xroute h d a b) s = .next t ∧
      Retired s t h s.cur.next (some (d, 0xFFFFFFFF0000FFFF)) none ∧ (t.slotOf s).routeDrops = s.me.routeDrops + 1) ∧
    (e ≠ 0xFFFF → x.toNat % 8 = 0 → Accessible s x.toNat 8 (fun l => l.tier == 2 && l.write) → s.objectWord key = false →
      SMap.get s.sync.wait [] key = [] → w % 2 ^ 32 < w / 2 ^ 32 →
      ∃ t : State, exec (.xroute h d a b) s = .next t ∧
        Retired s t h s.cur.next (some (d, BitVec.ofNat 64 (w % 2 ^ 32 * 2 ^ 32 + e))) none ∧
        t.syncWord key = BitVec.ofNat 64 (w + 1) ∧ (t.slotOf s).routeDrops = s.me.routeDrops)

/-- For every state: a task without privilege faults PRIV. In a privileged task, with SIZE not 3: XPIN of a page that is mapped
with that size pins it and returns DONE (FULL at 1,024 pins, ABSENT where it is not so mapped); XUNPIN unpins it, or returns
ABSENT; XINV of a range with a pinned page returns BUSY and changes nothing unless forced, and otherwise removes the pins and
the held translations it names and returns DONE. -/
def Obligations.TranslationInstructions : Prop :=
  ∀ (s : State) (h : Hdr) (d a b : Reg) (force : Bool), Ready s h [d, a, b] [] →
    let va := (s.rg a).toNat
    let asid := (s.rg b).toNat % 4096
    let size := (s.rg b).toNat / 4096 % 4
    let sh := if size = 0 then 16 else if size = 1 then 21 else 30
    let pin := (asid, sh, va / 2 ^ sh)
    let sel := invSel (s.rg a) (s.rg b)
    (s.me.task.priv = false → Faults s (.xinv h d a b force) cPRIV 0 s.cur.pc ∧ Faults s (.xpin h d a b) cPRIV 0 s.cur.pc ∧
      Faults s (.xunpin h d a b) cPRIV 0 s.cur.pc) ∧
    (s.me.task.priv = true → size ≠ 3 →
      (∀ l, s.walk asid va = .ok l → l.bits = sh → pin ∉ s.pins → s.pins.length < 1024 →
        ∃ t : State, exec (.xpin h d a b) s = .next t ∧ Retired s t h s.cur.next (some (d, 0)) none ∧ t.pins = s.pins ++ [pin] ∧
          t.heldLeaf asid va ≠ none) ∧
      (∀ l, s.walk asid va = .ok l → l.bits = sh → pin ∉ s.pins → 1024 ≤ s.pins.length → Writes s (.xpin h d a b) h d 2) ∧
      (∀ r, s.walk asid va = .error r → Writes s (.xpin h d a b) h d 3) ∧
      (pin ∈ s.pins → ∃ t : State, exec (.xunpin h d a b) s = .next t ∧ Retired s t h s.cur.next (some (d, 0)) none ∧
        t.pins = s.pins.erase pin) ∧
      (pin ∉ s.pins → Writes s (.xunpin h d a b) h d 3) ∧
      (force = false → s.pins.any sel.pinNamed = true → Writes s (.xinv h d a b force) h d 1) ∧
      ((force = true ∨ s.pins.any sel.pinNamed = false) → s.invWaits sel = false →
        ∃ t : State, exec (.xinv h d a b force) s = .next t ∧ Retired s t h s.cur.next (some (d, 0)) none ∧
          t.pins = s.pins.filter (fun p => !sel.pinNamed p) ∧ t.named sel = []))

/-- For every state and a started entry at the head of the first slot's vector queue: COMMAND_FINISH runs it whole. A lane the
mask selects holds the 32-bit sum, difference, product, bitwise result, broadcast, numbering, permuted, rotated or inserted
value that the entry gives; VSEL writes every lane; a lane the mask does not select, every other vector register, every g
register and every other slot are unchanged; the entry leaves its queue and its SIG is pushed. -/
def Obligations.VectorLaneResults : Prop :=
  ∀ (s : State) (core : Nat) (h : Hdr) (d a b x : Reg) (m : BitVec 3) (c : Cmd) (rest : List Cmd), Runs s core .vector c rest →
    let k := s.slotAt (4 * core)
    let A := laneAt k a
    let B := laneAt k b
    let D := laneAt k d
    let g := fun i : Nat => (c.ops.getD i 0).toNat
    let leaves := fun (i : Instr) (f : Nat → Nat) => c.instr = i →
      ∃ t, exec (.commandFinish core .vector) s = .next t ∧ Finished1 s t core .vector c rest ∧
        (∀ n, n < 128 → laneAt (t.slotAt (4 * core)) d n = f n) ∧
        (∀ r, r ≠ d → ∀ n, n < 128 → laneAt (t.slotAt (4 * core)) r n = laneAt k r n) ∧
        (t.slotAt (4 * core)).a = k.a ∧ (t.slotAt (4 * core)).x = k.x
    let on := fun (f : Nat → Nat) (n : Nat) => if selects k m n then f n else D n
    leaves (.viadd h d a b m 0 true false) (on fun n => (A n + B n) % 2 ^ 32) ∧
    leaves (.visub h d a b m 0 true false) (on fun n => (A n + 2 ^ 32 - B n) % 2 ^ 32) ∧
    leaves (.vimul h d a b m 0 true false) (on fun n => A n * B n % 2 ^ 32) ∧
    leaves (.vand h d a b m 0 true) (on fun n => A n &&& B n) ∧
    leaves (.vor h d a b m 0 true) (on fun n => A n ||| B n) ∧
    leaves (.vxor h d a b m 0 true) (on fun n => A n ^^^ B n) ∧
    leaves (.vsel h d a b m) (fun n => if selects k m n then A n else B n) ∧
    leaves (.vbcast h d x m) (on fun _ => g 0 % 2 ^ 32) ∧
    leaves (.vbcastL h d a x m) (on fun _ => A (g 0 % 128)) ∧
    leaves (.vperm h d a b m) (on fun n => A (B n % 128)) ∧
    leaves (.vrotl h d a x m) (on fun n => A ((n + 128 - g 0 % 128) % 128)) ∧
    leaves (.viota h d x m) (on fun n => (g 0 + n) % 2 ^ 32) ∧
    leaves (.vins h d x b) (fun n => if n = g 1 % 128 then g 0 % 2 ^ 32 else D n)

/-- For every state and a started entry at the head of the first slot's vector queue: VMPUSH puts the top and-ed with its mask on
the stack, VMINV replaces the top by the entry below (all ones at depth 1) without it, VMPOP takes it off; no vector register
changes. A push at depth 16, and an inversion or pop at depth 0, fault at the head and set the queue aside. -/
def Obligations.MaskStackResults : Prop :=
  ∀ (s : State) (core : Nat) (h : Hdr) (m : BitVec 3) (c : Cmd) (rest : List Cmd), Runs s core .vector c rest →
    let k := s.slotAt (4 * core)
    let top := k.mstack.headD (BitVec.allOnes 128)
    let leaves := fun (i : Instr) (st : List Mask) => c.instr = i →
      ∃ t, exec (.commandFinish core .vector) s = .next t ∧ Finished1 s t core .vector c rest ∧
        (t.slotAt (4 * core)).mstack = st ∧ (t.slotAt (4 * core)).v = k.v ∧ (t.slotAt (4 * core)).m = k.m
    leaves (.vmpush h m) ((BitVec.ofFnLE fun i : Fin 128 => selects k 7 i && selects k m i) :: k.mstack) ∧
    (∀ e r, k.mstack = e :: r → leaves (.vminv h) ((r.headD (BitVec.allOnes 128) &&& ~~~e) :: r)) ∧
    leaves (.vmpop h) k.mstack.tail ∧
    (16 ≤ k.mstack.length → s.vectorHead (4 * core) { instr := .vmpush h m } =
      .bad ⟨0x01, 0x0F, BitVec.ofNat 64 k.mstack.length⟩) ∧
    (k.mstack = [] → s.vectorHead (4 * core) { instr := .vmpop h } = .bad ⟨0x01, 0x0F, 0⟩ ∧
      s.vectorHead (4 * core) { instr := .vminv h } = .bad ⟨0x01, 0x0F, 0⟩)

/-- For every state and a started entry at the head of the first slot's matrix queue: MSET sets the operand formats and the
semiring; MZERO fills every element of its accumulator with the identity of the semiring and tags it by CONFIG and DISC; MACC
without ADD copies the source accumulator and its TYPE. No other accumulator, no vector register and no other slot changes,
the entry leaves its queue and its SIG is pushed. -/
def Obligations.MatrixStateResults : Prop :=
  ∀ (s : State) (core : Nat) (h : Hdr) (d e : Reg) (fa fb : BitVec 4) (sr : BitVec 3) (disc : Bool) (c : Cmd) (rest : List Cmd),
    Runs s core .matrix c rest →
    let k := s.slotAt (4 * core)
    let ident := match k.cfg.sr.toNat with | 1 => 0x7F800000 | 2 => 0xFF800000 | 3 => 0xFF800000 | _ => 0
    let elem := fun (q : Slot) (n : Reg) (i j : Nat) => (SMap.get q.acc 0 (128 * n.toNat + i)).toNat / 2 ^ (32 * j) % 2 ^ 32
    let ends := fun (i : Instr) (P : Slot → Prop) => c.instr = i →
      ∃ t, exec (.commandFinish core .matrix) s = .next t ∧ Finished1 s t core .matrix c rest ∧ P (t.slotAt (4 * core)) ∧
        (t.slotAt (4 * core)).v = k.v ∧ (t.slotAt (4 * core)).a = k.a ∧ (t.slotAt (4 * core)).x = k.x
    ends (.mset h fa fb sr) (fun q => q.cfg = ⟨fa, fb, sr⟩ ∧ q.acc = k.acc ∧ q.accTag = k.accTag) ∧
    ends (.mzero h d disc) (fun q => (∀ i j, i < 128 → j < 128 → elem q d i j = ident) ∧ q.cfg = k.cfg ∧
      SMap.get q.accTag {} d.toNat = ⟨k.cfg.fa == 4 || k.cfg.fa == 5, disc⟩ ∧
      ∀ n i j, n ≠ d → i < 128 → j < 128 → elem q n i j = elem k n i j) ∧
    ends (.macc h d e false) (fun q => (∀ i j, i < 128 → j < 128 → elem q d i j = elem k e i j) ∧ q.cfg = k.cfg ∧
      SMap.get q.accTag {} d.toNat = ⟨(SMap.get k.accTag {} e.toNat).int, false⟩ ∧
      ∀ n i j, n ≠ d → i < 128 → j < 128 → elem q n i j = elem k n i j)

/-- For every state and every scalar, predicate, branch, queue, task-control, trap, control-register-read and SHAPE instruction,
and BRMZ: where exec answers a next state in which the instruction has not faulted, every byte of module and host memory
reads as before, no data cache has changed, and neither has any other task slot. -/
def Obligations.SequencerInstructionsTouchNoMemory : Prop :=
  ∀ (s t : State) (i : Instr),
    (match i with
      | .add .. | .sub .. | .mul .. | .mulh .. | .mulhu .. | .div .. | .divu .. | .rem .. | .remu .. | .and .. | .or .. | .xor ..
      | .andn .. | .shl .. | .shr .. | .sar .. | .rot .. | .min .. | .max .. | .minu .. | .maxu .. | .sel .. | .addi .. | .andi ..
      | .ori .. | .xori .. | .shli .. | .shri .. | .sari .. | .roti .. | .cmpi .. | .clz .. | .popc .. | .sext .. | .zext .. | .bfx ..
      | .bfi .. | .cmp .. | .pand .. | .por .. | .pxor .. | .pnot .. | .pmov .. | .li .. | .br .. | .brl .. | .jmpr .. | .call ..
      | .ret .. | .loop .. | .dqpush .. | .dqpop .. | .bqpush .. | .brq .. | .fork .. | .rdv .. | .exit .. | .nop .. | .qcancel ..
      | .eret .. | .brk .. | .sysrd .. | .shape .. | .brmz .. => True
      | _ => False) →
    exec i s = .next t → t.cur.went ≠ .faulted →
    (∀ l, l.tier < 2 → t.homeByte l = s.homeByte l) ∧ (∀ c, (t.coreAt c).dc = (s.coreAt c).dc) ∧
      ∀ n, n ≠ s.cur.slot → t.slotAt n = s.slotAt n

/-- For every state: where one slot alone has an entry that may start and it runs, COMMAND_START starts it and pops its WAIT
queues; where one slot alone has an entry that can finish, COMMAND_FINISH pushes its SIG and takes it off; LINE_LAND moves
the next line of the one copy that moves; LINE_PERFORMED writes the next sent line at its destination and counts it;
TILE_FREE frees a SETTLING tile on which nothing is in flight, its serial kept. No other slot's task changes at the start and
at the end. -/
def Obligations.EngineStepsHappen : Prop :=
  ∀ (s t u : State) (core n idx : Nat) (e : Engine) (c d : Cmd) (rest : List Cmd), n ∈ slotsOf core →
    (s.startable e n = some c → (∀ m ∈ slotsOf core, m ≠ n → s.startable e m = none) →
      s.arbitrate core (arbOfEngine e) [n] = some (u, n) → (s.headOf e n c).waits = false → u.headOf e n c = .runs t d →
      ∃ r, exec (.commandStart core e) s = .next r ∧
        (r.slotAt n).queue e = { d with started := true } :: ((t.slotAt n).queue e).tail ∧
        (∀ i : Fin 8, (r.slotAt n).tok.get i = (t.slotAt n).tok.get i - bitCount d.hdr.wait i) ∧
        (∀ m, m ≠ n → r.slotAt m = t.slotAt m) ∧ { r with slots := t.slots } = t) ∧
    ((s.slotAt n).queue e = c :: rest → c.started = true → c.ended = true → c.recorded = false →
      (s.slotAt n).tokFits c.hdr.sig = true → (∀ m ∈ slotsOf core, m ≠ n → s.finishHead e m = none) →
      ∃ r, exec (.commandFinish core e) s = .next r ∧ (r.slotAt n).queue e = rest ∧
        (∀ i : Fin 8, (r.slotAt n).tok.get i = (s.slotAt n).tok.get i + bitCount c.hdr.sig i) ∧
        (∀ m, m ≠ n → r.slotAt m = s.slotAt m) ∧ { r with slots := s.slots } = s) ∧
    (s.moving n = some c → (∀ m ∈ slotsOf core, m ≠ n → s.moving m = none) → s.moveNext n c = .ok t d →
      exec (.lineLand core) s = .next (t.updSlot n fun k => k.setHead .copy d)) ∧
    (let v := s.wrVirt (s.slotAt n).task.asid (c.opN 0 + 128 * c.done)
        (leBytes (min 128 (c.opN 2 - 128 * c.done)) (SMap.get c.buf 0 c.done).toNat);
      s.performable n c = true →
      ((s.slotAt n).flight = [] → (s.slotAt n).cq = c :: rest →
        ∃ r, exec (.linePerformed n) s = .next r ∧ r.mem = v.mem ∧ r.host = v.host ∧
          (r.slotAt n).cq = { c with done := c.done + 1, buf := SMap.erase c.buf c.done } :: rest) ∧
      ((s.slotAt n).flight = c :: rest →
        ∃ r, exec (.linePerformed n) s = .next r ∧ r.mem = v.mem ∧ r.host = v.host ∧ (r.slotAt n).cq = (s.slotAt n).cq ∧
          (r.slotAt n).flight =
            if c.done + 1 < c.sent then { c with done := c.done + 1, buf := SMap.erase c.buf c.done } :: rest else rest)) ∧
    ((s.tileAt core idx).st = .settling →
      s.inFlight (mkHandle core (s.tileAt core idx).owner idx (s.tileAt core idx).serial) = false →
      exec (.tileFree core idx) s = .next (s.updTile core idx fun t => { serial := t.serial }))

/-- For every state. TASK_START of a slot in START whose record can be read puts it in SOLO with the record in g1 to g16, MEMBER
in g17, the record index in g18, zero elsewhere, both sequencers alike, A-seq at the entry. CLOSING_END ends a quiet task in
CLOSING. FAULT_DELIVER of a routed fault enters the handler with the fault registers written and no register changed; one
that is not routed kills the task. AWAIT_TIME retires an AWAIT of time that has come. DEAL_CHUNK deals what the die's
scheduler chooses, its header read at the first deal. RESTORE places the saved set it chooses. PREEMPT_TIMEOUT makes a
request whose time has come take effect: saved, or FULL. -/
def Obligations.TaskEvents : Prop :=
  ∀ (s t u : State) (n : Nat) (bs : List Byte) (tr : Trap),
    let k := s.slotAt n
    ((s.slotAt n).st = .start → s.readArgs n = .ok (t, bs) →
      ∃ r, exec (.taskStart n) s = .next r ∧ (r.slotAt n).st = .solo ∧ (r.slotAt n).a.pc = (t.slotAt n).task.entry ∧
        (∀ st (g : Reg), ((r.slotAt n).seq st).rd g =
          if 1 ≤ g.toNat ∧ g.toNat ≤ 16 then BitVec.ofNat 64 (leNat ((bs.drop (8 * (g.toNat - 1))).take 8))
          else if g = 17 then BitVec.ofNat 64 k.task.member else if g = 18 then BitVec.ofNat 64 k.task.record else 0) ∧
        (∀ st (p : PReg), ((r.slotAt n).seq st).rdP p = decide (p = 0)) ∧ (∀ m, m ≠ n → r.slotAt m = t.slotAt m)) ∧
    (k.st = .closing → s.quiet n = true → k.pending = [] → exec (.closingEnd n) s = .next (s.endTask n)) ∧
    (k.nextFault = some tr → k.st.runs = true → k.meetsPreempt s.time tr = false → tr.cause ≠ 0x12 →
      (k.routes tr.cause = true →
        ∃ r, exec (.faultDeliver n) s = .next r ∧
          (r.slotAt n).fault = { cause := tr.cause, addr := tr.addr, pc := tr.pc, info := faultInfo tr, ret := k.a.pc, handler := true } ∧
          (r.slotAt n).a.pc = k.task.handler ∧ (r.slotAt n).xHeld = true ∧
          (∀ st g, ((r.slotAt n).seq st).rd g = (k.seq st).rd g) ∧ (∀ st p, ((r.slotAt n).seq st).rdP p = (k.seq st).rdP p) ∧
          r.mem = s.mem ∧ r.host = s.host ∧ r.cores = s.cores) ∧
      (k.routes tr.cause = false → tr.cause ≠ 0x09 → tr.cause ≠ 0x0E →
        exec (.faultDeliver n) s = .next ((s.dropFault n tr).killTask n tr.cause tr.reason))) ∧
    (∀ (h : Hdr) (reg : Reg) (f : Fetched), k.st.issues .a = true → k.a.parked = true → k.a.held = [] → s.deliverable n = false →
      s.fetchAt n .a k.a.pc = .ok f → f.instr = .await h 4 reg → tokQueuesOk h .seq .a = true → k.a.awaits [reg] [] = false →
      k.hasTok h.wait = true → s.time.ult (k.a.rd reg) = false →
      ∃ r, exec (.awaitTime n) s = .next r ∧ (r.slotAt n).a.pc = f.next ∧ (r.slotAt n).a.parked = false ∧
        (∀ g, (r.slotAt n).a.rd g = k.a.rd g) ∧ Tokens k (r.slotAt n) h ∧ (r.slotAt n).x = k.x ∧ ∀ m, m ≠ n → r.slotAt m = s.slotAt m) ∧
    (∀ die id target h, u = s.finishEmpty.fillChunks die → u.schedule die = some (.deal id target) →
      ((u.jobAt id).hdr = some h → exec (.dealChunk die) s = .next (u.dealTo id die target)) ∧
      ((u.jobAt id).hdr = none → u.readHeader (u.jobAt id) = some (.ok h) →
        exec (.dealChunk die) s = .next ((u.updJob id fun j => { j with hdr := some h }).dealTo id die target))) ∧
    (∀ die w slots, s.schedule die = some (.restore w slots) → s.kernelOf w = some (.ok t) → t.restoreSet w slots = some u →
      exec (.restore die) s = .next u) ∧
    (∀ q, k.pre = some q → k.st.runs = true → s.time.ult q.deadline = false → t = s.boundaries n → t.canStop n = true →
      exec (.preemptTimeout n) s = .next (match t.saveSet n (t.slotAt n).saveKind with | some v => v | none => t.preFull n))

/-- For every state and operands whose conditions hold: XINV, forced or not, removes the pins and held translations it names
(BUSY at a pin unless forced); XPIN pins, XUNPIN unpins; DESCINV empties the descriptor caches of what it names; HOLD and
RELEASE keep and lift a hold on a page; PREEMPT records its request, at once or after its delay; RESUME marks a saved set;
PUSHSAVE puts an area on top of its pool; DROP discards a saved task and fails its job; ADOPT adopts a dead package's jobs
and answers how many; QUARANTINE_RELEASE returns a core to service; SIGN_REPORT writes the report and its signature; an
unassigned operation, or a reserved selector, answers 7 and has no effect. The mailbox is free again afterwards. -/
def Obligations.MailboxOperations : Prop :=
  ∀ (s : State) (a b : Word) (op : BitVec 4),
    let va := a.toNat
    let asid := b.toNat % 4096
    let sel := invSel a b
    let sh := if selSize b = 0 then 16 else if selSize b = 1 then 21 else 30
    let slot := va % 1024
    let ends := fun (i : Instr) (st : BitVec 3) (P : State → Prop) =>
      ∃ t : State, exec i s = .next t ∧ t.boot.mbBusy = false ∧ t.boot.mbStat = st ∧ P t
    let only := fun (i : Instr) (st : BitVec 3) (t : State) => exec i s = .next (t.mbDone st)
    (selSize b ≠ 3 → s.invWaits sel = false →
      (s.pins.any sel.pinNamed = false → ends (.mailboxXinv a b) 0 fun t => t.named sel = [] ∧ t.pins = s.pins) ∧
      ends (.mailboxXinvForced a b) 0 fun t => t.named sel = [] ∧ t.pins = s.pins.filter fun p => !sel.pinNamed p) ∧
    (selSize b ≠ 3 → s.pins.any sel.pinNamed = true → only (.mailboxXinv a b) 1 s) ∧
    (selSize b = 3 → only (.mailboxXinv a b) 7 s ∧ only (.mailboxXinvForced a b) 7 s ∧ only (.mailboxXpin a b) 7 s ∧
      only (.mailboxXunpin a b) 7 s ∧ only (.descinv a b) 7 s ∧ only (.hold a b) 7 s ∧ only (.release a b) 7 s) ∧
    (badSelector false b = false →
      (∀ l, s.walk asid va = .ok l → l.bits = sh → (asid, sh, va / 2 ^ sh) ∉ s.pins → s.pins.length < 1024 →
        ends (.mailboxXpin a b) 0 fun t => t.pins = s.pins ++ [(asid, sh, va / 2 ^ sh)]) ∧
      ((asid, sh, va / 2 ^ sh) ∈ s.pins → only (.mailboxXunpin a b) 0 { s with pins := s.pins.erase (asid, sh, va / 2 ^ sh) }) ∧
      only (.hold a b) 0 { s with holds := if s.holds.contains (asid, va) then s.holds else s.holds ++ [(asid, va)] } ∧
      (let m := s.pageBits asid va;
        only (.release a b) 0 { s with holds := s.holds.filter fun h => !(h.1 == asid && h.2 / 2 ^ m == va / 2 ^ m) })) ∧
    (selSize b ≠ 3 → ends (.descinv a b) 0 fun t => ∀ c, (t.coreAt c).desc = (s.coreAt c).desc.filter fun d =>
      !(d.1 / 65536 == asid && (selAll b || d.1 % 65536 == va % 65536))) ∧
    (slot < 768 → (s.slotAt slot).st.savable = true → (s.slotAt slot).st.runs = true →
      let asked := fun (d : Nat) => s.updSlot slot fun k => { k with pre := some { deadline := s.time + BitVec.ofNat 64 d, mailbox := true } }
      let us := va / 65536 % 2 ^ 24
      (va / 4096 % 4 = 1 → exec (.preempt a b) s = .next ((asked 0).preemptNow slot)) ∧
      (va / 4096 % 4 = 2 → us ≠ 0 → exec (.preempt a b) s = .next (asked (1000 * us)))) ∧
    (∀ v, SMap.get s.saved none va = some v →
      (v.head = true → v.resume = none → only (.resume a b) 0
        { s with saved := SMap.set s.saved none va (some { v with resume := some (b.extractLsb' 0 4), order := s.nextOrder })
                 nextOrder := s.nextOrder + 1 }) ∧
      only (.drop a b) 0 (((s.discardSaved va v).failJob v.task.job (if v.kind = 3 then 0x12 else 0x14) 0).jobCheck v.task.job)) ∧
    (let t := b.toNat % 64;
      va % 65536 = 0 → va + (s.tenAt t).saveSize ≤ 3 * 2 ^ 40 → ends (.pushsave a b) 0 fun r =>
        r.mem = writeBytes s.mem va (leBytes 8 (s.tenAt t).savePool) ∧ r.tenAt t = { s.tenAt t with savePool := va } ∧
        ∀ x, x ≠ t → r.tenAt x = s.tenAt x) ∧
    (let q := s.queueAt (va / 4096 % 4096);
      s.isDead (va % 512) = true → q.opened = true → q.device = true → ends (.adopt a b) 0 fun t =>
        t.boot.mbb = BitVec.ofNat 64 (s.adoptable (va % 512) q.owner).length) ∧
    ((s.coreAt va).health = 2 → ends (.quarantineRelease a b) 0 fun t =>
      (t.coreAt va).health = 0 ∧ t.quarantined = s.quarantined.filter (· != va) ∧ ∀ c, c ≠ va → t.coreAt c = s.coreAt c) ∧
    (va % 64 = 0 → va + 36304 ≤ 3 * 2 ^ 40 →
      let report := s.report ((upto 32 va).map fun x => SMap.get s.mem 0 x)
      only (.signReport a b) 0
        { s with mem := writeBytes s.mem (va + 64) (report ++ (upto 35664 0).map (Config.signature report)) }) ∧
    only (.mailboxUnassigned op a b) 7 s

/-- For every state. ENTRY_READ of an open host queue consumes an entry that passes R18 and halts the queue at one that does not.
WRITE, ENABLE, RESET and CREAD act once STAGE reads 4: RESET takes READ to WRITE and clears HVALID. COMPLETION_RECORD writes
the first waiting record where the ring has room, and counts it. LAUNCH_PACKET of an admitted package consumes its entry;
another counts in DENIED and is told. JPOST of an entry image in order releases the task's writes, consumes it and retires
with its SEQ. JWAIT retires with the result of an ended job, of its card or its history word, and UNKNOWN (bit 10) where
neither is kept; while the job runs it waits. -/
def Obligations.QueuesAndLaunches : Prop :=
  ∀ (s : State) (n : Nat) (v : Word) (on : Bool),
    let q := s.queueAt n
    let ready := s.boot.stage = 4
    (∀ hb bs, q.opened = true → q.device = false → q.waiting.length < 64 → 8 ≤ (q.write - q.read).toNat →
      s.rdRing q q.read.toNat 8 = some hb → q.overrun = false →
      let h := entryHdr (leNat hb)
      let ws := (upto (maskFields h.mask).length 0).map fun i => leNat ((bs.drop (8 * i)).take 8)
      let j : Job := { queue := n, seq := BitVec.ofNat 32 h.seq, field := mergeFields q.before h.mask ws }
      (∀ st, q.headStatus h = some st → exec (.entryRead n) s = .next (s.haltQueue n st h.seq)) ∧
      (q.headStatus h = none → h.size ≤ (q.write - q.read).toNat → s.rdRing q (q.read.toNat + 8) (h.size - 8) = some bs →
        (s.bodyStatus q h j = none → exec (.entryRead n) s = .next (s.consume n h.size h.seq j)) ∧
        (∀ st, s.bodyStatus q h j = some st → exec (.entryRead n) s = .next (s.haltQueue n st h.seq)))) ∧
    (ready → ({ q with write := v }.opened && { q with write := v }.overrun) = false →
      exec (.write n v) s = .next (s.updQueue n fun q => { q with write := v })) ∧
    (ready → exec (.cread n v) s = .next (s.updQueue n fun q => { q with cread := v })) ∧
    (ready → ∃ t, exec (.enable n on) s = .next t ∧ t.queueAt n = { q with
      enable := on, status := if 2 ≤ q.status then q.status else if on && q.configured then 0 else 1 }) ∧
    (ready → q.linkStop = false → ∃ t, exec (.reset n) s = .next t ∧ t.queueAt n = { q with
      read := q.write, hvalid := false, prev := [], status := if q.enable && q.configured then 0 else 1 }) ∧
    (∀ r rest, q.waiting = r :: rest → s.recordReady n = true → ∃ t, exec (.completionRecord n) s = .next t ∧
      t.queueAt n = { q with devSeq := q.devSeq + 1, cwrite := q.cwrite + 1, waiting := rest,
                             history := SMap.set q.history 0 (r.jobSeq.toNat % 1024) r.history }) ∧
    (∀ pkg ten entry,
      (s.admits q pkg ten = false → ∃ t, exec (.launchPacket n pkg ten entry) s = .next t ∧
        t.queueAt n = { q with denied := q.denied + 1 } ∧ t.out = s.out ++ [.launchDenied pkg]) ∧
      (s.admits q pkg ten = true → q.takes = true → ∀ h j, s.image n (entry.map BitVec.toNat) = .ok (h, j) →
        exec (.launchPacket n pkg ten entry) s = .next (s.appendEntry n h j (entry.map BitVec.toNat)))) ∧
    (∀ (h : Hdr) (d a b : Reg) (hd bs : List (Nat × Leaf × Loc)) (eh : EntryHdr) (j : Job), Ready s h [d, a, b] [] →
      let x := (s.rg b).toNat
      let m := (s.rg a).toNat % 4096
      let u := s.releaseCache s.cur.slot 5 false
      let asid := u.me.task.asid
      let ws := u.imageWords bs
      let w := u.holdAll asid bs
      x % 8 = 0 → s.me.copiesDone = true → u.access asid x 8 lsXl noPr = .ok hd →
      u.access asid x (8 * max 1 (entryHdr ((u.imageWords hd).headD 0)).len) lsXl noPr = .ok bs → w.image m ws = .ok (eh, j) →
      w.admits (w.queueAt m) w.pkg w.me.task.tenant = true → (w.queueAt m).takes = true →
      exec (.jpost h d a b) s = .next (((w.appendEntry m eh j ws).wg d (BitVec.ofNat 64 eh.seq)).retire h)) ∧
    (∀ (h : Hdr) (d a b : Reg), Ready s h [d, a, b] [] →
      let m := (s.rg a).toNat % 4096
      let seq := (s.rg b).setWidth 32
      let kept := (SMap.get (s.queueAt m).history 0 (seq.toNat % 1024)).toNat
      let holds := kept / 2 ^ 63 = 1 ∧ kept % 2 ^ 32 = seq.toNat
      let answers := fun (r : Nat) => ∃ t, exec (.jwait h d a b) s = .next t ∧ Retired s t h s.cur.next (some (d, BitVec.ofNat 64 r)) none
      let ofKept := kept / 2 ^ 32 % 256 + 256 * (kept / 2 ^ 41 % 2) + 512 * (kept / 2 ^ 42 % 2)
      (s.jobBySeq m seq = none → (holds → answers ofKept) ∧ (¬ holds → answers 1024)) ∧
      (∀ j, s.jobBySeq m seq = some j →
        (j.st ≠ .done → j.st ≠ .failed → Stalls s (.jwait h d a b)) ∧
        (j.st = .done ∨ j.st = .failed → s.recordWaits m j = true →
          answers (j.cause.toNat + (if j.late then 256 else 0) + (if j.overCnt then 512 else 0)))))

/-- For every state. A write of MBA, CREAD, a tenant's VALID and WEIGHT is kept; a write of MBCMD with GO while the mailbox is
free makes it busy and its operation the next step; a write of the identity register is dropped. An aperture access reads or
writes eight bytes of module memory. MARK_KEY writes one word of a key that is not complete, CLEAR clears it. MODULE_RESET
leaves every register at its reset value, and keeps the memories, the fabric time and the records of retired banks and
quarantined cores. BOOT_STAGE goes from 0 to 1, and with a signed image to 2, 3 and 4, else to 15, each measured.
MEASUREMENT_EXTEND extends registers 3 to 7 with SHAKE256. -/
def Obligations.ControlWindow : Prop :=
  ∀ (s : State) (v : Word) (n : Nat) (m : List Byte),
    exec (.registerWrite 0x108 v) s = .next { s with boot := { s.boot with mba := v } } ∧
    exec (.registerWrite 0x110 v) s = .next { s with boot := { s.boot with mbb := v } } ∧
    exec (.registerWrite 0x000 v) s = .next s ∧
    (s.boot.mbBusy = false → v.getLsbD 31 = true →
      let b := { s.boot with mbOp := v.extractLsb' 0 4, mbBusy := true }
      exec (.registerWrite 0x100 v) s = .next { s with boot := b, agenda := .event b.operation :: s.agenda }) ∧
    (s.boot.mbBusy = true → exec (.registerWrite 0x100 v) s = .next s) ∧
    (s.boot.stage = 4 → n < 4096 →
      exec (.registerWrite (0x100000 + 64 * n + 0x30) v) s = .next (s.updQueue n fun q => { q with cread := v })) ∧
    (s.boot.stage = 4 → n < 64 → exec (.registerWrite (0x200000 + 64 * n) v) s =
      .next (s.updTen n fun e => { e with valid := v.getLsbD 0, weight := v.extractLsb' 4 4 })) ∧
    (let pa := s.boot.memWin + n;
      n + 8 ≤ 2 ^ 36 → pa + 8 ≤ 3 * 2 ^ 40 → s.apertureHeld pa = false →
      ((∀ i, i < 8 → s.devOnlyFrame (pa + i) = false) → exec (.apertureAccess false n v) s =
        .next { s with lastRead := BitVec.ofNat 64 (leNat ((upto 8 pa).map fun a => SMap.get s.mem 0 a)) }) ∧
      exec (.apertureAccess true n v) s = .next (s.aperturePut pa (leBytes 8 v.toNat))) ∧
    (n < 64 → exec (.clear n) s = .next (s.updTen n fun e => { e with key := 0, keyWords := 0 }) ∧
      ∀ i, i < 4 → (s.tenAt n).keyWords ≠ 15 → ∃ t, exec (.markKey n i v) s = .next t ∧
        (t.tenAt n).key.extractLsb' (64 * i) 64 = v ∧ (t.tenAt n).keyWords.getLsbD i = true ∧
        (∀ j, j < 4 → j ≠ i → (t.tenAt n).key.extractLsb' (64 * j) 64 = (s.tenAt n).key.extractLsb' (64 * j) 64 ∧
          (t.tenAt n).keyWords.getLsbD j = (s.tenAt n).keyWords.getLsbD j) ∧
        { t with tens := s.tens } = s) ∧
    (∃ t, exec .moduleReset s = .next t ∧ t.mem = s.mem ∧ t.host = s.host ∧ t.time = s.time ∧ t.retired = s.retired ∧
      t.quarantined = s.quarantined ∧ t.slots = State.reset.slots ∧ t.cores = State.reset.cores ∧ t.sync = State.reset.sync ∧
      t.boot = State.reset.boot ∧ t.queues = State.reset.queues ∧ t.jobs = State.reset.jobs ∧ t.tens = State.reset.tens ∧
      t.tlb = State.reset.tlb ∧ t.pins = State.reset.pins ∧ t.saved = State.reset.saved) ∧
    (let extended := fun (t : State) (i : Nat) => SMap.get t.meas 0 i =
        BitVec.ofNat 512 (leNat (shake256 (leBytes 64 (SMap.get s.meas 0 i).toNat ++ m) 64)) ∧
        ∀ j, j ≠ i → SMap.get t.meas 0 j = SMap.get s.meas 0 j;
      let stage := fun (k : Nat) (ok : Bool) (k' : Nat) (P : State → Prop) => s.boot.stage = k →
        ∃ t, exec (.bootStage ok m) s = .next t ∧ t.boot.stage = k' ∧ P t;
      (∀ ok, stage 0 ok 1 fun t => t.meas = s.meas) ∧
      stage 1 true 2 (extended · 0) ∧ stage 1 false 15 (extended · 0) ∧
      stage 3 true 4 (extended · 2) ∧
      (s.retired = [] → s.quarantined = [] → stage 2 true 3 (extended · 1) ∧ stage 2 false 15 (extended · 1)) ∧
      (3 ≤ n → n ≤ 7 → ∃ t, exec (.measurementExtend n m) s = .next t ∧ extended t n ∧ { t with meas := s.meas } = s))

/-- For every state. RETREQ of a live bank on an idle core starts its retirement, with its deadline RETDL microseconds on; one of
no such bank is refused. SHRINK takes 16 tile slots; at the deadline RETIREMENT_DEADLINE stops every task over capacity and
goes on; RELOCATE and RE_INTERLEAVE start a move, or end it with the frames exchanged; CLOSE takes the bank out and records
it, and the core is idle. BANK_RETIREMENT retires an instruction-cache, parity or accumulator bank. SYNC_WORD_MOVE moves one
word. QUOTA sets a pair's quotas, and those of a running task no higher than its job's. -/
def Obligations.CapacityEvents : Prop :=
  ∀ (s : State) (core n : Nat),
    let c := s.coreAt core
    let r := c.ret
    let live := fun (array bank : Nat) => s.retirable core array bank
    (r.phase = 0 → r.queue = [] → ∀ array bank,
      (live array bank = true → ∃ t, exec (.retreq core array bank) s = .next t ∧ (t.coreAt core).ret =
        { r with reqArray := array, reqBank := bank, refused := false, phase := 1, array := array, bank := bank
                 deadline := s.time + 1000 * r.retdl.setWidth 64 }) ∧
      (live array bank = false → ∃ t, exec (.retreq core array bank) s = .next t ∧ (t.coreAt core).ret =
        { r with reqArray := array, reqBank := bank, refused := true })) ∧
    (r.phase = 1 → r.array = 0 → ∃ t, exec (.shrink core) s = .next t ∧ (t.coreAt core).capTile = c.capTile - 16 ∧
      (t.coreAt core).ret = { r with phase := 2 } ∧
      ∀ m ∈ slotsOf core, (t.slotAt m).grantT = min (s.slotAt m).grantT (s.slotAt m).quotaT) ∧
    (r.phase = 2 → s.time.ult r.deadline = false → exec (.retirementDeadline core) s = .next
      (((((s.overSlots core).foldl (fun t n => t.deadlineStop core n)
        (s.updCore core fun c => { c with ret := { c.ret with relaunched := 0, failed := 0 } })).settleOrphans core).endStanding core))) ∧
    (r.phase = 3 ∨ r.phase = 4 → r.moving = none → ∀ i rest, r.todo = i :: rest → (s.tileAt core i).st ≠ .free →
      s.writing core i = false →
      exec (if r.phase = 3 then .relocate core else .reInterleave core) s =
        .next (s.updCore core fun c => { c with ret := { c.ret with moving := some i } })) ∧
    (∀ i, r.moving = some i →
      (r.phase = 3 → ∀ j rest, c.freeFrames = j :: rest → ∃ t, exec (.relocate core) s = .next t ∧
        (t.coreAt core).frameOf i = c.frameOf j ∧ (t.coreAt core).frameOf j = c.frameOf i ∧
        (t.coreAt core).tiles = c.tiles ∧ (t.coreAt core).ret = { r with moving := none, todo := r.todo.tail }) ∧
      (r.phase = 4 → exec (.reInterleave core) s =
        .next (s.updCore core fun c => { c with ret := { c.ret with moving := none, todo := c.ret.todo.tail } }))) ∧
    (r.phase = 4 → r.moving = none → r.todo = [] →
      exec (.reInterleave core) s = .next (s.updCore core fun c => { c with ret := { c.ret with phase := 5 } })) ∧
    (r.phase = 5 → r.queue = [] → r.bank < 32 → ∃ t, exec (.close core) s = .next t ∧
      (∀ b, b < 32 → (t.coreAt core).tileBanks.getLsbD b = (c.tileBanks.getLsbD b && decide (b ≠ r.bank))) ∧
      t.retired = s.retired ++ [(r.array, r.bank, core)] ∧ (t.coreAt core).ret.phase = 0) ∧
    (r.phase = 1 → r.queue = [] →
      (r.array = 5 → r.bank < 4 → ∃ t, exec (.bankRetirement core) s = .next t ∧ (t.coreAt core).capI = c.capI - 32 ∧
        (∀ b, b < 4 → (t.coreAt core).iBanks.getLsbD b = (c.iBanks.getLsbD b && decide (b ≠ r.bank))) ∧
        t.retired = s.retired ++ [(5, r.bank, core)] ∧ (t.coreAt core).ret.phase = 0) ∧
      (r.array = 1 → r.bank < 4 → ∃ t, exec (.bankRetirement core) s = .next t ∧
        (∀ b, b < 4 → (t.coreAt core).parBanks.getLsbD b = (c.parBanks.getLsbD b && decide (b ≠ r.bank))) ∧
        t.retired = s.retired ++ [(1, r.bank, core)] ∧ (t.coreAt core).ret.phase = 0) ∧
      (r.array = 2 → ∃ t, exec (.bankRetirement core) s = .next t ∧ (t.coreAt core).capAcc = c.capAcc - 4 ∧
        (t.coreAt core).ret.phase = 2)) ∧
    (core % 48 = 0 → r.phase = 4 → r.array = 16 →
      let w := core / 48 * 2 ^ 19 + r.bank * 2 ^ 15
      let moved := SMap.get s.sync.spill 0 w + 1
      moved < 2 ^ 15 → exec (.syncWordMove (core / 48)) s =
        .next { s with sync := { s.sync with spill := SMap.set s.sync.spill 0 w moved } }) ∧
    (n < 4 → r.phase = 0 → ∀ tile acc,
      let k := s.slotAt (4 * core + n)
      ∃ t, exec (.quota core n tile acc) s = .next t ∧ SMap.get (t.coreAt core).quotaT 512 n = tile.toNat ∧
        SMap.get (t.coreAt core).quotaA 32 n = acc.toNat ∧ t.slotAt (4 * core + n) = if k.st = .free then k else
          { k with quotaT := min k.task.part tile.toNat, quotaA := min (s.jobAt k.task.job).acc acc.toNat })

/-- For every state. ERR_INJECT at an armed cache or synchronisation bank spends one count of COUNT, enters the log of its array
with KIND 3, newest first, and adds one to the shared counter that its ERR names. REPLAY of an uncorrectable error in an open
window that can be replayed runs the retained commands again and counts as uncorrectable; outside a window, or where it
cannot, the data are lost and counted as lost. KNOWN_ANSWER_SERVICE returns a suspect core to service, or quarantines and
records it. -/
def Obligations.ErrorEvents : Prop :=
  ∀ (s : State) (core array bank : Nat) (addr : BitVec 40) (syn : BitVec 16) (slot : Nat) (c : Cmd),
    let inj := (s.coreAt core).errInj.toNat
    let err := inj / 2 ^ 16 % 4
    (inj / 2 ^ 31 % 2 = 1 → inj % 256 = array → inj / 256 % 256 = bank → 4 ≤ array → array ≠ 6 → array < 16 →
      ∃ t, exec (.errInject core array bank addr syn) s = .next t ∧
        SMap.get (t.coreAt core).errLog [] array = (ErrAt.entry ⟨core, array, bank, addr, syn, none⟩ 3 s.time ::
          SMap.get (s.coreAt core).errLog [] array).take 64 ∧
        (t.coreAt core).errInj = spendInjection (s.coreAt core).errInj ∧
        t.scorr = (if err = 0 then s.scorr + 1 else s.scorr) ∧ t.suncorr = (if err = 1 then s.suncorr + 1 else s.suncorr) ∧
        t.slost = (if 2 ≤ err then s.slost + 1 else s.slost) ∧ t.slots = s.slots ∧ t.mem = s.mem) ∧
    (s.running .matrix slot = some c → coreOf slot = core → array = 0 ∨ array = 2 ∨ array = 6 → bankExists array bank = true →
      (∀ h d x y, c.instr ≠ .mkat h d x y) →
      let e : ErrAt := ⟨core, array, bank, addr, syn, some (s.contextOf slot)⟩
      ((s.slotAt slot).win.opened = true → s.replayable slot c (array == 2) = true →
        exec (.replay core slot array bank addr syn false) s = .next (((s.replay slot c).logError e 1).countError e 1)) ∧
      (((s.slotAt slot).win.opened = false ∨ s.replayable slot c (array == 2) = false) →
        exec (.replay core slot array bank addr syn false) s = .next (((s.matrixLost slot c 2).logError e 2).countError e 2))) ∧
    ((s.coreAt core).health = 1 →
      exec (.knownAnswerService core true) s = .next (s.updCore core fun c => { c with health := 0 }) ∧
      ∃ t, exec (.knownAnswerService core false) s = .next t ∧ (t.coreAt core).health = 2 ∧ core ∈ t.quarantined)

/-- For every state. A memory or Lomnik link that works goes down at LINK_FAILURE, a fabric link retrains; LINK_TIMEOUT gives up
a link that has been down for 50 ms, with what waits for it, and stops the queues that need the host; LINK_RECOVERY brings it
back and writes the state blocks. FLIT_RECEIVE takes a flit that passes its check in SEQ order and acknowledges it, drops one
out of order, and asks again for one that fails. RETRAIN_END and RETRAIN_AT_REQUEST end and start a retraining, the latter at
full rate. HOME_MOVE moves a page that may move to the frame on top of the other tier's stack. -/
def Obligations.LinkEvents : Prop :=
  ∀ (s : State) (n : Nat) (bytes : List Byte) (x : Word),
    let l := s.fLink n
    (n < 32 → (s.mLink n).down = none → exec (.linkFailure .memory n) s =
      .next (s.updMLink n fun _ => { down := some s.time, retrain := true })) ∧
    (s.lomnik.down = none → exec (.linkFailure .lomnik n) s = .next { s with lomnik := { down := some s.time, retrain := true } }) ∧
    (n < 16 → l.up = true → l.retrain = none →
      exec (.linkFailure .fabric n) s = .next (s.updFLink n fun l => { l with retrain := some s.time })) ∧
    (∀ d : Word, 50000000 ≤ s.time.toNat - d.toNat →
      ((s.mLink n).down = some d → (s.mLink n).lost = false → exec (.linkTimeout .memory n) s =
        .next (s.updMLink n fun l => { l with lost := true, retrain := false }).loseLines) ∧
      (s.lomnik.down = some d → s.lomnik.lost = false → exec (.linkTimeout .lomnik n) s =
        .next { s with lomnik := { s.lomnik with lost := true, retrain := false } }.stopQueues.loseLines) ∧
      (l.retrain = some d → exec (.linkTimeout .fabric n) s = .next (s.planeDown n))) ∧
    exec (.linkRecovery .memory n) s = .next (s.updMLink n fun _ => {}).showQueues ∧
    exec (.linkRecovery .lomnik n) s = .next { s with lomnik := {} }.showQueues ∧
    (n < 16 → exec (.linkRecovery .fabric n) s = .next (s.updFLink n fun l => { l with up := true, retrain := none })) ∧
    (n < 16 → l.up = true → l.retrain = none →
      let f := Config.rsCorrect bytes
      exec (.flitReceive n bytes) s = .next (
        if f.length = 256 ∧ leNat ((f.drop 244).take 4) = crc32 (f.take 244) then
          if BitVec.ofNat 12 (leNat (f.take 4)) = l.rxSeq then
            (s.updFLink n fun l => { l with rxSeq := l.rxSeq + 1 }).send (.flitAck n l.rxSeq)
          else s
        else (s.replayLink n).send (.flitReplay n l.rxSeq))) ∧
    (l.retrain ≠ none → exec (.retrainEnd n) s = .next (s.updFLink n fun l => { l with retrain := none, replays := [] })) ∧
    (n < 16 → ∃ t, exec (.retrainAtRequest n) s = .next t ∧
      t.fLink n = { l with rate := 224, up := true, retrain := some s.time, replays := [] } ∧ ∀ k, k ≠ n → t.fLink k = s.fLink k) ∧
    (∀ leaf f, s.walk n x.toNat = .ok leaf →
      let ten := s.rdPhys (s.asidEntry n + 8) 8 % 64
      let e := s.tenAt ten
      let take := if leaf.tier = 0 then e.poolH else e.poolM
      let give := if leaf.tier = 0 then e.poolM else e.poolH
      s.stackTop take = some f → s.movable n x.toNat leaf = true → give ≠ 0 → f % 2 ^ leaf.bits = 0 →
      exec (.homeMove n x) s = .next (s.movePage ten leaf take give f))

/-- For every state whose conditions hold: HEARTBEAT notes or sends a beat; DECLARE_DEAD and STANDBY_TAKEOVER act once three
beats are missed; POSTING and CALENDAR_ACK reach the arbiter, CALENDAR and COMMIT a member; DRUN_ENTRY sends or receives the
bytes of an open entry; FRED_CONTRIBUTION reaches its reduction, which ends as FAILED at its deadline; REMOTE_ATOMIC with
room performs once, caches and answers, and answers again from the cache; ATOMIC_REPLY retires the waiting atomic or is kept;
ATOMIC_RETRY sends again, four times; REPLY_CACHE_EXPIRY makes room for the oldest held atomic; BUDDY_IMAGE replaces the
older image of its task. -/
def Obligations.DomainEvents : Prop :=
  ∀ (s : State) (p ten tag num : Nat) (op : AtomOp),
    let missed := 30000 ≤ s.time.toNat - (SMap.get s.fab.beatAt 0 p).toNat
    let other := p ≠ s.pkg ∧ p < 288 ∧ s.isDead p = false
    let g := tag % 65536
    let home := SMap.get s.rhomes {} p
    let old := fun (u : State) => BitVec.ofNat 64 (u.atomHome 0 op).2
    let reached := s.homeReached op = true ∧ op.pa < 3 * 2 ^ 40
    (other → exec (.heartbeat p) s = .next { s with fab := { s.fab with beatAt := SMap.set s.fab.beatAt 0 p s.time } }) ∧
    (s.fab.arbiter ≠ s.pkg → s.fab.standby ≠ s.pkg →
      exec (.heartbeat s.pkg) s = .next { s with out := s.out ++ [.beat s.fab.arbiter, .beat s.fab.standby] }) ∧
    (other → (s.fab.arbiter = s.pkg → missed → exec (.declareDead p) s = .next ((s.packageDead p).announce p)) ∧
      (s.fab.arbiter ≠ s.pkg → exec (.declareDead p) s = .next (s.packageDead p))) ∧
    (s.fab.standby = s.pkg → s.fab.arbiter ≠ s.pkg → s.fab.arbiter = p → missed → exec .standbyTakeover s = .next s.takeOver) ∧
    (s.fab.arbiter = s.pkg → p ≠ s.pkg → p ∈ s.liveMembers ten →
      (∀ accept demand, exec (.posting p ten tag accept demand) s = .next (s.takePosting p ten g accept demand)) ∧
      exec (.calendarAck p ten tag) s = .next (s.takeAck p ten g)) ∧
    (s.fab.arbiter ≠ s.pkg →
      (∀ phases repost entries, exec (.calendar ten tag phases repost entries) s =
        .next (s.heardArbiter.takeCalendar ten g phases repost entries)) ∧
      (s.fab.standby ≠ s.pkg → ∀ base, exec (.commit ten tag base) s =
        .next (s.heardArbiter.takeCommit ten g (BitVec.ofNat 64 base)))) ∧
    (∀ e ent data ended, let x := s.xtagAt (tagKey ten g)
      (x.cal.getD [])[e]? = some ent → s.entryOpen x e ent = true →
      (ent.src = s.pkg → exec (.drunEntry ten tag e data ended) s = .next (s.sendEntry ten g e x ent)) ∧
      (ent.src ≠ s.pkg → ent.dst = s.pkg → exec (.drunEntry ten tag e data ended) s = .next (s.recvEntry ten g e x ent data ended))) ∧
    (∀ (red : FredDesc) (data : List Byte), p ≠ s.pkg → s.isDead p = false → data.length = red.len → s.openReds < 256 →
      exec (.fredContribution p red data) s = .next (s.contribute p red data 0)) ∧
    (∀ r, SMap.get s.reds none num = some r → r.ended = false →
      (if r.red.wait = 0 then 200000 else r.red.wait) ≤ s.time.toNat - r.first.toNat →
      exec (.reductionDeadline num) s = .next ((s.endRed num r 6).dropRed num)) ∧
    (s.isDead p = false →
      (home.cache.find? (fun e => e.1 == num) = none → home.floor ≤ num → home.held = [] → home.cache.length < 1024 → reached →
        ∃ t, exec (.remoteAtomic p num op) s = .next t ∧ t.out = (s.atomHome 0 op).1.out ++ [.atomReply p num (.old (old s))] ∧
          SMap.get t.rhomes {} p = { SMap.get (s.atomHome 0 op).1.rhomes {} p with
            cache := (SMap.get (s.atomHome 0 op).1.rhomes {} p).cache ++ [(num, old s, s.time)] } ∧ t.mem = (s.atomHome 0 op).1.mem) ∧
      (∀ e, home.cache.find? (fun e => e.1 == num) = some e →
        exec (.remoteAtomic p num op) s = .next { s with out := s.out ++ [.atomReply p num (.old e.2.1)] })) ∧
    (∀ rest e es, home.held = (num, op) :: rest → home.cache = e :: es → 1024 ≤ home.cache.length →
      2000000 ≤ s.time.toNat - e.2.2.toNat → reached → exec (.replyCacheExpiry p) s =
        .next ((s.setRhome p { home with cache := es, floor := max home.floor (e.1 + 1), held := rest }).performRemote p num op)) ∧
    (∀ r, SMap.get s.ratoms none num = some r → r.slot ≠ 768 →
      exec (.atomicReply num .held) s = .next { s with ratoms := SMap.set s.ratoms none num (some { r with heldHome := true }) } ∧
      (∀ v, r.live = true →
        (s.atAtomic r = true → exec (.atomicReply num (.old v)) s = .next (s.retireAtomic num r v)) ∧
        (s.atAtomic r = false →
          exec (.atomicReply num (.old v)) s = .next { s with ratoms := SMap.set s.ratoms none num (some { r with old := some v }) })) ∧
      (r.heldHome = false → r.old = none → 50000 ≤ s.time.toNat - r.sentAt.toNat → r.tries < 4 → exec (.atomicRetry num) s =
        .next { s with ratoms := SMap.set s.ratoms none num (some { r with tries := r.tries + 1, sentAt := s.time })
                       out := s.out ++ [.atomReq r.dst num r.op] })) ∧
    (∀ img : BuddyImg, ∃ t, exec (.buddyImage img) s = .next t ∧ img ∈ t.buddies ∧
      ∀ b ∈ t.buddies, b ≠ img → b ∈ s.buddies ∧
        ¬ (b.pkg = img.pkg ∧ b.queue = img.queue ∧ b.seq = img.seq ∧ b.record = img.record))
end

