-- ==== Sys2Proof/Laws/SMap.lean ====
section
/-! SUPPORT. Laws of the sparse maps: reading after writing, the canonical form kept by every operation, and that maps in that
form which read alike are equal. -/

namespace Sys2Proof.Machine

variable {α : Type}

/-! ### Reading after writing -/

@[simp] theorem SMap.get_nil (d : α) (k : Nat) : SMap.get [] d k = d := rfl

theorem SMap.get_erase_same (m : SMap α) (d : α) (k : Nat) : SMap.get (SMap.erase m k) d k = d := by
  induction m with
  | nil => rfl
  | cons e r ih =>
    obtain ⟨j, w⟩ := e
    by_cases h : j = k <;> simp [SMap.erase, SMap.get, h, ih]

theorem SMap.get_erase_ne (m : SMap α) (d : α) {k j : Nat} (h : j ≠ k) : SMap.get (SMap.erase m k) d j = SMap.get m d j := by
  induction m with
  | nil => rfl
  | cons e r ih =>
    obtain ⟨i, w⟩ := e
    by_cases hi : i = k
    · subst hi
      simp [SMap.erase, SMap.get, ih, Ne.symm h]
    · by_cases hj : i = j
      · subst hj
        simp [SMap.erase, SMap.get, hi]
      · simp [SMap.erase, SMap.get, hi, hj, ih]

theorem SMap.get_insert_ne (m : SMap α) (d v : α) {k j : Nat} (h : j ≠ k) :
    SMap.get (SMap.insert m k v) d j = SMap.get m d j := by
  induction m with
  | nil => simp [SMap.insert, SMap.get, Ne.symm h]
  | cons e r ih =>
    obtain ⟨i, w⟩ := e
    by_cases hi : k < i
    · simp [SMap.insert, SMap.get, hi, Ne.symm h]
    · by_cases hj : i = j
      · subst hj
        simp [SMap.insert, SMap.get, hi]
      · simp [SMap.insert, SMap.get, hi, hj, ih]

theorem SMap.get_insert_erase (m : SMap α) (d v : α) (k : Nat) : SMap.get (SMap.insert (SMap.erase m k) k v) d k = v := by
  induction m with
  | nil => simp [SMap.erase, SMap.insert, SMap.get]
  | cons e r ih =>
    obtain ⟨i, w⟩ := e
    by_cases hi : i = k
    · simp [SMap.erase, hi, ih]
    · by_cases hk : k < i <;> simp [SMap.erase, SMap.insert, SMap.get, hi, hk, ih]

variable [DecidableEq α]

@[simp] theorem SMap.get_set_same (m : SMap α) (d v : α) (k : Nat) : SMap.get (SMap.set m d k v) d k = v := by
  unfold SMap.set
  split
  · simp [*, SMap.get_erase_same]
  · exact SMap.get_insert_erase m d v k

theorem SMap.get_set_ne (m : SMap α) (d v : α) {k j : Nat} (h : j ≠ k) : SMap.get (SMap.set m d k v) d j = SMap.get m d j := by
  unfold SMap.set
  split
  · exact SMap.get_erase_ne m d h
  · rw [SMap.get_insert_ne _ _ _ h, SMap.get_erase_ne m d h]

theorem SMap.get_set (m : SMap α) (d v : α) (k j : Nat) :
    SMap.get (SMap.set m d k v) d j = if j = k then v else SMap.get m d j := by
  split
  · simp [*]
  · exact SMap.get_set_ne m d v (by assumption)

@[simp] theorem SMap.get_upd_same (m : SMap α) (d : α) (k : Nat) (f : α → α) :
    SMap.get (SMap.upd m d k f) d k = f (SMap.get m d k) := by simp [SMap.upd]

theorem SMap.get_upd_ne (m : SMap α) (d : α) {k j : Nat} (f : α → α) (h : j ≠ k) :
    SMap.get (SMap.upd m d k f) d j = SMap.get m d j := SMap.get_set_ne m d _ h

/-! ### The canonical form -/

theorem SMap.above_mono {a b : Nat} (h : a ≤ b) {m : SMap α} (hm : SMap.above b m = true) : SMap.above a m = true := by
  simp only [SMap.above, List.all_eq_true, decide_eq_true_eq] at *
  intro e he
  have := hm e he
  omega

theorem SMap.above_filter {a : Nat} (p : Nat × α → Bool) {m : SMap α} (hm : SMap.above a m = true) :
    SMap.above a (m.filter p) = true := by
  simp only [SMap.above, List.all_eq_true, decide_eq_true_eq, List.mem_filter] at *
  intro e he
  exact hm e he.1

theorem SMap.erase_eq_filter (m : SMap α) (k : Nat) : SMap.erase m k = m.filter fun e => decide (e.1 ≠ k) := by
  induction m with
  | nil => rfl
  | cons e r ih =>
    obtain ⟨j, w⟩ := e
    by_cases h : j = k <;> simp [SMap.erase, h, ih]

theorem SMap.wf_filter {d : α} (p : Nat × α → Bool) {m : SMap α} (hm : SMap.wf d m = true) : SMap.wf d (m.filter p) = true := by
  induction m with
  | nil => simp [SMap.wf]
  | cons e r ih =>
    obtain ⟨j, w⟩ := e
    simp only [SMap.wf, Bool.and_eq_true] at hm
    by_cases h : p (j, w)
    · simp only [List.filter_cons, h, if_true, SMap.wf, Bool.and_eq_true]
      exact ⟨⟨hm.1.1, SMap.above_filter p hm.1.2⟩, ih hm.2⟩
    · simp only [List.filter_cons, h]
      exact ih hm.2

theorem SMap.wf_erase {d : α} {m : SMap α} (k : Nat) (hm : SMap.wf d m = true) : SMap.wf d (SMap.erase m k) = true := by
  rw [SMap.erase_eq_filter]
  exact SMap.wf_filter _ hm

theorem SMap.above_erase {a : Nat} {m : SMap α} (k : Nat) (hm : SMap.above a m = true) : SMap.above a (SMap.erase m k) = true := by
  rw [SMap.erase_eq_filter]
  exact SMap.above_filter _ hm

theorem SMap.above_insert {a k : Nat} (v : α) (h : a < k) {m : SMap α} (hm : SMap.above a m = true) :
    SMap.above a (SMap.insert m k v) = true := by
  induction m with
  | nil => simp [SMap.insert, SMap.above, h]
  | cons e r ih =>
    obtain ⟨j, w⟩ := e
    simp only [SMap.above, List.all_cons, Bool.and_eq_true, decide_eq_true_eq] at hm
    by_cases hk : k < j
    · simp only [SMap.insert, hk, if_true, SMap.above, List.all_cons, Bool.and_eq_true, decide_eq_true_eq]
      exact ⟨h, hm.1, hm.2⟩
    · simp only [SMap.insert, hk, if_false, SMap.above, List.all_cons, Bool.and_eq_true, decide_eq_true_eq]
      exact ⟨hm.1, ih hm.2⟩

theorem SMap.wf_insert {d v : α} {k : Nat} (hv : v ≠ d) {m : SMap α} (hm : SMap.wf d m = true)
    (hk : ∀ e ∈ m, e.1 ≠ k) : SMap.wf d (SMap.insert m k v) = true := by
  induction m with
  | nil => simp [SMap.insert, SMap.wf, SMap.above, hv]
  | cons e r ih =>
    obtain ⟨j, w⟩ := e
    simp only [SMap.wf, Bool.and_eq_true] at hm
    have hj : j ≠ k := hk (j, w) (by simp)
    by_cases h : k < j
    · simp only [SMap.insert, h, if_true, SMap.wf, Bool.and_eq_true]
      refine ⟨⟨by simp [hv], ?_⟩, ⟨⟨hm.1.1, hm.1.2⟩, hm.2⟩⟩
      simp only [SMap.above, List.all_cons, Bool.and_eq_true, decide_eq_true_eq]
      exact ⟨h, SMap.above_mono (Nat.le_of_lt h) hm.1.2⟩
    · simp only [SMap.insert, h, if_false, SMap.wf, Bool.and_eq_true]
      exact ⟨⟨hm.1.1, SMap.above_insert v (by omega) hm.1.2⟩, ih hm.2 fun e he => hk e (by simp [he])⟩

theorem SMap.wf_set {d : α} {m : SMap α} (k : Nat) (v : α) (hm : SMap.wf d m = true) :
    SMap.wf d (SMap.set m d k v) = true := by
  unfold SMap.set
  split
  · exact SMap.wf_erase k hm
  · refine SMap.wf_insert (by assumption) (SMap.wf_erase k hm) ?_
    intro e he
    rw [SMap.erase_eq_filter, List.mem_filter] at he
    simpa using he.2

theorem SMap.wf_upd {d : α} {m : SMap α} (k : Nat) (f : α → α) (hm : SMap.wf d m = true) :
    SMap.wf d (SMap.upd m d k f) = true := SMap.wf_set k _ hm

theorem SMap.wf_tail {d : α} {e : Nat × α} {m : SMap α} (hm : SMap.wf d (e :: m) = true) : SMap.wf d m = true := by
  obtain ⟨j, w⟩ := e
  simp only [SMap.wf, Bool.and_eq_true] at hm
  exact hm.2

theorem SMap.get_of_above {d : α} {m : SMap α} {k : Nat} (h : SMap.above k m = true) : SMap.get m d k = d := by
  induction m with
  | nil => rfl
  | cons e r ih =>
    obtain ⟨j, w⟩ := e
    simp only [SMap.above, List.all_cons, Bool.and_eq_true, decide_eq_true_eq] at h
    have : j ≠ k := by omega
    simp [SMap.get, this, ih (by simpa [SMap.above] using h.2)]

/-- Maps in canonical form that read alike are the same data. -/
theorem SMap.ext_of_wf {d : α} : ∀ {m n : SMap α}, SMap.wf d m = true → SMap.wf d n = true →
    (∀ k, SMap.get m d k = SMap.get n d k) → m = n
  | [], [], _, _, _ => rfl
  | [], (j, w) :: r, _, hn, h => by
    simp only [SMap.wf, Bool.and_eq_true, decide_eq_true_eq] at hn
    exact absurd (h j).symm (by simpa [SMap.get] using hn.1.1)
  | (j, w) :: r, [], hm, _, h => by
    simp only [SMap.wf, Bool.and_eq_true, decide_eq_true_eq] at hm
    exact absurd (h j) (by simpa [SMap.get] using hm.1.1)
  | (j, w) :: r, (i, v) :: q, hm, hn, h => by
    have hm0 := hm
    have hn0 := hn
    simp only [SMap.wf, Bool.and_eq_true, decide_eq_true_eq] at hm hn
    have key : j = i := by
      rcases Nat.lt_trichotomy j i with hlt | heq | hgt
      · have h1 := h j
        have : SMap.get ((i, v) :: q) d j = d := by
          apply SMap.get_of_above
          simp only [SMap.above, List.all_cons, Bool.and_eq_true, decide_eq_true_eq]
          exact ⟨hlt, SMap.above_mono (Nat.le_of_lt hlt) hn.1.2⟩
        rw [this] at h1
        exact absurd h1 (by simpa [SMap.get] using hm.1.1)
      · exact heq
      · have h1 := h i
        have : SMap.get ((j, w) :: r) d i = d := by
          apply SMap.get_of_above
          simp only [SMap.above, List.all_cons, Bool.and_eq_true, decide_eq_true_eq]
          exact ⟨hgt, SMap.above_mono (Nat.le_of_lt hgt) hm.1.2⟩
        rw [this] at h1
        exact absurd h1.symm (by simpa [SMap.get] using hn.1.1)
    subst key
    have hv : w = v := by simpa [SMap.get] using h j
    subst hv
    have : r = q := SMap.ext_of_wf hm.2 hn.2 fun k => by
      by_cases hk : j = k
      · subst hk
        rw [SMap.get_of_above hm.1.2, SMap.get_of_above hn.1.2]
      · simpa [SMap.get, hk] using h k
    rw [this]

/-! ### Lists of numbers -/

theorem mem_upto {n a x : Nat} : x ∈ upto n a ↔ a ≤ x ∧ x < a + n := by
  induction n generalizing a with
  | zero => simp [upto]
  | succ n ih =>
    simp only [upto, List.mem_cons, ih]
    omega

@[simp] theorem length_upto (n a : Nat) : (upto n a).length = n := by
  induction n generalizing a with
  | zero => rfl
  | succ n ih => simp [upto, ih]

end Sys2Proof.Machine
end

