-- ==== Sys2Proof/Laws/State.lean ====
section
/-! SUPPORT. One lemma for each field and each update of the state, of a slot and of a sequencer, true by unfolding; and what
a slot, a core, a tenant, a job and a queue read as after an update. -/

namespace Sys2Proof.Machine

/-! ### `State.updSlot` -/

@[simp] theorem State.updSlot_time (s : State) (n : Nat) (f : Slot → Slot) : (s.updSlot n f).time = s.time := rfl
@[simp] theorem State.updSlot_pkg (s : State) (n : Nat) (f : Slot → Slot) : (s.updSlot n f).pkg = s.pkg := rfl
@[simp] theorem State.updSlot_mem (s : State) (n : Nat) (f : Slot → Slot) : (s.updSlot n f).mem = s.mem := rfl
@[simp] theorem State.updSlot_host (s : State) (n : Nat) (f : Slot → Slot) : (s.updSlot n f).host = s.host := rfl
@[simp] theorem State.updSlot_peer (s : State) (n : Nat) (f : Slot → Slot) : (s.updSlot n f).peer = s.peer := rfl
@[simp] theorem State.updSlot_cores (s : State) (n : Nat) (f : Slot → Slot) : (s.updSlot n f).cores = s.cores := rfl
@[simp] theorem State.updSlot_sync (s : State) (n : Nat) (f : Slot → Slot) : (s.updSlot n f).sync = s.sync := rfl
@[simp] theorem State.updSlot_tlb (s : State) (n : Nat) (f : Slot → Slot) : (s.updSlot n f).tlb = s.tlb := rfl
@[simp] theorem State.updSlot_pins (s : State) (n : Nat) (f : Slot → Slot) : (s.updSlot n f).pins = s.pins := rfl
@[simp] theorem State.updSlot_holds (s : State) (n : Nat) (f : Slot → Slot) : (s.updSlot n f).holds = s.holds := rfl
@[simp] theorem State.updSlot_boot (s : State) (n : Nat) (f : Slot → Slot) : (s.updSlot n f).boot = s.boot := rfl
@[simp] theorem State.updSlot_queues (s : State) (n : Nat) (f : Slot → Slot) : (s.updSlot n f).queues = s.queues := rfl
@[simp] theorem State.updSlot_jobs (s : State) (n : Nat) (f : Slot → Slot) : (s.updSlot n f).jobs = s.jobs := rfl
@[simp] theorem State.updSlot_tens (s : State) (n : Nat) (f : Slot → Slot) : (s.updSlot n f).tens = s.tens := rfl
@[simp] theorem State.updSlot_saved (s : State) (n : Nat) (f : Slot → Slot) : (s.updSlot n f).saved = s.saved := rfl
@[simp] theorem State.updSlot_xtags (s : State) (n : Nat) (f : Slot → Slot) : (s.updSlot n f).xtags = s.xtags := rfl
@[simp] theorem State.updSlot_arbTags (s : State) (n : Nat) (f : Slot → Slot) : (s.updSlot n f).arbTags = s.arbTags := rfl
@[simp] theorem State.updSlot_reds (s : State) (n : Nat) (f : Slot → Slot) : (s.updSlot n f).reds = s.reds := rfl
@[simp] theorem State.updSlot_fab (s : State) (n : Nat) (f : Slot → Slot) : (s.updSlot n f).fab = s.fab := rfl
@[simp] theorem State.updSlot_mlinks (s : State) (n : Nat) (f : Slot → Slot) : (s.updSlot n f).mlinks = s.mlinks := rfl
@[simp] theorem State.updSlot_lomnik (s : State) (n : Nat) (f : Slot → Slot) : (s.updSlot n f).lomnik = s.lomnik := rfl
@[simp] theorem State.updSlot_atomNum (s : State) (n : Nat) (f : Slot → Slot) : (s.updSlot n f).atomNum = s.atomNum := rfl
@[simp] theorem State.updSlot_ratoms (s : State) (n : Nat) (f : Slot → Slot) : (s.updSlot n f).ratoms = s.ratoms := rfl
@[simp] theorem State.updSlot_rhomes (s : State) (n : Nat) (f : Slot → Slot) : (s.updSlot n f).rhomes = s.rhomes := rfl
@[simp] theorem State.updSlot_buddies (s : State) (n : Nat) (f : Slot → Slot) : (s.updSlot n f).buddies = s.buddies := rfl
@[simp] theorem State.updSlot_buddyOf (s : State) (n : Nat) (f : Slot → Slot) : (s.updSlot n f).buddyOf = s.buddyOf := rfl
@[simp] theorem State.updSlot_meas (s : State) (n : Nat) (f : Slot → Slot) : (s.updSlot n f).meas = s.meas := rfl
@[simp] theorem State.updSlot_retired (s : State) (n : Nat) (f : Slot → Slot) : (s.updSlot n f).retired = s.retired := rfl
@[simp] theorem State.updSlot_quarantined (s : State) (n : Nat) (f : Slot → Slot) : (s.updSlot n f).quarantined = s.quarantined := rfl
@[simp] theorem State.updSlot_scorr (s : State) (n : Nat) (f : Slot → Slot) : (s.updSlot n f).scorr = s.scorr := rfl
@[simp] theorem State.updSlot_suncorr (s : State) (n : Nat) (f : Slot → Slot) : (s.updSlot n f).suncorr = s.suncorr := rfl
@[simp] theorem State.updSlot_slost (s : State) (n : Nat) (f : Slot → Slot) : (s.updSlot n f).slost = s.slost := rfl
@[simp] theorem State.updSlot_dieLog (s : State) (n : Nat) (f : Slot → Slot) : (s.updSlot n f).dieLog = s.dieLog := rfl
@[simp] theorem State.updSlot_nextTask (s : State) (n : Nat) (f : Slot → Slot) : (s.updSlot n f).nextTask = s.nextTask := rfl
@[simp] theorem State.updSlot_nextJob (s : State) (n : Nat) (f : Slot → Slot) : (s.updSlot n f).nextJob = s.nextJob := rfl
@[simp] theorem State.updSlot_nextOrder (s : State) (n : Nat) (f : Slot → Slot) : (s.updSlot n f).nextOrder = s.nextOrder := rfl
@[simp] theorem State.updSlot_out (s : State) (n : Nat) (f : Slot → Slot) : (s.updSlot n f).out = s.out := rfl
@[simp] theorem State.updSlot_agenda (s : State) (n : Nat) (f : Slot → Slot) : (s.updSlot n f).agenda = s.agenda := rfl
@[simp] theorem State.updSlot_turn (s : State) (n : Nat) (f : Slot → Slot) : (s.updSlot n f).turn = s.turn := rfl
@[simp] theorem State.updSlot_focus (s : State) (n : Nat) (f : Slot → Slot) : (s.updSlot n f).focus = s.focus := rfl
@[simp] theorem State.updSlot_cur (s : State) (n : Nat) (f : Slot → Slot) : (s.updSlot n f).cur = s.cur := rfl
@[simp] theorem State.updSlot_free (s : State) (n : Nat) (f : Slot → Slot) : (s.updSlot n f).free = s.free := rfl
@[simp] theorem State.updSlot_lastRead (s : State) (n : Nat) (f : Slot → Slot) : (s.updSlot n f).lastRead = s.lastRead := rfl

/-! ### `State.updCore` -/

@[simp] theorem State.updCore_time (s : State) (n : Nat) (f : Core → Core) : (s.updCore n f).time = s.time := rfl
@[simp] theorem State.updCore_pkg (s : State) (n : Nat) (f : Core → Core) : (s.updCore n f).pkg = s.pkg := rfl
@[simp] theorem State.updCore_mem (s : State) (n : Nat) (f : Core → Core) : (s.updCore n f).mem = s.mem := rfl
@[simp] theorem State.updCore_host (s : State) (n : Nat) (f : Core → Core) : (s.updCore n f).host = s.host := rfl
@[simp] theorem State.updCore_peer (s : State) (n : Nat) (f : Core → Core) : (s.updCore n f).peer = s.peer := rfl
@[simp] theorem State.updCore_slots (s : State) (n : Nat) (f : Core → Core) : (s.updCore n f).slots = s.slots := rfl
@[simp] theorem State.updCore_sync (s : State) (n : Nat) (f : Core → Core) : (s.updCore n f).sync = s.sync := rfl
@[simp] theorem State.updCore_tlb (s : State) (n : Nat) (f : Core → Core) : (s.updCore n f).tlb = s.tlb := rfl
@[simp] theorem State.updCore_pins (s : State) (n : Nat) (f : Core → Core) : (s.updCore n f).pins = s.pins := rfl
@[simp] theorem State.updCore_holds (s : State) (n : Nat) (f : Core → Core) : (s.updCore n f).holds = s.holds := rfl
@[simp] theorem State.updCore_boot (s : State) (n : Nat) (f : Core → Core) : (s.updCore n f).boot = s.boot := rfl
@[simp] theorem State.updCore_queues (s : State) (n : Nat) (f : Core → Core) : (s.updCore n f).queues = s.queues := rfl
@[simp] theorem State.updCore_jobs (s : State) (n : Nat) (f : Core → Core) : (s.updCore n f).jobs = s.jobs := rfl
@[simp] theorem State.updCore_tens (s : State) (n : Nat) (f : Core → Core) : (s.updCore n f).tens = s.tens := rfl
@[simp] theorem State.updCore_saved (s : State) (n : Nat) (f : Core → Core) : (s.updCore n f).saved = s.saved := rfl
@[simp] theorem State.updCore_xtags (s : State) (n : Nat) (f : Core → Core) : (s.updCore n f).xtags = s.xtags := rfl
@[simp] theorem State.updCore_arbTags (s : State) (n : Nat) (f : Core → Core) : (s.updCore n f).arbTags = s.arbTags := rfl
@[simp] theorem State.updCore_reds (s : State) (n : Nat) (f : Core → Core) : (s.updCore n f).reds = s.reds := rfl
@[simp] theorem State.updCore_fab (s : State) (n : Nat) (f : Core → Core) : (s.updCore n f).fab = s.fab := rfl
@[simp] theorem State.updCore_mlinks (s : State) (n : Nat) (f : Core → Core) : (s.updCore n f).mlinks = s.mlinks := rfl
@[simp] theorem State.updCore_lomnik (s : State) (n : Nat) (f : Core → Core) : (s.updCore n f).lomnik = s.lomnik := rfl
@[simp] theorem State.updCore_atomNum (s : State) (n : Nat) (f : Core → Core) : (s.updCore n f).atomNum = s.atomNum := rfl
@[simp] theorem State.updCore_ratoms (s : State) (n : Nat) (f : Core → Core) : (s.updCore n f).ratoms = s.ratoms := rfl
@[simp] theorem State.updCore_rhomes (s : State) (n : Nat) (f : Core → Core) : (s.updCore n f).rhomes = s.rhomes := rfl
@[simp] theorem State.updCore_buddies (s : State) (n : Nat) (f : Core → Core) : (s.updCore n f).buddies = s.buddies := rfl
@[simp] theorem State.updCore_buddyOf (s : State) (n : Nat) (f : Core → Core) : (s.updCore n f).buddyOf = s.buddyOf := rfl
@[simp] theorem State.updCore_meas (s : State) (n : Nat) (f : Core → Core) : (s.updCore n f).meas = s.meas := rfl
@[simp] theorem State.updCore_retired (s : State) (n : Nat) (f : Core → Core) : (s.updCore n f).retired = s.retired := rfl
@[simp] theorem State.updCore_quarantined (s : State) (n : Nat) (f : Core → Core) : (s.updCore n f).quarantined = s.quarantined := rfl
@[simp] theorem State.updCore_scorr (s : State) (n : Nat) (f : Core → Core) : (s.updCore n f).scorr = s.scorr := rfl
@[simp] theorem State.updCore_suncorr (s : State) (n : Nat) (f : Core → Core) : (s.updCore n f).suncorr = s.suncorr := rfl
@[simp] theorem State.updCore_slost (s : State) (n : Nat) (f : Core → Core) : (s.updCore n f).slost = s.slost := rfl
@[simp] theorem State.updCore_dieLog (s : State) (n : Nat) (f : Core → Core) : (s.updCore n f).dieLog = s.dieLog := rfl
@[simp] theorem State.updCore_nextTask (s : State) (n : Nat) (f : Core → Core) : (s.updCore n f).nextTask = s.nextTask := rfl
@[simp] theorem State.updCore_nextJob (s : State) (n : Nat) (f : Core → Core) : (s.updCore n f).nextJob = s.nextJob := rfl
@[simp] theorem State.updCore_nextOrder (s : State) (n : Nat) (f : Core → Core) : (s.updCore n f).nextOrder = s.nextOrder := rfl
@[simp] theorem State.updCore_out (s : State) (n : Nat) (f : Core → Core) : (s.updCore n f).out = s.out := rfl
@[simp] theorem State.updCore_agenda (s : State) (n : Nat) (f : Core → Core) : (s.updCore n f).agenda = s.agenda := rfl
@[simp] theorem State.updCore_turn (s : State) (n : Nat) (f : Core → Core) : (s.updCore n f).turn = s.turn := rfl
@[simp] theorem State.updCore_focus (s : State) (n : Nat) (f : Core → Core) : (s.updCore n f).focus = s.focus := rfl
@[simp] theorem State.updCore_cur (s : State) (n : Nat) (f : Core → Core) : (s.updCore n f).cur = s.cur := rfl
@[simp] theorem State.updCore_free (s : State) (n : Nat) (f : Core → Core) : (s.updCore n f).free = s.free := rfl
@[simp] theorem State.updCore_lastRead (s : State) (n : Nat) (f : Core → Core) : (s.updCore n f).lastRead = s.lastRead := rfl

/-! ### `State.updTen` -/

@[simp] theorem State.updTen_time (s : State) (n : Nat) (f : Ten → Ten) : (s.updTen n f).time = s.time := rfl
@[simp] theorem State.updTen_pkg (s : State) (n : Nat) (f : Ten → Ten) : (s.updTen n f).pkg = s.pkg := rfl
@[simp] theorem State.updTen_mem (s : State) (n : Nat) (f : Ten → Ten) : (s.updTen n f).mem = s.mem := rfl
@[simp] theorem State.updTen_host (s : State) (n : Nat) (f : Ten → Ten) : (s.updTen n f).host = s.host := rfl
@[simp] theorem State.updTen_peer (s : State) (n : Nat) (f : Ten → Ten) : (s.updTen n f).peer = s.peer := rfl
@[simp] theorem State.updTen_slots (s : State) (n : Nat) (f : Ten → Ten) : (s.updTen n f).slots = s.slots := rfl
@[simp] theorem State.updTen_cores (s : State) (n : Nat) (f : Ten → Ten) : (s.updTen n f).cores = s.cores := rfl
@[simp] theorem State.updTen_sync (s : State) (n : Nat) (f : Ten → Ten) : (s.updTen n f).sync = s.sync := rfl
@[simp] theorem State.updTen_tlb (s : State) (n : Nat) (f : Ten → Ten) : (s.updTen n f).tlb = s.tlb := rfl
@[simp] theorem State.updTen_pins (s : State) (n : Nat) (f : Ten → Ten) : (s.updTen n f).pins = s.pins := rfl
@[simp] theorem State.updTen_holds (s : State) (n : Nat) (f : Ten → Ten) : (s.updTen n f).holds = s.holds := rfl
@[simp] theorem State.updTen_boot (s : State) (n : Nat) (f : Ten → Ten) : (s.updTen n f).boot = s.boot := rfl
@[simp] theorem State.updTen_queues (s : State) (n : Nat) (f : Ten → Ten) : (s.updTen n f).queues = s.queues := rfl
@[simp] theorem State.updTen_jobs (s : State) (n : Nat) (f : Ten → Ten) : (s.updTen n f).jobs = s.jobs := rfl
@[simp] theorem State.updTen_saved (s : State) (n : Nat) (f : Ten → Ten) : (s.updTen n f).saved = s.saved := rfl
@[simp] theorem State.updTen_xtags (s : State) (n : Nat) (f : Ten → Ten) : (s.updTen n f).xtags = s.xtags := rfl
@[simp] theorem State.updTen_arbTags (s : State) (n : Nat) (f : Ten → Ten) : (s.updTen n f).arbTags = s.arbTags := rfl
@[simp] theorem State.updTen_reds (s : State) (n : Nat) (f : Ten → Ten) : (s.updTen n f).reds = s.reds := rfl
@[simp] theorem State.updTen_fab (s : State) (n : Nat) (f : Ten → Ten) : (s.updTen n f).fab = s.fab := rfl
@[simp] theorem State.updTen_mlinks (s : State) (n : Nat) (f : Ten → Ten) : (s.updTen n f).mlinks = s.mlinks := rfl
@[simp] theorem State.updTen_lomnik (s : State) (n : Nat) (f : Ten → Ten) : (s.updTen n f).lomnik = s.lomnik := rfl
@[simp] theorem State.updTen_atomNum (s : State) (n : Nat) (f : Ten → Ten) : (s.updTen n f).atomNum = s.atomNum := rfl
@[simp] theorem State.updTen_ratoms (s : State) (n : Nat) (f : Ten → Ten) : (s.updTen n f).ratoms = s.ratoms := rfl
@[simp] theorem State.updTen_rhomes (s : State) (n : Nat) (f : Ten → Ten) : (s.updTen n f).rhomes = s.rhomes := rfl
@[simp] theorem State.updTen_buddies (s : State) (n : Nat) (f : Ten → Ten) : (s.updTen n f).buddies = s.buddies := rfl
@[simp] theorem State.updTen_buddyOf (s : State) (n : Nat) (f : Ten → Ten) : (s.updTen n f).buddyOf = s.buddyOf := rfl
@[simp] theorem State.updTen_meas (s : State) (n : Nat) (f : Ten → Ten) : (s.updTen n f).meas = s.meas := rfl
@[simp] theorem State.updTen_retired (s : State) (n : Nat) (f : Ten → Ten) : (s.updTen n f).retired = s.retired := rfl
@[simp] theorem State.updTen_quarantined (s : State) (n : Nat) (f : Ten → Ten) : (s.updTen n f).quarantined = s.quarantined := rfl
@[simp] theorem State.updTen_scorr (s : State) (n : Nat) (f : Ten → Ten) : (s.updTen n f).scorr = s.scorr := rfl
@[simp] theorem State.updTen_suncorr (s : State) (n : Nat) (f : Ten → Ten) : (s.updTen n f).suncorr = s.suncorr := rfl
@[simp] theorem State.updTen_slost (s : State) (n : Nat) (f : Ten → Ten) : (s.updTen n f).slost = s.slost := rfl
@[simp] theorem State.updTen_dieLog (s : State) (n : Nat) (f : Ten → Ten) : (s.updTen n f).dieLog = s.dieLog := rfl
@[simp] theorem State.updTen_nextTask (s : State) (n : Nat) (f : Ten → Ten) : (s.updTen n f).nextTask = s.nextTask := rfl
@[simp] theorem State.updTen_nextJob (s : State) (n : Nat) (f : Ten → Ten) : (s.updTen n f).nextJob = s.nextJob := rfl
@[simp] theorem State.updTen_nextOrder (s : State) (n : Nat) (f : Ten → Ten) : (s.updTen n f).nextOrder = s.nextOrder := rfl
@[simp] theorem State.updTen_out (s : State) (n : Nat) (f : Ten → Ten) : (s.updTen n f).out = s.out := rfl
@[simp] theorem State.updTen_agenda (s : State) (n : Nat) (f : Ten → Ten) : (s.updTen n f).agenda = s.agenda := rfl
@[simp] theorem State.updTen_turn (s : State) (n : Nat) (f : Ten → Ten) : (s.updTen n f).turn = s.turn := rfl
@[simp] theorem State.updTen_focus (s : State) (n : Nat) (f : Ten → Ten) : (s.updTen n f).focus = s.focus := rfl
@[simp] theorem State.updTen_cur (s : State) (n : Nat) (f : Ten → Ten) : (s.updTen n f).cur = s.cur := rfl
@[simp] theorem State.updTen_free (s : State) (n : Nat) (f : Ten → Ten) : (s.updTen n f).free = s.free := rfl
@[simp] theorem State.updTen_lastRead (s : State) (n : Nat) (f : Ten → Ten) : (s.updTen n f).lastRead = s.lastRead := rfl

/-! ### `State.updJob` -/

@[simp] theorem State.updJob_time (s : State) (n : Nat) (f : Job → Job) : (s.updJob n f).time = s.time := rfl
@[simp] theorem State.updJob_pkg (s : State) (n : Nat) (f : Job → Job) : (s.updJob n f).pkg = s.pkg := rfl
@[simp] theorem State.updJob_mem (s : State) (n : Nat) (f : Job → Job) : (s.updJob n f).mem = s.mem := rfl
@[simp] theorem State.updJob_host (s : State) (n : Nat) (f : Job → Job) : (s.updJob n f).host = s.host := rfl
@[simp] theorem State.updJob_peer (s : State) (n : Nat) (f : Job → Job) : (s.updJob n f).peer = s.peer := rfl
@[simp] theorem State.updJob_slots (s : State) (n : Nat) (f : Job → Job) : (s.updJob n f).slots = s.slots := rfl
@[simp] theorem State.updJob_cores (s : State) (n : Nat) (f : Job → Job) : (s.updJob n f).cores = s.cores := rfl
@[simp] theorem State.updJob_sync (s : State) (n : Nat) (f : Job → Job) : (s.updJob n f).sync = s.sync := rfl
@[simp] theorem State.updJob_tlb (s : State) (n : Nat) (f : Job → Job) : (s.updJob n f).tlb = s.tlb := rfl
@[simp] theorem State.updJob_pins (s : State) (n : Nat) (f : Job → Job) : (s.updJob n f).pins = s.pins := rfl
@[simp] theorem State.updJob_holds (s : State) (n : Nat) (f : Job → Job) : (s.updJob n f).holds = s.holds := rfl
@[simp] theorem State.updJob_boot (s : State) (n : Nat) (f : Job → Job) : (s.updJob n f).boot = s.boot := rfl
@[simp] theorem State.updJob_queues (s : State) (n : Nat) (f : Job → Job) : (s.updJob n f).queues = s.queues := rfl
@[simp] theorem State.updJob_tens (s : State) (n : Nat) (f : Job → Job) : (s.updJob n f).tens = s.tens := rfl
@[simp] theorem State.updJob_saved (s : State) (n : Nat) (f : Job → Job) : (s.updJob n f).saved = s.saved := rfl
@[simp] theorem State.updJob_xtags (s : State) (n : Nat) (f : Job → Job) : (s.updJob n f).xtags = s.xtags := rfl
@[simp] theorem State.updJob_arbTags (s : State) (n : Nat) (f : Job → Job) : (s.updJob n f).arbTags = s.arbTags := rfl
@[simp] theorem State.updJob_reds (s : State) (n : Nat) (f : Job → Job) : (s.updJob n f).reds = s.reds := rfl
@[simp] theorem State.updJob_fab (s : State) (n : Nat) (f : Job → Job) : (s.updJob n f).fab = s.fab := rfl
@[simp] theorem State.updJob_mlinks (s : State) (n : Nat) (f : Job → Job) : (s.updJob n f).mlinks = s.mlinks := rfl
@[simp] theorem State.updJob_lomnik (s : State) (n : Nat) (f : Job → Job) : (s.updJob n f).lomnik = s.lomnik := rfl
@[simp] theorem State.updJob_atomNum (s : State) (n : Nat) (f : Job → Job) : (s.updJob n f).atomNum = s.atomNum := rfl
@[simp] theorem State.updJob_ratoms (s : State) (n : Nat) (f : Job → Job) : (s.updJob n f).ratoms = s.ratoms := rfl
@[simp] theorem State.updJob_rhomes (s : State) (n : Nat) (f : Job → Job) : (s.updJob n f).rhomes = s.rhomes := rfl
@[simp] theorem State.updJob_buddies (s : State) (n : Nat) (f : Job → Job) : (s.updJob n f).buddies = s.buddies := rfl
@[simp] theorem State.updJob_buddyOf (s : State) (n : Nat) (f : Job → Job) : (s.updJob n f).buddyOf = s.buddyOf := rfl
@[simp] theorem State.updJob_meas (s : State) (n : Nat) (f : Job → Job) : (s.updJob n f).meas = s.meas := rfl
@[simp] theorem State.updJob_retired (s : State) (n : Nat) (f : Job → Job) : (s.updJob n f).retired = s.retired := rfl
@[simp] theorem State.updJob_quarantined (s : State) (n : Nat) (f : Job → Job) : (s.updJob n f).quarantined = s.quarantined := rfl
@[simp] theorem State.updJob_scorr (s : State) (n : Nat) (f : Job → Job) : (s.updJob n f).scorr = s.scorr := rfl
@[simp] theorem State.updJob_suncorr (s : State) (n : Nat) (f : Job → Job) : (s.updJob n f).suncorr = s.suncorr := rfl
@[simp] theorem State.updJob_slost (s : State) (n : Nat) (f : Job → Job) : (s.updJob n f).slost = s.slost := rfl
@[simp] theorem State.updJob_dieLog (s : State) (n : Nat) (f : Job → Job) : (s.updJob n f).dieLog = s.dieLog := rfl
@[simp] theorem State.updJob_nextTask (s : State) (n : Nat) (f : Job → Job) : (s.updJob n f).nextTask = s.nextTask := rfl
@[simp] theorem State.updJob_nextJob (s : State) (n : Nat) (f : Job → Job) : (s.updJob n f).nextJob = s.nextJob := rfl
@[simp] theorem State.updJob_nextOrder (s : State) (n : Nat) (f : Job → Job) : (s.updJob n f).nextOrder = s.nextOrder := rfl
@[simp] theorem State.updJob_out (s : State) (n : Nat) (f : Job → Job) : (s.updJob n f).out = s.out := rfl
@[simp] theorem State.updJob_agenda (s : State) (n : Nat) (f : Job → Job) : (s.updJob n f).agenda = s.agenda := rfl
@[simp] theorem State.updJob_turn (s : State) (n : Nat) (f : Job → Job) : (s.updJob n f).turn = s.turn := rfl
@[simp] theorem State.updJob_focus (s : State) (n : Nat) (f : Job → Job) : (s.updJob n f).focus = s.focus := rfl
@[simp] theorem State.updJob_cur (s : State) (n : Nat) (f : Job → Job) : (s.updJob n f).cur = s.cur := rfl
@[simp] theorem State.updJob_free (s : State) (n : Nat) (f : Job → Job) : (s.updJob n f).free = s.free := rfl
@[simp] theorem State.updJob_lastRead (s : State) (n : Nat) (f : Job → Job) : (s.updJob n f).lastRead = s.lastRead := rfl

/-! ### `State.updQueue` -/

@[simp] theorem State.updQueue_time (s : State) (n : Nat) (f : JQ → JQ) : (s.updQueue n f).time = s.time := rfl
@[simp] theorem State.updQueue_pkg (s : State) (n : Nat) (f : JQ → JQ) : (s.updQueue n f).pkg = s.pkg := rfl
@[simp] theorem State.updQueue_mem (s : State) (n : Nat) (f : JQ → JQ) : (s.updQueue n f).mem = s.mem := rfl
@[simp] theorem State.updQueue_host (s : State) (n : Nat) (f : JQ → JQ) : (s.updQueue n f).host = s.host := rfl
@[simp] theorem State.updQueue_peer (s : State) (n : Nat) (f : JQ → JQ) : (s.updQueue n f).peer = s.peer := rfl
@[simp] theorem State.updQueue_slots (s : State) (n : Nat) (f : JQ → JQ) : (s.updQueue n f).slots = s.slots := rfl
@[simp] theorem State.updQueue_cores (s : State) (n : Nat) (f : JQ → JQ) : (s.updQueue n f).cores = s.cores := rfl
@[simp] theorem State.updQueue_sync (s : State) (n : Nat) (f : JQ → JQ) : (s.updQueue n f).sync = s.sync := rfl
@[simp] theorem State.updQueue_tlb (s : State) (n : Nat) (f : JQ → JQ) : (s.updQueue n f).tlb = s.tlb := rfl
@[simp] theorem State.updQueue_pins (s : State) (n : Nat) (f : JQ → JQ) : (s.updQueue n f).pins = s.pins := rfl
@[simp] theorem State.updQueue_holds (s : State) (n : Nat) (f : JQ → JQ) : (s.updQueue n f).holds = s.holds := rfl
@[simp] theorem State.updQueue_boot (s : State) (n : Nat) (f : JQ → JQ) : (s.updQueue n f).boot = s.boot := rfl
@[simp] theorem State.updQueue_jobs (s : State) (n : Nat) (f : JQ → JQ) : (s.updQueue n f).jobs = s.jobs := rfl
@[simp] theorem State.updQueue_tens (s : State) (n : Nat) (f : JQ → JQ) : (s.updQueue n f).tens = s.tens := rfl
@[simp] theorem State.updQueue_saved (s : State) (n : Nat) (f : JQ → JQ) : (s.updQueue n f).saved = s.saved := rfl
@[simp] theorem State.updQueue_xtags (s : State) (n : Nat) (f : JQ → JQ) : (s.updQueue n f).xtags = s.xtags := rfl
@[simp] theorem State.updQueue_arbTags (s : State) (n : Nat) (f : JQ → JQ) : (s.updQueue n f).arbTags = s.arbTags := rfl
@[simp] theorem State.updQueue_reds (s : State) (n : Nat) (f : JQ → JQ) : (s.updQueue n f).reds = s.reds := rfl
@[simp] theorem State.updQueue_fab (s : State) (n : Nat) (f : JQ → JQ) : (s.updQueue n f).fab = s.fab := rfl
@[simp] theorem State.updQueue_mlinks (s : State) (n : Nat) (f : JQ → JQ) : (s.updQueue n f).mlinks = s.mlinks := rfl
@[simp] theorem State.updQueue_lomnik (s : State) (n : Nat) (f : JQ → JQ) : (s.updQueue n f).lomnik = s.lomnik := rfl
@[simp] theorem State.updQueue_atomNum (s : State) (n : Nat) (f : JQ → JQ) : (s.updQueue n f).atomNum = s.atomNum := rfl
@[simp] theorem State.updQueue_ratoms (s : State) (n : Nat) (f : JQ → JQ) : (s.updQueue n f).ratoms = s.ratoms := rfl
@[simp] theorem State.updQueue_rhomes (s : State) (n : Nat) (f : JQ → JQ) : (s.updQueue n f).rhomes = s.rhomes := rfl
@[simp] theorem State.updQueue_buddies (s : State) (n : Nat) (f : JQ → JQ) : (s.updQueue n f).buddies = s.buddies := rfl
@[simp] theorem State.updQueue_buddyOf (s : State) (n : Nat) (f : JQ → JQ) : (s.updQueue n f).buddyOf = s.buddyOf := rfl
@[simp] theorem State.updQueue_meas (s : State) (n : Nat) (f : JQ → JQ) : (s.updQueue n f).meas = s.meas := rfl
@[simp] theorem State.updQueue_retired (s : State) (n : Nat) (f : JQ → JQ) : (s.updQueue n f).retired = s.retired := rfl
@[simp] theorem State.updQueue_quarantined (s : State) (n : Nat) (f : JQ → JQ) : (s.updQueue n f).quarantined = s.quarantined := rfl
@[simp] theorem State.updQueue_scorr (s : State) (n : Nat) (f : JQ → JQ) : (s.updQueue n f).scorr = s.scorr := rfl
@[simp] theorem State.updQueue_suncorr (s : State) (n : Nat) (f : JQ → JQ) : (s.updQueue n f).suncorr = s.suncorr := rfl
@[simp] theorem State.updQueue_slost (s : State) (n : Nat) (f : JQ → JQ) : (s.updQueue n f).slost = s.slost := rfl
@[simp] theorem State.updQueue_dieLog (s : State) (n : Nat) (f : JQ → JQ) : (s.updQueue n f).dieLog = s.dieLog := rfl
@[simp] theorem State.updQueue_nextTask (s : State) (n : Nat) (f : JQ → JQ) : (s.updQueue n f).nextTask = s.nextTask := rfl
@[simp] theorem State.updQueue_nextJob (s : State) (n : Nat) (f : JQ → JQ) : (s.updQueue n f).nextJob = s.nextJob := rfl
@[simp] theorem State.updQueue_nextOrder (s : State) (n : Nat) (f : JQ → JQ) : (s.updQueue n f).nextOrder = s.nextOrder := rfl
@[simp] theorem State.updQueue_out (s : State) (n : Nat) (f : JQ → JQ) : (s.updQueue n f).out = s.out := rfl
@[simp] theorem State.updQueue_agenda (s : State) (n : Nat) (f : JQ → JQ) : (s.updQueue n f).agenda = s.agenda := rfl
@[simp] theorem State.updQueue_turn (s : State) (n : Nat) (f : JQ → JQ) : (s.updQueue n f).turn = s.turn := rfl
@[simp] theorem State.updQueue_focus (s : State) (n : Nat) (f : JQ → JQ) : (s.updQueue n f).focus = s.focus := rfl
@[simp] theorem State.updQueue_cur (s : State) (n : Nat) (f : JQ → JQ) : (s.updQueue n f).cur = s.cur := rfl
@[simp] theorem State.updQueue_free (s : State) (n : Nat) (f : JQ → JQ) : (s.updQueue n f).free = s.free := rfl
@[simp] theorem State.updQueue_lastRead (s : State) (n : Nat) (f : JQ → JQ) : (s.updQueue n f).lastRead = s.lastRead := rfl

/-! ### `State.updMe` -/

@[simp] theorem State.updMe_time (s : State) (f : Slot → Slot) : (s.updMe f).time = s.time := rfl
@[simp] theorem State.updMe_pkg (s : State) (f : Slot → Slot) : (s.updMe f).pkg = s.pkg := rfl
@[simp] theorem State.updMe_mem (s : State) (f : Slot → Slot) : (s.updMe f).mem = s.mem := rfl
@[simp] theorem State.updMe_host (s : State) (f : Slot → Slot) : (s.updMe f).host = s.host := rfl
@[simp] theorem State.updMe_peer (s : State) (f : Slot → Slot) : (s.updMe f).peer = s.peer := rfl
@[simp] theorem State.updMe_cores (s : State) (f : Slot → Slot) : (s.updMe f).cores = s.cores := rfl
@[simp] theorem State.updMe_sync (s : State) (f : Slot → Slot) : (s.updMe f).sync = s.sync := rfl
@[simp] theorem State.updMe_tlb (s : State) (f : Slot → Slot) : (s.updMe f).tlb = s.tlb := rfl
@[simp] theorem State.updMe_pins (s : State) (f : Slot → Slot) : (s.updMe f).pins = s.pins := rfl
@[simp] theorem State.updMe_holds (s : State) (f : Slot → Slot) : (s.updMe f).holds = s.holds := rfl
@[simp] theorem State.updMe_boot (s : State) (f : Slot → Slot) : (s.updMe f).boot = s.boot := rfl
@[simp] theorem State.updMe_queues (s : State) (f : Slot → Slot) : (s.updMe f).queues = s.queues := rfl
@[simp] theorem State.updMe_jobs (s : State) (f : Slot → Slot) : (s.updMe f).jobs = s.jobs := rfl
@[simp] theorem State.updMe_tens (s : State) (f : Slot → Slot) : (s.updMe f).tens = s.tens := rfl
@[simp] theorem State.updMe_saved (s : State) (f : Slot → Slot) : (s.updMe f).saved = s.saved := rfl
@[simp] theorem State.updMe_xtags (s : State) (f : Slot → Slot) : (s.updMe f).xtags = s.xtags := rfl
@[simp] theorem State.updMe_arbTags (s : State) (f : Slot → Slot) : (s.updMe f).arbTags = s.arbTags := rfl
@[simp] theorem State.updMe_reds (s : State) (f : Slot → Slot) : (s.updMe f).reds = s.reds := rfl
@[simp] theorem State.updMe_fab (s : State) (f : Slot → Slot) : (s.updMe f).fab = s.fab := rfl
@[simp] theorem State.updMe_mlinks (s : State) (f : Slot → Slot) : (s.updMe f).mlinks = s.mlinks := rfl
@[simp] theorem State.updMe_lomnik (s : State) (f : Slot → Slot) : (s.updMe f).lomnik = s.lomnik := rfl
@[simp] theorem State.updMe_atomNum (s : State) (f : Slot → Slot) : (s.updMe f).atomNum = s.atomNum := rfl
@[simp] theorem State.updMe_ratoms (s : State) (f : Slot → Slot) : (s.updMe f).ratoms = s.ratoms := rfl
@[simp] theorem State.updMe_rhomes (s : State) (f : Slot → Slot) : (s.updMe f).rhomes = s.rhomes := rfl
@[simp] theorem State.updMe_buddies (s : State) (f : Slot → Slot) : (s.updMe f).buddies = s.buddies := rfl
@[simp] theorem State.updMe_buddyOf (s : State) (f : Slot → Slot) : (s.updMe f).buddyOf = s.buddyOf := rfl
@[simp] theorem State.updMe_meas (s : State) (f : Slot → Slot) : (s.updMe f).meas = s.meas := rfl
@[simp] theorem State.updMe_retired (s : State) (f : Slot → Slot) : (s.updMe f).retired = s.retired := rfl
@[simp] theorem State.updMe_quarantined (s : State) (f : Slot → Slot) : (s.updMe f).quarantined = s.quarantined := rfl
@[simp] theorem State.updMe_scorr (s : State) (f : Slot → Slot) : (s.updMe f).scorr = s.scorr := rfl
@[simp] theorem State.updMe_suncorr (s : State) (f : Slot → Slot) : (s.updMe f).suncorr = s.suncorr := rfl
@[simp] theorem State.updMe_slost (s : State) (f : Slot → Slot) : (s.updMe f).slost = s.slost := rfl
@[simp] theorem State.updMe_dieLog (s : State) (f : Slot → Slot) : (s.updMe f).dieLog = s.dieLog := rfl
@[simp] theorem State.updMe_nextTask (s : State) (f : Slot → Slot) : (s.updMe f).nextTask = s.nextTask := rfl
@[simp] theorem State.updMe_nextJob (s : State) (f : Slot → Slot) : (s.updMe f).nextJob = s.nextJob := rfl
@[simp] theorem State.updMe_nextOrder (s : State) (f : Slot → Slot) : (s.updMe f).nextOrder = s.nextOrder := rfl
@[simp] theorem State.updMe_out (s : State) (f : Slot → Slot) : (s.updMe f).out = s.out := rfl
@[simp] theorem State.updMe_agenda (s : State) (f : Slot → Slot) : (s.updMe f).agenda = s.agenda := rfl
@[simp] theorem State.updMe_turn (s : State) (f : Slot → Slot) : (s.updMe f).turn = s.turn := rfl
@[simp] theorem State.updMe_focus (s : State) (f : Slot → Slot) : (s.updMe f).focus = s.focus := rfl
@[simp] theorem State.updMe_cur (s : State) (f : Slot → Slot) : (s.updMe f).cur = s.cur := rfl
@[simp] theorem State.updMe_free (s : State) (f : Slot → Slot) : (s.updMe f).free = s.free := rfl
@[simp] theorem State.updMe_lastRead (s : State) (f : Slot → Slot) : (s.updMe f).lastRead = s.lastRead := rfl

/-! ### `State.updSeq` -/

@[simp] theorem State.updSeq_time (s : State) (n : Nat) (st : Stream) (f : Seq → Seq) : (s.updSeq n st f).time = s.time := rfl
@[simp] theorem State.updSeq_pkg (s : State) (n : Nat) (st : Stream) (f : Seq → Seq) : (s.updSeq n st f).pkg = s.pkg := rfl
@[simp] theorem State.updSeq_mem (s : State) (n : Nat) (st : Stream) (f : Seq → Seq) : (s.updSeq n st f).mem = s.mem := rfl
@[simp] theorem State.updSeq_host (s : State) (n : Nat) (st : Stream) (f : Seq → Seq) : (s.updSeq n st f).host = s.host := rfl
@[simp] theorem State.updSeq_peer (s : State) (n : Nat) (st : Stream) (f : Seq → Seq) : (s.updSeq n st f).peer = s.peer := rfl
@[simp] theorem State.updSeq_cores (s : State) (n : Nat) (st : Stream) (f : Seq → Seq) : (s.updSeq n st f).cores = s.cores := rfl
@[simp] theorem State.updSeq_sync (s : State) (n : Nat) (st : Stream) (f : Seq → Seq) : (s.updSeq n st f).sync = s.sync := rfl
@[simp] theorem State.updSeq_tlb (s : State) (n : Nat) (st : Stream) (f : Seq → Seq) : (s.updSeq n st f).tlb = s.tlb := rfl
@[simp] theorem State.updSeq_pins (s : State) (n : Nat) (st : Stream) (f : Seq → Seq) : (s.updSeq n st f).pins = s.pins := rfl
@[simp] theorem State.updSeq_holds (s : State) (n : Nat) (st : Stream) (f : Seq → Seq) : (s.updSeq n st f).holds = s.holds := rfl
@[simp] theorem State.updSeq_boot (s : State) (n : Nat) (st : Stream) (f : Seq → Seq) : (s.updSeq n st f).boot = s.boot := rfl
@[simp] theorem State.updSeq_queues (s : State) (n : Nat) (st : Stream) (f : Seq → Seq) : (s.updSeq n st f).queues = s.queues := rfl
@[simp] theorem State.updSeq_jobs (s : State) (n : Nat) (st : Stream) (f : Seq → Seq) : (s.updSeq n st f).jobs = s.jobs := rfl
@[simp] theorem State.updSeq_tens (s : State) (n : Nat) (st : Stream) (f : Seq → Seq) : (s.updSeq n st f).tens = s.tens := rfl
@[simp] theorem State.updSeq_saved (s : State) (n : Nat) (st : Stream) (f : Seq → Seq) : (s.updSeq n st f).saved = s.saved := rfl
@[simp] theorem State.updSeq_xtags (s : State) (n : Nat) (st : Stream) (f : Seq → Seq) : (s.updSeq n st f).xtags = s.xtags := rfl
@[simp] theorem State.updSeq_arbTags (s : State) (n : Nat) (st : Stream) (f : Seq → Seq) : (s.updSeq n st f).arbTags = s.arbTags := rfl
@[simp] theorem State.updSeq_reds (s : State) (n : Nat) (st : Stream) (f : Seq → Seq) : (s.updSeq n st f).reds = s.reds := rfl
@[simp] theorem State.updSeq_fab (s : State) (n : Nat) (st : Stream) (f : Seq → Seq) : (s.updSeq n st f).fab = s.fab := rfl
@[simp] theorem State.updSeq_mlinks (s : State) (n : Nat) (st : Stream) (f : Seq → Seq) : (s.updSeq n st f).mlinks = s.mlinks := rfl
@[simp] theorem State.updSeq_lomnik (s : State) (n : Nat) (st : Stream) (f : Seq → Seq) : (s.updSeq n st f).lomnik = s.lomnik := rfl
@[simp] theorem State.updSeq_atomNum (s : State) (n : Nat) (st : Stream) (f : Seq → Seq) : (s.updSeq n st f).atomNum = s.atomNum := rfl
@[simp] theorem State.updSeq_ratoms (s : State) (n : Nat) (st : Stream) (f : Seq → Seq) : (s.updSeq n st f).ratoms = s.ratoms := rfl
@[simp] theorem State.updSeq_rhomes (s : State) (n : Nat) (st : Stream) (f : Seq → Seq) : (s.updSeq n st f).rhomes = s.rhomes := rfl
@[simp] theorem State.updSeq_buddies (s : State) (n : Nat) (st : Stream) (f : Seq → Seq) : (s.updSeq n st f).buddies = s.buddies := rfl
@[simp] theorem State.updSeq_buddyOf (s : State) (n : Nat) (st : Stream) (f : Seq → Seq) : (s.updSeq n st f).buddyOf = s.buddyOf := rfl
@[simp] theorem State.updSeq_meas (s : State) (n : Nat) (st : Stream) (f : Seq → Seq) : (s.updSeq n st f).meas = s.meas := rfl
@[simp] theorem State.updSeq_retired (s : State) (n : Nat) (st : Stream) (f : Seq → Seq) : (s.updSeq n st f).retired = s.retired := rfl
@[simp] theorem State.updSeq_quarantined (s : State) (n : Nat) (st : Stream) (f : Seq → Seq) : (s.updSeq n st f).quarantined = s.quarantined := rfl
@[simp] theorem State.updSeq_scorr (s : State) (n : Nat) (st : Stream) (f : Seq → Seq) : (s.updSeq n st f).scorr = s.scorr := rfl
@[simp] theorem State.updSeq_suncorr (s : State) (n : Nat) (st : Stream) (f : Seq → Seq) : (s.updSeq n st f).suncorr = s.suncorr := rfl
@[simp] theorem State.updSeq_slost (s : State) (n : Nat) (st : Stream) (f : Seq → Seq) : (s.updSeq n st f).slost = s.slost := rfl
@[simp] theorem State.updSeq_dieLog (s : State) (n : Nat) (st : Stream) (f : Seq → Seq) : (s.updSeq n st f).dieLog = s.dieLog := rfl
@[simp] theorem State.updSeq_nextTask (s : State) (n : Nat) (st : Stream) (f : Seq → Seq) : (s.updSeq n st f).nextTask = s.nextTask := rfl
@[simp] theorem State.updSeq_nextJob (s : State) (n : Nat) (st : Stream) (f : Seq → Seq) : (s.updSeq n st f).nextJob = s.nextJob := rfl
@[simp] theorem State.updSeq_nextOrder (s : State) (n : Nat) (st : Stream) (f : Seq → Seq) : (s.updSeq n st f).nextOrder = s.nextOrder := rfl
@[simp] theorem State.updSeq_out (s : State) (n : Nat) (st : Stream) (f : Seq → Seq) : (s.updSeq n st f).out = s.out := rfl
@[simp] theorem State.updSeq_agenda (s : State) (n : Nat) (st : Stream) (f : Seq → Seq) : (s.updSeq n st f).agenda = s.agenda := rfl
@[simp] theorem State.updSeq_turn (s : State) (n : Nat) (st : Stream) (f : Seq → Seq) : (s.updSeq n st f).turn = s.turn := rfl
@[simp] theorem State.updSeq_focus (s : State) (n : Nat) (st : Stream) (f : Seq → Seq) : (s.updSeq n st f).focus = s.focus := rfl
@[simp] theorem State.updSeq_cur (s : State) (n : Nat) (st : Stream) (f : Seq → Seq) : (s.updSeq n st f).cur = s.cur := rfl
@[simp] theorem State.updSeq_free (s : State) (n : Nat) (st : Stream) (f : Seq → Seq) : (s.updSeq n st f).free = s.free := rfl
@[simp] theorem State.updSeq_lastRead (s : State) (n : Nat) (st : Stream) (f : Seq → Seq) : (s.updSeq n st f).lastRead = s.lastRead := rfl

/-! ### `State.wg` -/

@[simp] theorem State.wg_time (s : State) (r : Reg) (v : Word) : (s.wg r v).time = s.time := rfl
@[simp] theorem State.wg_pkg (s : State) (r : Reg) (v : Word) : (s.wg r v).pkg = s.pkg := rfl
@[simp] theorem State.wg_mem (s : State) (r : Reg) (v : Word) : (s.wg r v).mem = s.mem := rfl
@[simp] theorem State.wg_host (s : State) (r : Reg) (v : Word) : (s.wg r v).host = s.host := rfl
@[simp] theorem State.wg_peer (s : State) (r : Reg) (v : Word) : (s.wg r v).peer = s.peer := rfl
@[simp] theorem State.wg_cores (s : State) (r : Reg) (v : Word) : (s.wg r v).cores = s.cores := rfl
@[simp] theorem State.wg_sync (s : State) (r : Reg) (v : Word) : (s.wg r v).sync = s.sync := rfl
@[simp] theorem State.wg_tlb (s : State) (r : Reg) (v : Word) : (s.wg r v).tlb = s.tlb := rfl
@[simp] theorem State.wg_pins (s : State) (r : Reg) (v : Word) : (s.wg r v).pins = s.pins := rfl
@[simp] theorem State.wg_holds (s : State) (r : Reg) (v : Word) : (s.wg r v).holds = s.holds := rfl
@[simp] theorem State.wg_boot (s : State) (r : Reg) (v : Word) : (s.wg r v).boot = s.boot := rfl
@[simp] theorem State.wg_queues (s : State) (r : Reg) (v : Word) : (s.wg r v).queues = s.queues := rfl
@[simp] theorem State.wg_jobs (s : State) (r : Reg) (v : Word) : (s.wg r v).jobs = s.jobs := rfl
@[simp] theorem State.wg_tens (s : State) (r : Reg) (v : Word) : (s.wg r v).tens = s.tens := rfl
@[simp] theorem State.wg_saved (s : State) (r : Reg) (v : Word) : (s.wg r v).saved = s.saved := rfl
@[simp] theorem State.wg_xtags (s : State) (r : Reg) (v : Word) : (s.wg r v).xtags = s.xtags := rfl
@[simp] theorem State.wg_arbTags (s : State) (r : Reg) (v : Word) : (s.wg r v).arbTags = s.arbTags := rfl
@[simp] theorem State.wg_reds (s : State) (r : Reg) (v : Word) : (s.wg r v).reds = s.reds := rfl
@[simp] theorem State.wg_fab (s : State) (r : Reg) (v : Word) : (s.wg r v).fab = s.fab := rfl
@[simp] theorem State.wg_mlinks (s : State) (r : Reg) (v : Word) : (s.wg r v).mlinks = s.mlinks := rfl
@[simp] theorem State.wg_lomnik (s : State) (r : Reg) (v : Word) : (s.wg r v).lomnik = s.lomnik := rfl
@[simp] theorem State.wg_atomNum (s : State) (r : Reg) (v : Word) : (s.wg r v).atomNum = s.atomNum := rfl
@[simp] theorem State.wg_ratoms (s : State) (r : Reg) (v : Word) : (s.wg r v).ratoms = s.ratoms := rfl
@[simp] theorem State.wg_rhomes (s : State) (r : Reg) (v : Word) : (s.wg r v).rhomes = s.rhomes := rfl
@[simp] theorem State.wg_buddies (s : State) (r : Reg) (v : Word) : (s.wg r v).buddies = s.buddies := rfl
@[simp] theorem State.wg_buddyOf (s : State) (r : Reg) (v : Word) : (s.wg r v).buddyOf = s.buddyOf := rfl
@[simp] theorem State.wg_meas (s : State) (r : Reg) (v : Word) : (s.wg r v).meas = s.meas := rfl
@[simp] theorem State.wg_retired (s : State) (r : Reg) (v : Word) : (s.wg r v).retired = s.retired := rfl
@[simp] theorem State.wg_quarantined (s : State) (r : Reg) (v : Word) : (s.wg r v).quarantined = s.quarantined := rfl
@[simp] theorem State.wg_scorr (s : State) (r : Reg) (v : Word) : (s.wg r v).scorr = s.scorr := rfl
@[simp] theorem State.wg_suncorr (s : State) (r : Reg) (v : Word) : (s.wg r v).suncorr = s.suncorr := rfl
@[simp] theorem State.wg_slost (s : State) (r : Reg) (v : Word) : (s.wg r v).slost = s.slost := rfl
@[simp] theorem State.wg_dieLog (s : State) (r : Reg) (v : Word) : (s.wg r v).dieLog = s.dieLog := rfl
@[simp] theorem State.wg_nextTask (s : State) (r : Reg) (v : Word) : (s.wg r v).nextTask = s.nextTask := rfl
@[simp] theorem State.wg_nextJob (s : State) (r : Reg) (v : Word) : (s.wg r v).nextJob = s.nextJob := rfl
@[simp] theorem State.wg_nextOrder (s : State) (r : Reg) (v : Word) : (s.wg r v).nextOrder = s.nextOrder := rfl
@[simp] theorem State.wg_out (s : State) (r : Reg) (v : Word) : (s.wg r v).out = s.out := rfl
@[simp] theorem State.wg_agenda (s : State) (r : Reg) (v : Word) : (s.wg r v).agenda = s.agenda := rfl
@[simp] theorem State.wg_turn (s : State) (r : Reg) (v : Word) : (s.wg r v).turn = s.turn := rfl
@[simp] theorem State.wg_focus (s : State) (r : Reg) (v : Word) : (s.wg r v).focus = s.focus := rfl
@[simp] theorem State.wg_cur (s : State) (r : Reg) (v : Word) : (s.wg r v).cur = s.cur := rfl
@[simp] theorem State.wg_free (s : State) (r : Reg) (v : Word) : (s.wg r v).free = s.free := rfl
@[simp] theorem State.wg_lastRead (s : State) (r : Reg) (v : Word) : (s.wg r v).lastRead = s.lastRead := rfl

/-! ### `State.wp` -/

@[simp] theorem State.wp_time (s : State) (r : PReg) (b : Bool) : (s.wp r b).time = s.time := rfl
@[simp] theorem State.wp_pkg (s : State) (r : PReg) (b : Bool) : (s.wp r b).pkg = s.pkg := rfl
@[simp] theorem State.wp_mem (s : State) (r : PReg) (b : Bool) : (s.wp r b).mem = s.mem := rfl
@[simp] theorem State.wp_host (s : State) (r : PReg) (b : Bool) : (s.wp r b).host = s.host := rfl
@[simp] theorem State.wp_peer (s : State) (r : PReg) (b : Bool) : (s.wp r b).peer = s.peer := rfl
@[simp] theorem State.wp_cores (s : State) (r : PReg) (b : Bool) : (s.wp r b).cores = s.cores := rfl
@[simp] theorem State.wp_sync (s : State) (r : PReg) (b : Bool) : (s.wp r b).sync = s.sync := rfl
@[simp] theorem State.wp_tlb (s : State) (r : PReg) (b : Bool) : (s.wp r b).tlb = s.tlb := rfl
@[simp] theorem State.wp_pins (s : State) (r : PReg) (b : Bool) : (s.wp r b).pins = s.pins := rfl
@[simp] theorem State.wp_holds (s : State) (r : PReg) (b : Bool) : (s.wp r b).holds = s.holds := rfl
@[simp] theorem State.wp_boot (s : State) (r : PReg) (b : Bool) : (s.wp r b).boot = s.boot := rfl
@[simp] theorem State.wp_queues (s : State) (r : PReg) (b : Bool) : (s.wp r b).queues = s.queues := rfl
@[simp] theorem State.wp_jobs (s : State) (r : PReg) (b : Bool) : (s.wp r b).jobs = s.jobs := rfl
@[simp] theorem State.wp_tens (s : State) (r : PReg) (b : Bool) : (s.wp r b).tens = s.tens := rfl
@[simp] theorem State.wp_saved (s : State) (r : PReg) (b : Bool) : (s.wp r b).saved = s.saved := rfl
@[simp] theorem State.wp_xtags (s : State) (r : PReg) (b : Bool) : (s.wp r b).xtags = s.xtags := rfl
@[simp] theorem State.wp_arbTags (s : State) (r : PReg) (b : Bool) : (s.wp r b).arbTags = s.arbTags := rfl
@[simp] theorem State.wp_reds (s : State) (r : PReg) (b : Bool) : (s.wp r b).reds = s.reds := rfl
@[simp] theorem State.wp_fab (s : State) (r : PReg) (b : Bool) : (s.wp r b).fab = s.fab := rfl
@[simp] theorem State.wp_mlinks (s : State) (r : PReg) (b : Bool) : (s.wp r b).mlinks = s.mlinks := rfl
@[simp] theorem State.wp_lomnik (s : State) (r : PReg) (b : Bool) : (s.wp r b).lomnik = s.lomnik := rfl
@[simp] theorem State.wp_atomNum (s : State) (r : PReg) (b : Bool) : (s.wp r b).atomNum = s.atomNum := rfl
@[simp] theorem State.wp_ratoms (s : State) (r : PReg) (b : Bool) : (s.wp r b).ratoms = s.ratoms := rfl
@[simp] theorem State.wp_rhomes (s : State) (r : PReg) (b : Bool) : (s.wp r b).rhomes = s.rhomes := rfl
@[simp] theorem State.wp_buddies (s : State) (r : PReg) (b : Bool) : (s.wp r b).buddies = s.buddies := rfl
@[simp] theorem State.wp_buddyOf (s : State) (r : PReg) (b : Bool) : (s.wp r b).buddyOf = s.buddyOf := rfl
@[simp] theorem State.wp_meas (s : State) (r : PReg) (b : Bool) : (s.wp r b).meas = s.meas := rfl
@[simp] theorem State.wp_retired (s : State) (r : PReg) (b : Bool) : (s.wp r b).retired = s.retired := rfl
@[simp] theorem State.wp_quarantined (s : State) (r : PReg) (b : Bool) : (s.wp r b).quarantined = s.quarantined := rfl
@[simp] theorem State.wp_scorr (s : State) (r : PReg) (b : Bool) : (s.wp r b).scorr = s.scorr := rfl
@[simp] theorem State.wp_suncorr (s : State) (r : PReg) (b : Bool) : (s.wp r b).suncorr = s.suncorr := rfl
@[simp] theorem State.wp_slost (s : State) (r : PReg) (b : Bool) : (s.wp r b).slost = s.slost := rfl
@[simp] theorem State.wp_dieLog (s : State) (r : PReg) (b : Bool) : (s.wp r b).dieLog = s.dieLog := rfl
@[simp] theorem State.wp_nextTask (s : State) (r : PReg) (b : Bool) : (s.wp r b).nextTask = s.nextTask := rfl
@[simp] theorem State.wp_nextJob (s : State) (r : PReg) (b : Bool) : (s.wp r b).nextJob = s.nextJob := rfl
@[simp] theorem State.wp_nextOrder (s : State) (r : PReg) (b : Bool) : (s.wp r b).nextOrder = s.nextOrder := rfl
@[simp] theorem State.wp_out (s : State) (r : PReg) (b : Bool) : (s.wp r b).out = s.out := rfl
@[simp] theorem State.wp_agenda (s : State) (r : PReg) (b : Bool) : (s.wp r b).agenda = s.agenda := rfl
@[simp] theorem State.wp_turn (s : State) (r : PReg) (b : Bool) : (s.wp r b).turn = s.turn := rfl
@[simp] theorem State.wp_focus (s : State) (r : PReg) (b : Bool) : (s.wp r b).focus = s.focus := rfl
@[simp] theorem State.wp_cur (s : State) (r : PReg) (b : Bool) : (s.wp r b).cur = s.cur := rfl
@[simp] theorem State.wp_free (s : State) (r : PReg) (b : Bool) : (s.wp r b).free = s.free := rfl
@[simp] theorem State.wp_lastRead (s : State) (r : PReg) (b : Bool) : (s.wp r b).lastRead = s.lastRead := rfl

/-! ### `State.stalled` -/

@[simp] theorem State.stalled_time (s : State)  : (s.stalled).time = s.time := rfl
@[simp] theorem State.stalled_pkg (s : State)  : (s.stalled).pkg = s.pkg := rfl
@[simp] theorem State.stalled_mem (s : State)  : (s.stalled).mem = s.mem := rfl
@[simp] theorem State.stalled_host (s : State)  : (s.stalled).host = s.host := rfl
@[simp] theorem State.stalled_peer (s : State)  : (s.stalled).peer = s.peer := rfl
@[simp] theorem State.stalled_slots (s : State)  : (s.stalled).slots = s.slots := rfl
@[simp] theorem State.stalled_cores (s : State)  : (s.stalled).cores = s.cores := rfl
@[simp] theorem State.stalled_sync (s : State)  : (s.stalled).sync = s.sync := rfl
@[simp] theorem State.stalled_tlb (s : State)  : (s.stalled).tlb = s.tlb := rfl
@[simp] theorem State.stalled_pins (s : State)  : (s.stalled).pins = s.pins := rfl
@[simp] theorem State.stalled_holds (s : State)  : (s.stalled).holds = s.holds := rfl
@[simp] theorem State.stalled_boot (s : State)  : (s.stalled).boot = s.boot := rfl
@[simp] theorem State.stalled_queues (s : State)  : (s.stalled).queues = s.queues := rfl
@[simp] theorem State.stalled_jobs (s : State)  : (s.stalled).jobs = s.jobs := rfl
@[simp] theorem State.stalled_tens (s : State)  : (s.stalled).tens = s.tens := rfl
@[simp] theorem State.stalled_saved (s : State)  : (s.stalled).saved = s.saved := rfl
@[simp] theorem State.stalled_xtags (s : State)  : (s.stalled).xtags = s.xtags := rfl
@[simp] theorem State.stalled_arbTags (s : State)  : (s.stalled).arbTags = s.arbTags := rfl
@[simp] theorem State.stalled_reds (s : State)  : (s.stalled).reds = s.reds := rfl
@[simp] theorem State.stalled_fab (s : State)  : (s.stalled).fab = s.fab := rfl
@[simp] theorem State.stalled_mlinks (s : State)  : (s.stalled).mlinks = s.mlinks := rfl
@[simp] theorem State.stalled_lomnik (s : State)  : (s.stalled).lomnik = s.lomnik := rfl
@[simp] theorem State.stalled_atomNum (s : State)  : (s.stalled).atomNum = s.atomNum := rfl
@[simp] theorem State.stalled_ratoms (s : State)  : (s.stalled).ratoms = s.ratoms := rfl
@[simp] theorem State.stalled_rhomes (s : State)  : (s.stalled).rhomes = s.rhomes := rfl
@[simp] theorem State.stalled_buddies (s : State)  : (s.stalled).buddies = s.buddies := rfl
@[simp] theorem State.stalled_buddyOf (s : State)  : (s.stalled).buddyOf = s.buddyOf := rfl
@[simp] theorem State.stalled_meas (s : State)  : (s.stalled).meas = s.meas := rfl
@[simp] theorem State.stalled_retired (s : State)  : (s.stalled).retired = s.retired := rfl
@[simp] theorem State.stalled_quarantined (s : State)  : (s.stalled).quarantined = s.quarantined := rfl
@[simp] theorem State.stalled_scorr (s : State)  : (s.stalled).scorr = s.scorr := rfl
@[simp] theorem State.stalled_suncorr (s : State)  : (s.stalled).suncorr = s.suncorr := rfl
@[simp] theorem State.stalled_slost (s : State)  : (s.stalled).slost = s.slost := rfl
@[simp] theorem State.stalled_dieLog (s : State)  : (s.stalled).dieLog = s.dieLog := rfl
@[simp] theorem State.stalled_nextTask (s : State)  : (s.stalled).nextTask = s.nextTask := rfl
@[simp] theorem State.stalled_nextJob (s : State)  : (s.stalled).nextJob = s.nextJob := rfl
@[simp] theorem State.stalled_nextOrder (s : State)  : (s.stalled).nextOrder = s.nextOrder := rfl
@[simp] theorem State.stalled_out (s : State)  : (s.stalled).out = s.out := rfl
@[simp] theorem State.stalled_agenda (s : State)  : (s.stalled).agenda = s.agenda := rfl
@[simp] theorem State.stalled_turn (s : State)  : (s.stalled).turn = s.turn := rfl
@[simp] theorem State.stalled_focus (s : State)  : (s.stalled).focus = s.focus := rfl
@[simp] theorem State.stalled_free (s : State)  : (s.stalled).free = s.free := rfl
@[simp] theorem State.stalled_lastRead (s : State)  : (s.stalled).lastRead = s.lastRead := rfl

/-! ### `State.faulted` -/

@[simp] theorem State.faulted_time (s : State)  : (s.faulted).time = s.time := rfl
@[simp] theorem State.faulted_pkg (s : State)  : (s.faulted).pkg = s.pkg := rfl
@[simp] theorem State.faulted_mem (s : State)  : (s.faulted).mem = s.mem := rfl
@[simp] theorem State.faulted_host (s : State)  : (s.faulted).host = s.host := rfl
@[simp] theorem State.faulted_peer (s : State)  : (s.faulted).peer = s.peer := rfl
@[simp] theorem State.faulted_slots (s : State)  : (s.faulted).slots = s.slots := rfl
@[simp] theorem State.faulted_cores (s : State)  : (s.faulted).cores = s.cores := rfl
@[simp] theorem State.faulted_sync (s : State)  : (s.faulted).sync = s.sync := rfl
@[simp] theorem State.faulted_tlb (s : State)  : (s.faulted).tlb = s.tlb := rfl
@[simp] theorem State.faulted_pins (s : State)  : (s.faulted).pins = s.pins := rfl
@[simp] theorem State.faulted_holds (s : State)  : (s.faulted).holds = s.holds := rfl
@[simp] theorem State.faulted_boot (s : State)  : (s.faulted).boot = s.boot := rfl
@[simp] theorem State.faulted_queues (s : State)  : (s.faulted).queues = s.queues := rfl
@[simp] theorem State.faulted_jobs (s : State)  : (s.faulted).jobs = s.jobs := rfl
@[simp] theorem State.faulted_tens (s : State)  : (s.faulted).tens = s.tens := rfl
@[simp] theorem State.faulted_saved (s : State)  : (s.faulted).saved = s.saved := rfl
@[simp] theorem State.faulted_xtags (s : State)  : (s.faulted).xtags = s.xtags := rfl
@[simp] theorem State.faulted_arbTags (s : State)  : (s.faulted).arbTags = s.arbTags := rfl
@[simp] theorem State.faulted_reds (s : State)  : (s.faulted).reds = s.reds := rfl
@[simp] theorem State.faulted_fab (s : State)  : (s.faulted).fab = s.fab := rfl
@[simp] theorem State.faulted_mlinks (s : State)  : (s.faulted).mlinks = s.mlinks := rfl
@[simp] theorem State.faulted_lomnik (s : State)  : (s.faulted).lomnik = s.lomnik := rfl
@[simp] theorem State.faulted_atomNum (s : State)  : (s.faulted).atomNum = s.atomNum := rfl
@[simp] theorem State.faulted_ratoms (s : State)  : (s.faulted).ratoms = s.ratoms := rfl
@[simp] theorem State.faulted_rhomes (s : State)  : (s.faulted).rhomes = s.rhomes := rfl
@[simp] theorem State.faulted_buddies (s : State)  : (s.faulted).buddies = s.buddies := rfl
@[simp] theorem State.faulted_buddyOf (s : State)  : (s.faulted).buddyOf = s.buddyOf := rfl
@[simp] theorem State.faulted_meas (s : State)  : (s.faulted).meas = s.meas := rfl
@[simp] theorem State.faulted_retired (s : State)  : (s.faulted).retired = s.retired := rfl
@[simp] theorem State.faulted_quarantined (s : State)  : (s.faulted).quarantined = s.quarantined := rfl
@[simp] theorem State.faulted_scorr (s : State)  : (s.faulted).scorr = s.scorr := rfl
@[simp] theorem State.faulted_suncorr (s : State)  : (s.faulted).suncorr = s.suncorr := rfl
@[simp] theorem State.faulted_slost (s : State)  : (s.faulted).slost = s.slost := rfl
@[simp] theorem State.faulted_dieLog (s : State)  : (s.faulted).dieLog = s.dieLog := rfl
@[simp] theorem State.faulted_nextTask (s : State)  : (s.faulted).nextTask = s.nextTask := rfl
@[simp] theorem State.faulted_nextJob (s : State)  : (s.faulted).nextJob = s.nextJob := rfl
@[simp] theorem State.faulted_nextOrder (s : State)  : (s.faulted).nextOrder = s.nextOrder := rfl
@[simp] theorem State.faulted_out (s : State)  : (s.faulted).out = s.out := rfl
@[simp] theorem State.faulted_agenda (s : State)  : (s.faulted).agenda = s.agenda := rfl
@[simp] theorem State.faulted_turn (s : State)  : (s.faulted).turn = s.turn := rfl
@[simp] theorem State.faulted_focus (s : State)  : (s.faulted).focus = s.focus := rfl
@[simp] theorem State.faulted_free (s : State)  : (s.faulted).free = s.free := rfl
@[simp] theorem State.faulted_lastRead (s : State)  : (s.faulted).lastRead = s.lastRead := rfl

/-! ### `State.jump` -/

@[simp] theorem State.jump_time (s : State) (a : Word) : (s.jump a).time = s.time := rfl
@[simp] theorem State.jump_pkg (s : State) (a : Word) : (s.jump a).pkg = s.pkg := rfl
@[simp] theorem State.jump_mem (s : State) (a : Word) : (s.jump a).mem = s.mem := rfl
@[simp] theorem State.jump_host (s : State) (a : Word) : (s.jump a).host = s.host := rfl
@[simp] theorem State.jump_peer (s : State) (a : Word) : (s.jump a).peer = s.peer := rfl
@[simp] theorem State.jump_slots (s : State) (a : Word) : (s.jump a).slots = s.slots := rfl
@[simp] theorem State.jump_cores (s : State) (a : Word) : (s.jump a).cores = s.cores := rfl
@[simp] theorem State.jump_sync (s : State) (a : Word) : (s.jump a).sync = s.sync := rfl
@[simp] theorem State.jump_tlb (s : State) (a : Word) : (s.jump a).tlb = s.tlb := rfl
@[simp] theorem State.jump_pins (s : State) (a : Word) : (s.jump a).pins = s.pins := rfl
@[simp] theorem State.jump_holds (s : State) (a : Word) : (s.jump a).holds = s.holds := rfl
@[simp] theorem State.jump_boot (s : State) (a : Word) : (s.jump a).boot = s.boot := rfl
@[simp] theorem State.jump_queues (s : State) (a : Word) : (s.jump a).queues = s.queues := rfl
@[simp] theorem State.jump_jobs (s : State) (a : Word) : (s.jump a).jobs = s.jobs := rfl
@[simp] theorem State.jump_tens (s : State) (a : Word) : (s.jump a).tens = s.tens := rfl
@[simp] theorem State.jump_saved (s : State) (a : Word) : (s.jump a).saved = s.saved := rfl
@[simp] theorem State.jump_xtags (s : State) (a : Word) : (s.jump a).xtags = s.xtags := rfl
@[simp] theorem State.jump_arbTags (s : State) (a : Word) : (s.jump a).arbTags = s.arbTags := rfl
@[simp] theorem State.jump_reds (s : State) (a : Word) : (s.jump a).reds = s.reds := rfl
@[simp] theorem State.jump_fab (s : State) (a : Word) : (s.jump a).fab = s.fab := rfl
@[simp] theorem State.jump_mlinks (s : State) (a : Word) : (s.jump a).mlinks = s.mlinks := rfl
@[simp] theorem State.jump_lomnik (s : State) (a : Word) : (s.jump a).lomnik = s.lomnik := rfl
@[simp] theorem State.jump_atomNum (s : State) (a : Word) : (s.jump a).atomNum = s.atomNum := rfl
@[simp] theorem State.jump_ratoms (s : State) (a : Word) : (s.jump a).ratoms = s.ratoms := rfl
@[simp] theorem State.jump_rhomes (s : State) (a : Word) : (s.jump a).rhomes = s.rhomes := rfl
@[simp] theorem State.jump_buddies (s : State) (a : Word) : (s.jump a).buddies = s.buddies := rfl
@[simp] theorem State.jump_buddyOf (s : State) (a : Word) : (s.jump a).buddyOf = s.buddyOf := rfl
@[simp] theorem State.jump_meas (s : State) (a : Word) : (s.jump a).meas = s.meas := rfl
@[simp] theorem State.jump_retired (s : State) (a : Word) : (s.jump a).retired = s.retired := rfl
@[simp] theorem State.jump_quarantined (s : State) (a : Word) : (s.jump a).quarantined = s.quarantined := rfl
@[simp] theorem State.jump_scorr (s : State) (a : Word) : (s.jump a).scorr = s.scorr := rfl
@[simp] theorem State.jump_suncorr (s : State) (a : Word) : (s.jump a).suncorr = s.suncorr := rfl
@[simp] theorem State.jump_slost (s : State) (a : Word) : (s.jump a).slost = s.slost := rfl
@[simp] theorem State.jump_dieLog (s : State) (a : Word) : (s.jump a).dieLog = s.dieLog := rfl
@[simp] theorem State.jump_nextTask (s : State) (a : Word) : (s.jump a).nextTask = s.nextTask := rfl
@[simp] theorem State.jump_nextJob (s : State) (a : Word) : (s.jump a).nextJob = s.nextJob := rfl
@[simp] theorem State.jump_nextOrder (s : State) (a : Word) : (s.jump a).nextOrder = s.nextOrder := rfl
@[simp] theorem State.jump_out (s : State) (a : Word) : (s.jump a).out = s.out := rfl
@[simp] theorem State.jump_agenda (s : State) (a : Word) : (s.jump a).agenda = s.agenda := rfl
@[simp] theorem State.jump_turn (s : State) (a : Word) : (s.jump a).turn = s.turn := rfl
@[simp] theorem State.jump_focus (s : State) (a : Word) : (s.jump a).focus = s.focus := rfl
@[simp] theorem State.jump_free (s : State) (a : Word) : (s.jump a).free = s.free := rfl
@[simp] theorem State.jump_lastRead (s : State) (a : Word) : (s.jump a).lastRead = s.lastRead := rfl

/-! ### `State.branch` -/

@[simp] theorem State.branch_time (s : State) (a : Word) : (s.branch a).time = s.time := rfl
@[simp] theorem State.branch_pkg (s : State) (a : Word) : (s.branch a).pkg = s.pkg := rfl
@[simp] theorem State.branch_mem (s : State) (a : Word) : (s.branch a).mem = s.mem := rfl
@[simp] theorem State.branch_host (s : State) (a : Word) : (s.branch a).host = s.host := rfl
@[simp] theorem State.branch_peer (s : State) (a : Word) : (s.branch a).peer = s.peer := rfl
@[simp] theorem State.branch_cores (s : State) (a : Word) : (s.branch a).cores = s.cores := rfl
@[simp] theorem State.branch_sync (s : State) (a : Word) : (s.branch a).sync = s.sync := rfl
@[simp] theorem State.branch_tlb (s : State) (a : Word) : (s.branch a).tlb = s.tlb := rfl
@[simp] theorem State.branch_pins (s : State) (a : Word) : (s.branch a).pins = s.pins := rfl
@[simp] theorem State.branch_holds (s : State) (a : Word) : (s.branch a).holds = s.holds := rfl
@[simp] theorem State.branch_boot (s : State) (a : Word) : (s.branch a).boot = s.boot := rfl
@[simp] theorem State.branch_queues (s : State) (a : Word) : (s.branch a).queues = s.queues := rfl
@[simp] theorem State.branch_jobs (s : State) (a : Word) : (s.branch a).jobs = s.jobs := rfl
@[simp] theorem State.branch_tens (s : State) (a : Word) : (s.branch a).tens = s.tens := rfl
@[simp] theorem State.branch_saved (s : State) (a : Word) : (s.branch a).saved = s.saved := rfl
@[simp] theorem State.branch_xtags (s : State) (a : Word) : (s.branch a).xtags = s.xtags := rfl
@[simp] theorem State.branch_arbTags (s : State) (a : Word) : (s.branch a).arbTags = s.arbTags := rfl
@[simp] theorem State.branch_reds (s : State) (a : Word) : (s.branch a).reds = s.reds := rfl
@[simp] theorem State.branch_fab (s : State) (a : Word) : (s.branch a).fab = s.fab := rfl
@[simp] theorem State.branch_mlinks (s : State) (a : Word) : (s.branch a).mlinks = s.mlinks := rfl
@[simp] theorem State.branch_lomnik (s : State) (a : Word) : (s.branch a).lomnik = s.lomnik := rfl
@[simp] theorem State.branch_atomNum (s : State) (a : Word) : (s.branch a).atomNum = s.atomNum := rfl
@[simp] theorem State.branch_ratoms (s : State) (a : Word) : (s.branch a).ratoms = s.ratoms := rfl
@[simp] theorem State.branch_rhomes (s : State) (a : Word) : (s.branch a).rhomes = s.rhomes := rfl
@[simp] theorem State.branch_buddies (s : State) (a : Word) : (s.branch a).buddies = s.buddies := rfl
@[simp] theorem State.branch_buddyOf (s : State) (a : Word) : (s.branch a).buddyOf = s.buddyOf := rfl
@[simp] theorem State.branch_meas (s : State) (a : Word) : (s.branch a).meas = s.meas := rfl
@[simp] theorem State.branch_retired (s : State) (a : Word) : (s.branch a).retired = s.retired := rfl
@[simp] theorem State.branch_quarantined (s : State) (a : Word) : (s.branch a).quarantined = s.quarantined := rfl
@[simp] theorem State.branch_scorr (s : State) (a : Word) : (s.branch a).scorr = s.scorr := rfl
@[simp] theorem State.branch_suncorr (s : State) (a : Word) : (s.branch a).suncorr = s.suncorr := rfl
@[simp] theorem State.branch_slost (s : State) (a : Word) : (s.branch a).slost = s.slost := rfl
@[simp] theorem State.branch_dieLog (s : State) (a : Word) : (s.branch a).dieLog = s.dieLog := rfl
@[simp] theorem State.branch_nextTask (s : State) (a : Word) : (s.branch a).nextTask = s.nextTask := rfl
@[simp] theorem State.branch_nextJob (s : State) (a : Word) : (s.branch a).nextJob = s.nextJob := rfl
@[simp] theorem State.branch_nextOrder (s : State) (a : Word) : (s.branch a).nextOrder = s.nextOrder := rfl
@[simp] theorem State.branch_out (s : State) (a : Word) : (s.branch a).out = s.out := rfl
@[simp] theorem State.branch_agenda (s : State) (a : Word) : (s.branch a).agenda = s.agenda := rfl
@[simp] theorem State.branch_turn (s : State) (a : Word) : (s.branch a).turn = s.turn := rfl
@[simp] theorem State.branch_focus (s : State) (a : Word) : (s.branch a).focus = s.focus := rfl
@[simp] theorem State.branch_free (s : State) (a : Word) : (s.branch a).free = s.free := rfl
@[simp] theorem State.branch_lastRead (s : State) (a : Word) : (s.branch a).lastRead = s.lastRead := rfl

/-! ### `State.retire` -/

@[simp] theorem State.retire_time (s : State) (h : Hdr) : (s.retire h).time = s.time := rfl
@[simp] theorem State.retire_pkg (s : State) (h : Hdr) : (s.retire h).pkg = s.pkg := rfl
@[simp] theorem State.retire_mem (s : State) (h : Hdr) : (s.retire h).mem = s.mem := rfl
@[simp] theorem State.retire_host (s : State) (h : Hdr) : (s.retire h).host = s.host := rfl
@[simp] theorem State.retire_peer (s : State) (h : Hdr) : (s.retire h).peer = s.peer := rfl
@[simp] theorem State.retire_cores (s : State) (h : Hdr) : (s.retire h).cores = s.cores := rfl
@[simp] theorem State.retire_sync (s : State) (h : Hdr) : (s.retire h).sync = s.sync := rfl
@[simp] theorem State.retire_tlb (s : State) (h : Hdr) : (s.retire h).tlb = s.tlb := rfl
@[simp] theorem State.retire_pins (s : State) (h : Hdr) : (s.retire h).pins = s.pins := rfl
@[simp] theorem State.retire_holds (s : State) (h : Hdr) : (s.retire h).holds = s.holds := rfl
@[simp] theorem State.retire_boot (s : State) (h : Hdr) : (s.retire h).boot = s.boot := rfl
@[simp] theorem State.retire_queues (s : State) (h : Hdr) : (s.retire h).queues = s.queues := rfl
@[simp] theorem State.retire_jobs (s : State) (h : Hdr) : (s.retire h).jobs = s.jobs := rfl
@[simp] theorem State.retire_tens (s : State) (h : Hdr) : (s.retire h).tens = s.tens := rfl
@[simp] theorem State.retire_saved (s : State) (h : Hdr) : (s.retire h).saved = s.saved := rfl
@[simp] theorem State.retire_xtags (s : State) (h : Hdr) : (s.retire h).xtags = s.xtags := rfl
@[simp] theorem State.retire_arbTags (s : State) (h : Hdr) : (s.retire h).arbTags = s.arbTags := rfl
@[simp] theorem State.retire_reds (s : State) (h : Hdr) : (s.retire h).reds = s.reds := rfl
@[simp] theorem State.retire_fab (s : State) (h : Hdr) : (s.retire h).fab = s.fab := rfl
@[simp] theorem State.retire_mlinks (s : State) (h : Hdr) : (s.retire h).mlinks = s.mlinks := rfl
@[simp] theorem State.retire_lomnik (s : State) (h : Hdr) : (s.retire h).lomnik = s.lomnik := rfl
@[simp] theorem State.retire_atomNum (s : State) (h : Hdr) : (s.retire h).atomNum = s.atomNum := rfl
@[simp] theorem State.retire_ratoms (s : State) (h : Hdr) : (s.retire h).ratoms = s.ratoms := rfl
@[simp] theorem State.retire_rhomes (s : State) (h : Hdr) : (s.retire h).rhomes = s.rhomes := rfl
@[simp] theorem State.retire_buddies (s : State) (h : Hdr) : (s.retire h).buddies = s.buddies := rfl
@[simp] theorem State.retire_buddyOf (s : State) (h : Hdr) : (s.retire h).buddyOf = s.buddyOf := rfl
@[simp] theorem State.retire_meas (s : State) (h : Hdr) : (s.retire h).meas = s.meas := rfl
@[simp] theorem State.retire_retired (s : State) (h : Hdr) : (s.retire h).retired = s.retired := rfl
@[simp] theorem State.retire_quarantined (s : State) (h : Hdr) : (s.retire h).quarantined = s.quarantined := rfl
@[simp] theorem State.retire_scorr (s : State) (h : Hdr) : (s.retire h).scorr = s.scorr := rfl
@[simp] theorem State.retire_suncorr (s : State) (h : Hdr) : (s.retire h).suncorr = s.suncorr := rfl
@[simp] theorem State.retire_slost (s : State) (h : Hdr) : (s.retire h).slost = s.slost := rfl
@[simp] theorem State.retire_dieLog (s : State) (h : Hdr) : (s.retire h).dieLog = s.dieLog := rfl
@[simp] theorem State.retire_nextTask (s : State) (h : Hdr) : (s.retire h).nextTask = s.nextTask := rfl
@[simp] theorem State.retire_nextJob (s : State) (h : Hdr) : (s.retire h).nextJob = s.nextJob := rfl
@[simp] theorem State.retire_nextOrder (s : State) (h : Hdr) : (s.retire h).nextOrder = s.nextOrder := rfl
@[simp] theorem State.retire_out (s : State) (h : Hdr) : (s.retire h).out = s.out := rfl
@[simp] theorem State.retire_agenda (s : State) (h : Hdr) : (s.retire h).agenda = s.agenda := rfl
@[simp] theorem State.retire_turn (s : State) (h : Hdr) : (s.retire h).turn = s.turn := rfl
@[simp] theorem State.retire_focus (s : State) (h : Hdr) : (s.retire h).focus = s.focus := rfl
@[simp] theorem State.retire_free (s : State) (h : Hdr) : (s.retire h).free = s.free := rfl
@[simp] theorem State.retire_lastRead (s : State) (h : Hdr) : (s.retire h).lastRead = s.lastRead := rfl

/-! ### `State.raise` -/

@[simp] theorem State.raise_time (s : State) (n : Nat) (t : Trap) : (s.raise n t).time = s.time := rfl
@[simp] theorem State.raise_pkg (s : State) (n : Nat) (t : Trap) : (s.raise n t).pkg = s.pkg := rfl
@[simp] theorem State.raise_mem (s : State) (n : Nat) (t : Trap) : (s.raise n t).mem = s.mem := rfl
@[simp] theorem State.raise_host (s : State) (n : Nat) (t : Trap) : (s.raise n t).host = s.host := rfl
@[simp] theorem State.raise_peer (s : State) (n : Nat) (t : Trap) : (s.raise n t).peer = s.peer := rfl
@[simp] theorem State.raise_cores (s : State) (n : Nat) (t : Trap) : (s.raise n t).cores = s.cores := rfl
@[simp] theorem State.raise_sync (s : State) (n : Nat) (t : Trap) : (s.raise n t).sync = s.sync := rfl
@[simp] theorem State.raise_tlb (s : State) (n : Nat) (t : Trap) : (s.raise n t).tlb = s.tlb := rfl
@[simp] theorem State.raise_pins (s : State) (n : Nat) (t : Trap) : (s.raise n t).pins = s.pins := rfl
@[simp] theorem State.raise_holds (s : State) (n : Nat) (t : Trap) : (s.raise n t).holds = s.holds := rfl
@[simp] theorem State.raise_boot (s : State) (n : Nat) (t : Trap) : (s.raise n t).boot = s.boot := rfl
@[simp] theorem State.raise_queues (s : State) (n : Nat) (t : Trap) : (s.raise n t).queues = s.queues := rfl
@[simp] theorem State.raise_jobs (s : State) (n : Nat) (t : Trap) : (s.raise n t).jobs = s.jobs := rfl
@[simp] theorem State.raise_tens (s : State) (n : Nat) (t : Trap) : (s.raise n t).tens = s.tens := rfl
@[simp] theorem State.raise_saved (s : State) (n : Nat) (t : Trap) : (s.raise n t).saved = s.saved := rfl
@[simp] theorem State.raise_xtags (s : State) (n : Nat) (t : Trap) : (s.raise n t).xtags = s.xtags := rfl
@[simp] theorem State.raise_arbTags (s : State) (n : Nat) (t : Trap) : (s.raise n t).arbTags = s.arbTags := rfl
@[simp] theorem State.raise_reds (s : State) (n : Nat) (t : Trap) : (s.raise n t).reds = s.reds := rfl
@[simp] theorem State.raise_fab (s : State) (n : Nat) (t : Trap) : (s.raise n t).fab = s.fab := rfl
@[simp] theorem State.raise_mlinks (s : State) (n : Nat) (t : Trap) : (s.raise n t).mlinks = s.mlinks := rfl
@[simp] theorem State.raise_lomnik (s : State) (n : Nat) (t : Trap) : (s.raise n t).lomnik = s.lomnik := rfl
@[simp] theorem State.raise_atomNum (s : State) (n : Nat) (t : Trap) : (s.raise n t).atomNum = s.atomNum := rfl
@[simp] theorem State.raise_ratoms (s : State) (n : Nat) (t : Trap) : (s.raise n t).ratoms = s.ratoms := rfl
@[simp] theorem State.raise_rhomes (s : State) (n : Nat) (t : Trap) : (s.raise n t).rhomes = s.rhomes := rfl
@[simp] theorem State.raise_buddies (s : State) (n : Nat) (t : Trap) : (s.raise n t).buddies = s.buddies := rfl
@[simp] theorem State.raise_buddyOf (s : State) (n : Nat) (t : Trap) : (s.raise n t).buddyOf = s.buddyOf := rfl
@[simp] theorem State.raise_meas (s : State) (n : Nat) (t : Trap) : (s.raise n t).meas = s.meas := rfl
@[simp] theorem State.raise_retired (s : State) (n : Nat) (t : Trap) : (s.raise n t).retired = s.retired := rfl
@[simp] theorem State.raise_quarantined (s : State) (n : Nat) (t : Trap) : (s.raise n t).quarantined = s.quarantined := rfl
@[simp] theorem State.raise_scorr (s : State) (n : Nat) (t : Trap) : (s.raise n t).scorr = s.scorr := rfl
@[simp] theorem State.raise_suncorr (s : State) (n : Nat) (t : Trap) : (s.raise n t).suncorr = s.suncorr := rfl
@[simp] theorem State.raise_slost (s : State) (n : Nat) (t : Trap) : (s.raise n t).slost = s.slost := rfl
@[simp] theorem State.raise_dieLog (s : State) (n : Nat) (t : Trap) : (s.raise n t).dieLog = s.dieLog := rfl
@[simp] theorem State.raise_nextTask (s : State) (n : Nat) (t : Trap) : (s.raise n t).nextTask = s.nextTask := rfl
@[simp] theorem State.raise_nextJob (s : State) (n : Nat) (t : Trap) : (s.raise n t).nextJob = s.nextJob := rfl
@[simp] theorem State.raise_nextOrder (s : State) (n : Nat) (t : Trap) : (s.raise n t).nextOrder = s.nextOrder := rfl
@[simp] theorem State.raise_out (s : State) (n : Nat) (t : Trap) : (s.raise n t).out = s.out := rfl
@[simp] theorem State.raise_agenda (s : State) (n : Nat) (t : Trap) : (s.raise n t).agenda = s.agenda := rfl
@[simp] theorem State.raise_turn (s : State) (n : Nat) (t : Trap) : (s.raise n t).turn = s.turn := rfl
@[simp] theorem State.raise_focus (s : State) (n : Nat) (t : Trap) : (s.raise n t).focus = s.focus := rfl
@[simp] theorem State.raise_cur (s : State) (n : Nat) (t : Trap) : (s.raise n t).cur = s.cur := rfl
@[simp] theorem State.raise_free (s : State) (n : Nat) (t : Trap) : (s.raise n t).free = s.free := rfl
@[simp] theorem State.raise_lastRead (s : State) (n : Nat) (t : Trap) : (s.raise n t).lastRead = s.lastRead := rfl

/-! ### `Slot.updSeq a` -/

@[simp] theorem Slot.updSeq_a_st (k : Slot) (f : Seq → Seq) : (k.updSeq .a f).st = k.st := rfl
@[simp] theorem Slot.updSeq_a_x (k : Slot) (f : Seq → Seq) : (k.updSeq .a f).x = k.x := rfl
@[simp] theorem Slot.updSeq_a_tok (k : Slot) (f : Seq → Seq) : (k.updSeq .a f).tok = k.tok := rfl
@[simp] theorem Slot.updSeq_a_dqAx (k : Slot) (f : Seq → Seq) : (k.updSeq .a f).dqAx = k.dqAx := rfl
@[simp] theorem Slot.updSeq_a_dqXa (k : Slot) (f : Seq → Seq) : (k.updSeq .a f).dqXa = k.dqXa := rfl
@[simp] theorem Slot.updSeq_a_bqAx (k : Slot) (f : Seq → Seq) : (k.updSeq .a f).bqAx = k.bqAx := rfl
@[simp] theorem Slot.updSeq_a_bqXa (k : Slot) (f : Seq → Seq) : (k.updSeq .a f).bqXa = k.bqXa := rfl
@[simp] theorem Slot.updSeq_a_cq (k : Slot) (f : Seq → Seq) : (k.updSeq .a f).cq = k.cq := rfl
@[simp] theorem Slot.updSeq_a_mq (k : Slot) (f : Seq → Seq) : (k.updSeq .a f).mq = k.mq := rfl
@[simp] theorem Slot.updSeq_a_vq (k : Slot) (f : Seq → Seq) : (k.updSeq .a f).vq = k.vq := rfl
@[simp] theorem Slot.updSeq_a_cAside (k : Slot) (f : Seq → Seq) : (k.updSeq .a f).cAside = k.cAside := rfl
@[simp] theorem Slot.updSeq_a_mAside (k : Slot) (f : Seq → Seq) : (k.updSeq .a f).mAside = k.mAside := rfl
@[simp] theorem Slot.updSeq_a_vAside (k : Slot) (f : Seq → Seq) : (k.updSeq .a f).vAside = k.vAside := rfl
@[simp] theorem Slot.updSeq_a_flight (k : Slot) (f : Seq → Seq) : (k.updSeq .a f).flight = k.flight := rfl
@[simp] theorem Slot.updSeq_a_nextCmd (k : Slot) (f : Seq → Seq) : (k.updSeq .a f).nextCmd = k.nextCmd := rfl
@[simp] theorem Slot.updSeq_a_cg (k : Slot) (f : Seq → Seq) : (k.updSeq .a f).cg = k.cg := rfl
@[simp] theorem Slot.updSeq_a_rng (k : Slot) (f : Seq → Seq) : (k.updSeq .a f).rng = k.rng := rfl
@[simp] theorem Slot.updSeq_a_locals (k : Slot) (f : Seq → Seq) : (k.updSeq .a f).locals = k.locals := rfl
@[simp] theorem Slot.updSeq_a_homes (k : Slot) (f : Seq → Seq) : (k.updSeq .a f).homes = k.homes := rfl
@[simp] theorem Slot.updSeq_a_cfg (k : Slot) (f : Seq → Seq) : (k.updSeq .a f).cfg = k.cfg := rfl
@[simp] theorem Slot.updSeq_a_acc (k : Slot) (f : Seq → Seq) : (k.updSeq .a f).acc = k.acc := rfl
@[simp] theorem Slot.updSeq_a_accTag (k : Slot) (f : Seq → Seq) : (k.updSeq .a f).accTag = k.accTag := rfl
@[simp] theorem Slot.updSeq_a_win (k : Slot) (f : Seq → Seq) : (k.updSeq .a f).win = k.win := rfl
@[simp] theorem Slot.updSeq_a_topk (k : Slot) (f : Seq → Seq) : (k.updSeq .a f).topk = k.topk := rfl
@[simp] theorem Slot.updSeq_a_v (k : Slot) (f : Seq → Seq) : (k.updSeq .a f).v = k.v := rfl
@[simp] theorem Slot.updSeq_a_m (k : Slot) (f : Seq → Seq) : (k.updSeq .a f).m = k.m := rfl
@[simp] theorem Slot.updSeq_a_mstack (k : Slot) (f : Seq → Seq) : (k.updSeq .a f).mstack = k.mstack := rfl
@[simp] theorem Slot.updSeq_a_quotaT (k : Slot) (f : Seq → Seq) : (k.updSeq .a f).quotaT = k.quotaT := rfl
@[simp] theorem Slot.updSeq_a_grantT (k : Slot) (f : Seq → Seq) : (k.updSeq .a f).grantT = k.grantT := rfl
@[simp] theorem Slot.updSeq_a_quotaA (k : Slot) (f : Seq → Seq) : (k.updSeq .a f).quotaA = k.quotaA := rfl
@[simp] theorem Slot.updSeq_a_grantA (k : Slot) (f : Seq → Seq) : (k.updSeq .a f).grantA = k.grantA := rfl
@[simp] theorem Slot.updSeq_a_grantV (k : Slot) (f : Seq → Seq) : (k.updSeq .a f).grantV = k.grantV := rfl
@[simp] theorem Slot.updSeq_a_overCap (k : Slot) (f : Seq → Seq) : (k.updSeq .a f).overCap = k.overCap := rfl
@[simp] theorem Slot.updSeq_a_fault (k : Slot) (f : Seq → Seq) : (k.updSeq .a f).fault = k.fault := rfl
@[simp] theorem Slot.updSeq_a_overcount (k : Slot) (f : Seq → Seq) : (k.updSeq .a f).overcount = k.overcount := rfl
@[simp] theorem Slot.updSeq_a_statNum (k : Slot) (f : Seq → Seq) : (k.updSeq .a f).statNum = k.statNum := rfl
@[simp] theorem Slot.updSeq_a_routeDepth (k : Slot) (f : Seq → Seq) : (k.updSeq .a f).routeDepth = k.routeDepth := rfl
@[simp] theorem Slot.updSeq_a_routeDrops (k : Slot) (f : Seq → Seq) : (k.updSeq .a f).routeDrops = k.routeDrops := rfl
@[simp] theorem Slot.updSeq_a_task (k : Slot) (f : Seq → Seq) : (k.updSeq .a f).task = k.task := rfl
@[simp] theorem Slot.updSeq_a_tin (k : Slot) (f : Seq → Seq) : (k.updSeq .a f).tin = k.tin := rfl
@[simp] theorem Slot.updSeq_a_tinUsed (k : Slot) (f : Seq → Seq) : (k.updSeq .a f).tinUsed = k.tinUsed := rfl
@[simp] theorem Slot.updSeq_a_groups (k : Slot) (f : Seq → Seq) : (k.updSeq .a f).groups = k.groups := rfl
@[simp] theorem Slot.updSeq_a_pre (k : Slot) (f : Seq → Seq) : (k.updSeq .a f).pre = k.pre := rfl
@[simp] theorem Slot.updSeq_a_ratom (k : Slot) (f : Seq → Seq) : (k.updSeq .a f).ratom = k.ratom := rfl
@[simp] theorem Slot.updSeq_a_pending (k : Slot) (f : Seq → Seq) : (k.updSeq .a f).pending = k.pending := rfl
@[simp] theorem Slot.updSeq_a_xHeld (k : Slot) (f : Seq → Seq) : (k.updSeq .a f).xHeld = k.xHeld := rfl

/-! ### `Slot.updSeq x` -/

@[simp] theorem Slot.updSeq_x_st (k : Slot) (f : Seq → Seq) : (k.updSeq .x f).st = k.st := rfl
@[simp] theorem Slot.updSeq_x_a (k : Slot) (f : Seq → Seq) : (k.updSeq .x f).a = k.a := rfl
@[simp] theorem Slot.updSeq_x_tok (k : Slot) (f : Seq → Seq) : (k.updSeq .x f).tok = k.tok := rfl
@[simp] theorem Slot.updSeq_x_dqAx (k : Slot) (f : Seq → Seq) : (k.updSeq .x f).dqAx = k.dqAx := rfl
@[simp] theorem Slot.updSeq_x_dqXa (k : Slot) (f : Seq → Seq) : (k.updSeq .x f).dqXa = k.dqXa := rfl
@[simp] theorem Slot.updSeq_x_bqAx (k : Slot) (f : Seq → Seq) : (k.updSeq .x f).bqAx = k.bqAx := rfl
@[simp] theorem Slot.updSeq_x_bqXa (k : Slot) (f : Seq → Seq) : (k.updSeq .x f).bqXa = k.bqXa := rfl
@[simp] theorem Slot.updSeq_x_cq (k : Slot) (f : Seq → Seq) : (k.updSeq .x f).cq = k.cq := rfl
@[simp] theorem Slot.updSeq_x_mq (k : Slot) (f : Seq → Seq) : (k.updSeq .x f).mq = k.mq := rfl
@[simp] theorem Slot.updSeq_x_vq (k : Slot) (f : Seq → Seq) : (k.updSeq .x f).vq = k.vq := rfl
@[simp] theorem Slot.updSeq_x_cAside (k : Slot) (f : Seq → Seq) : (k.updSeq .x f).cAside = k.cAside := rfl
@[simp] theorem Slot.updSeq_x_mAside (k : Slot) (f : Seq → Seq) : (k.updSeq .x f).mAside = k.mAside := rfl
@[simp] theorem Slot.updSeq_x_vAside (k : Slot) (f : Seq → Seq) : (k.updSeq .x f).vAside = k.vAside := rfl
@[simp] theorem Slot.updSeq_x_flight (k : Slot) (f : Seq → Seq) : (k.updSeq .x f).flight = k.flight := rfl
@[simp] theorem Slot.updSeq_x_nextCmd (k : Slot) (f : Seq → Seq) : (k.updSeq .x f).nextCmd = k.nextCmd := rfl
@[simp] theorem Slot.updSeq_x_cg (k : Slot) (f : Seq → Seq) : (k.updSeq .x f).cg = k.cg := rfl
@[simp] theorem Slot.updSeq_x_rng (k : Slot) (f : Seq → Seq) : (k.updSeq .x f).rng = k.rng := rfl
@[simp] theorem Slot.updSeq_x_locals (k : Slot) (f : Seq → Seq) : (k.updSeq .x f).locals = k.locals := rfl
@[simp] theorem Slot.updSeq_x_homes (k : Slot) (f : Seq → Seq) : (k.updSeq .x f).homes = k.homes := rfl
@[simp] theorem Slot.updSeq_x_cfg (k : Slot) (f : Seq → Seq) : (k.updSeq .x f).cfg = k.cfg := rfl
@[simp] theorem Slot.updSeq_x_acc (k : Slot) (f : Seq → Seq) : (k.updSeq .x f).acc = k.acc := rfl
@[simp] theorem Slot.updSeq_x_accTag (k : Slot) (f : Seq → Seq) : (k.updSeq .x f).accTag = k.accTag := rfl
@[simp] theorem Slot.updSeq_x_win (k : Slot) (f : Seq → Seq) : (k.updSeq .x f).win = k.win := rfl
@[simp] theorem Slot.updSeq_x_topk (k : Slot) (f : Seq → Seq) : (k.updSeq .x f).topk = k.topk := rfl
@[simp] theorem Slot.updSeq_x_v (k : Slot) (f : Seq → Seq) : (k.updSeq .x f).v = k.v := rfl
@[simp] theorem Slot.updSeq_x_m (k : Slot) (f : Seq → Seq) : (k.updSeq .x f).m = k.m := rfl
@[simp] theorem Slot.updSeq_x_mstack (k : Slot) (f : Seq → Seq) : (k.updSeq .x f).mstack = k.mstack := rfl
@[simp] theorem Slot.updSeq_x_quotaT (k : Slot) (f : Seq → Seq) : (k.updSeq .x f).quotaT = k.quotaT := rfl
@[simp] theorem Slot.updSeq_x_grantT (k : Slot) (f : Seq → Seq) : (k.updSeq .x f).grantT = k.grantT := rfl
@[simp] theorem Slot.updSeq_x_quotaA (k : Slot) (f : Seq → Seq) : (k.updSeq .x f).quotaA = k.quotaA := rfl
@[simp] theorem Slot.updSeq_x_grantA (k : Slot) (f : Seq → Seq) : (k.updSeq .x f).grantA = k.grantA := rfl
@[simp] theorem Slot.updSeq_x_grantV (k : Slot) (f : Seq → Seq) : (k.updSeq .x f).grantV = k.grantV := rfl
@[simp] theorem Slot.updSeq_x_overCap (k : Slot) (f : Seq → Seq) : (k.updSeq .x f).overCap = k.overCap := rfl
@[simp] theorem Slot.updSeq_x_fault (k : Slot) (f : Seq → Seq) : (k.updSeq .x f).fault = k.fault := rfl
@[simp] theorem Slot.updSeq_x_overcount (k : Slot) (f : Seq → Seq) : (k.updSeq .x f).overcount = k.overcount := rfl
@[simp] theorem Slot.updSeq_x_statNum (k : Slot) (f : Seq → Seq) : (k.updSeq .x f).statNum = k.statNum := rfl
@[simp] theorem Slot.updSeq_x_routeDepth (k : Slot) (f : Seq → Seq) : (k.updSeq .x f).routeDepth = k.routeDepth := rfl
@[simp] theorem Slot.updSeq_x_routeDrops (k : Slot) (f : Seq → Seq) : (k.updSeq .x f).routeDrops = k.routeDrops := rfl
@[simp] theorem Slot.updSeq_x_task (k : Slot) (f : Seq → Seq) : (k.updSeq .x f).task = k.task := rfl
@[simp] theorem Slot.updSeq_x_tin (k : Slot) (f : Seq → Seq) : (k.updSeq .x f).tin = k.tin := rfl
@[simp] theorem Slot.updSeq_x_tinUsed (k : Slot) (f : Seq → Seq) : (k.updSeq .x f).tinUsed = k.tinUsed := rfl
@[simp] theorem Slot.updSeq_x_groups (k : Slot) (f : Seq → Seq) : (k.updSeq .x f).groups = k.groups := rfl
@[simp] theorem Slot.updSeq_x_pre (k : Slot) (f : Seq → Seq) : (k.updSeq .x f).pre = k.pre := rfl
@[simp] theorem Slot.updSeq_x_ratom (k : Slot) (f : Seq → Seq) : (k.updSeq .x f).ratom = k.ratom := rfl
@[simp] theorem Slot.updSeq_x_pending (k : Slot) (f : Seq → Seq) : (k.updSeq .x f).pending = k.pending := rfl
@[simp] theorem Slot.updSeq_x_xHeld (k : Slot) (f : Seq → Seq) : (k.updSeq .x f).xHeld = k.xHeld := rfl

/-! ### `Slot.popTok` -/

@[simp] theorem Slot.popTok_st (k : Slot) (m : BitVec 8) : (k.popTok m).st = k.st := rfl
@[simp] theorem Slot.popTok_a (k : Slot) (m : BitVec 8) : (k.popTok m).a = k.a := rfl
@[simp] theorem Slot.popTok_x (k : Slot) (m : BitVec 8) : (k.popTok m).x = k.x := rfl
@[simp] theorem Slot.popTok_dqAx (k : Slot) (m : BitVec 8) : (k.popTok m).dqAx = k.dqAx := rfl
@[simp] theorem Slot.popTok_dqXa (k : Slot) (m : BitVec 8) : (k.popTok m).dqXa = k.dqXa := rfl
@[simp] theorem Slot.popTok_bqAx (k : Slot) (m : BitVec 8) : (k.popTok m).bqAx = k.bqAx := rfl
@[simp] theorem Slot.popTok_bqXa (k : Slot) (m : BitVec 8) : (k.popTok m).bqXa = k.bqXa := rfl
@[simp] theorem Slot.popTok_cq (k : Slot) (m : BitVec 8) : (k.popTok m).cq = k.cq := rfl
@[simp] theorem Slot.popTok_mq (k : Slot) (m : BitVec 8) : (k.popTok m).mq = k.mq := rfl
@[simp] theorem Slot.popTok_vq (k : Slot) (m : BitVec 8) : (k.popTok m).vq = k.vq := rfl
@[simp] theorem Slot.popTok_cAside (k : Slot) (m : BitVec 8) : (k.popTok m).cAside = k.cAside := rfl
@[simp] theorem Slot.popTok_mAside (k : Slot) (m : BitVec 8) : (k.popTok m).mAside = k.mAside := rfl
@[simp] theorem Slot.popTok_vAside (k : Slot) (m : BitVec 8) : (k.popTok m).vAside = k.vAside := rfl
@[simp] theorem Slot.popTok_flight (k : Slot) (m : BitVec 8) : (k.popTok m).flight = k.flight := rfl
@[simp] theorem Slot.popTok_nextCmd (k : Slot) (m : BitVec 8) : (k.popTok m).nextCmd = k.nextCmd := rfl
@[simp] theorem Slot.popTok_cg (k : Slot) (m : BitVec 8) : (k.popTok m).cg = k.cg := rfl
@[simp] theorem Slot.popTok_rng (k : Slot) (m : BitVec 8) : (k.popTok m).rng = k.rng := rfl
@[simp] theorem Slot.popTok_locals (k : Slot) (m : BitVec 8) : (k.popTok m).locals = k.locals := rfl
@[simp] theorem Slot.popTok_homes (k : Slot) (m : BitVec 8) : (k.popTok m).homes = k.homes := rfl
@[simp] theorem Slot.popTok_cfg (k : Slot) (m : BitVec 8) : (k.popTok m).cfg = k.cfg := rfl
@[simp] theorem Slot.popTok_acc (k : Slot) (m : BitVec 8) : (k.popTok m).acc = k.acc := rfl
@[simp] theorem Slot.popTok_accTag (k : Slot) (m : BitVec 8) : (k.popTok m).accTag = k.accTag := rfl
@[simp] theorem Slot.popTok_win (k : Slot) (m : BitVec 8) : (k.popTok m).win = k.win := rfl
@[simp] theorem Slot.popTok_topk (k : Slot) (m : BitVec 8) : (k.popTok m).topk = k.topk := rfl
@[simp] theorem Slot.popTok_v (k : Slot) (m : BitVec 8) : (k.popTok m).v = k.v := rfl
@[simp] theorem Slot.popTok_m (k : Slot) (m : BitVec 8) : (k.popTok m).m = k.m := rfl
@[simp] theorem Slot.popTok_mstack (k : Slot) (m : BitVec 8) : (k.popTok m).mstack = k.mstack := rfl
@[simp] theorem Slot.popTok_quotaT (k : Slot) (m : BitVec 8) : (k.popTok m).quotaT = k.quotaT := rfl
@[simp] theorem Slot.popTok_grantT (k : Slot) (m : BitVec 8) : (k.popTok m).grantT = k.grantT := rfl
@[simp] theorem Slot.popTok_quotaA (k : Slot) (m : BitVec 8) : (k.popTok m).quotaA = k.quotaA := rfl
@[simp] theorem Slot.popTok_grantA (k : Slot) (m : BitVec 8) : (k.popTok m).grantA = k.grantA := rfl
@[simp] theorem Slot.popTok_grantV (k : Slot) (m : BitVec 8) : (k.popTok m).grantV = k.grantV := rfl
@[simp] theorem Slot.popTok_overCap (k : Slot) (m : BitVec 8) : (k.popTok m).overCap = k.overCap := rfl
@[simp] theorem Slot.popTok_fault (k : Slot) (m : BitVec 8) : (k.popTok m).fault = k.fault := rfl
@[simp] theorem Slot.popTok_overcount (k : Slot) (m : BitVec 8) : (k.popTok m).overcount = k.overcount := rfl
@[simp] theorem Slot.popTok_statNum (k : Slot) (m : BitVec 8) : (k.popTok m).statNum = k.statNum := rfl
@[simp] theorem Slot.popTok_routeDepth (k : Slot) (m : BitVec 8) : (k.popTok m).routeDepth = k.routeDepth := rfl
@[simp] theorem Slot.popTok_routeDrops (k : Slot) (m : BitVec 8) : (k.popTok m).routeDrops = k.routeDrops := rfl
@[simp] theorem Slot.popTok_task (k : Slot) (m : BitVec 8) : (k.popTok m).task = k.task := rfl
@[simp] theorem Slot.popTok_tin (k : Slot) (m : BitVec 8) : (k.popTok m).tin = k.tin := rfl
@[simp] theorem Slot.popTok_tinUsed (k : Slot) (m : BitVec 8) : (k.popTok m).tinUsed = k.tinUsed := rfl
@[simp] theorem Slot.popTok_groups (k : Slot) (m : BitVec 8) : (k.popTok m).groups = k.groups := rfl
@[simp] theorem Slot.popTok_pre (k : Slot) (m : BitVec 8) : (k.popTok m).pre = k.pre := rfl
@[simp] theorem Slot.popTok_ratom (k : Slot) (m : BitVec 8) : (k.popTok m).ratom = k.ratom := rfl
@[simp] theorem Slot.popTok_pending (k : Slot) (m : BitVec 8) : (k.popTok m).pending = k.pending := rfl
@[simp] theorem Slot.popTok_xHeld (k : Slot) (m : BitVec 8) : (k.popTok m).xHeld = k.xHeld := rfl

/-! ### `Slot.pushTok` -/

@[simp] theorem Slot.pushTok_st (k : Slot) (m : BitVec 8) : (k.pushTok m).st = k.st := rfl
@[simp] theorem Slot.pushTok_a (k : Slot) (m : BitVec 8) : (k.pushTok m).a = k.a := rfl
@[simp] theorem Slot.pushTok_x (k : Slot) (m : BitVec 8) : (k.pushTok m).x = k.x := rfl
@[simp] theorem Slot.pushTok_dqAx (k : Slot) (m : BitVec 8) : (k.pushTok m).dqAx = k.dqAx := rfl
@[simp] theorem Slot.pushTok_dqXa (k : Slot) (m : BitVec 8) : (k.pushTok m).dqXa = k.dqXa := rfl
@[simp] theorem Slot.pushTok_bqAx (k : Slot) (m : BitVec 8) : (k.pushTok m).bqAx = k.bqAx := rfl
@[simp] theorem Slot.pushTok_bqXa (k : Slot) (m : BitVec 8) : (k.pushTok m).bqXa = k.bqXa := rfl
@[simp] theorem Slot.pushTok_cq (k : Slot) (m : BitVec 8) : (k.pushTok m).cq = k.cq := rfl
@[simp] theorem Slot.pushTok_mq (k : Slot) (m : BitVec 8) : (k.pushTok m).mq = k.mq := rfl
@[simp] theorem Slot.pushTok_vq (k : Slot) (m : BitVec 8) : (k.pushTok m).vq = k.vq := rfl
@[simp] theorem Slot.pushTok_cAside (k : Slot) (m : BitVec 8) : (k.pushTok m).cAside = k.cAside := rfl
@[simp] theorem Slot.pushTok_mAside (k : Slot) (m : BitVec 8) : (k.pushTok m).mAside = k.mAside := rfl
@[simp] theorem Slot.pushTok_vAside (k : Slot) (m : BitVec 8) : (k.pushTok m).vAside = k.vAside := rfl
@[simp] theorem Slot.pushTok_flight (k : Slot) (m : BitVec 8) : (k.pushTok m).flight = k.flight := rfl
@[simp] theorem Slot.pushTok_nextCmd (k : Slot) (m : BitVec 8) : (k.pushTok m).nextCmd = k.nextCmd := rfl
@[simp] theorem Slot.pushTok_cg (k : Slot) (m : BitVec 8) : (k.pushTok m).cg = k.cg := rfl
@[simp] theorem Slot.pushTok_rng (k : Slot) (m : BitVec 8) : (k.pushTok m).rng = k.rng := rfl
@[simp] theorem Slot.pushTok_locals (k : Slot) (m : BitVec 8) : (k.pushTok m).locals = k.locals := rfl
@[simp] theorem Slot.pushTok_homes (k : Slot) (m : BitVec 8) : (k.pushTok m).homes = k.homes := rfl
@[simp] theorem Slot.pushTok_cfg (k : Slot) (m : BitVec 8) : (k.pushTok m).cfg = k.cfg := rfl
@[simp] theorem Slot.pushTok_acc (k : Slot) (m : BitVec 8) : (k.pushTok m).acc = k.acc := rfl
@[simp] theorem Slot.pushTok_accTag (k : Slot) (m : BitVec 8) : (k.pushTok m).accTag = k.accTag := rfl
@[simp] theorem Slot.pushTok_win (k : Slot) (m : BitVec 8) : (k.pushTok m).win = k.win := rfl
@[simp] theorem Slot.pushTok_topk (k : Slot) (m : BitVec 8) : (k.pushTok m).topk = k.topk := rfl
@[simp] theorem Slot.pushTok_v (k : Slot) (m : BitVec 8) : (k.pushTok m).v = k.v := rfl
@[simp] theorem Slot.pushTok_m (k : Slot) (m : BitVec 8) : (k.pushTok m).m = k.m := rfl
@[simp] theorem Slot.pushTok_mstack (k : Slot) (m : BitVec 8) : (k.pushTok m).mstack = k.mstack := rfl
@[simp] theorem Slot.pushTok_quotaT (k : Slot) (m : BitVec 8) : (k.pushTok m).quotaT = k.quotaT := rfl
@[simp] theorem Slot.pushTok_grantT (k : Slot) (m : BitVec 8) : (k.pushTok m).grantT = k.grantT := rfl
@[simp] theorem Slot.pushTok_quotaA (k : Slot) (m : BitVec 8) : (k.pushTok m).quotaA = k.quotaA := rfl
@[simp] theorem Slot.pushTok_grantA (k : Slot) (m : BitVec 8) : (k.pushTok m).grantA = k.grantA := rfl
@[simp] theorem Slot.pushTok_grantV (k : Slot) (m : BitVec 8) : (k.pushTok m).grantV = k.grantV := rfl
@[simp] theorem Slot.pushTok_overCap (k : Slot) (m : BitVec 8) : (k.pushTok m).overCap = k.overCap := rfl
@[simp] theorem Slot.pushTok_fault (k : Slot) (m : BitVec 8) : (k.pushTok m).fault = k.fault := rfl
@[simp] theorem Slot.pushTok_overcount (k : Slot) (m : BitVec 8) : (k.pushTok m).overcount = k.overcount := rfl
@[simp] theorem Slot.pushTok_statNum (k : Slot) (m : BitVec 8) : (k.pushTok m).statNum = k.statNum := rfl
@[simp] theorem Slot.pushTok_routeDepth (k : Slot) (m : BitVec 8) : (k.pushTok m).routeDepth = k.routeDepth := rfl
@[simp] theorem Slot.pushTok_routeDrops (k : Slot) (m : BitVec 8) : (k.pushTok m).routeDrops = k.routeDrops := rfl
@[simp] theorem Slot.pushTok_task (k : Slot) (m : BitVec 8) : (k.pushTok m).task = k.task := rfl
@[simp] theorem Slot.pushTok_tin (k : Slot) (m : BitVec 8) : (k.pushTok m).tin = k.tin := rfl
@[simp] theorem Slot.pushTok_tinUsed (k : Slot) (m : BitVec 8) : (k.pushTok m).tinUsed = k.tinUsed := rfl
@[simp] theorem Slot.pushTok_groups (k : Slot) (m : BitVec 8) : (k.pushTok m).groups = k.groups := rfl
@[simp] theorem Slot.pushTok_pre (k : Slot) (m : BitVec 8) : (k.pushTok m).pre = k.pre := rfl
@[simp] theorem Slot.pushTok_ratom (k : Slot) (m : BitVec 8) : (k.pushTok m).ratom = k.ratom := rfl
@[simp] theorem Slot.pushTok_pending (k : Slot) (m : BitVec 8) : (k.pushTok m).pending = k.pending := rfl
@[simp] theorem Slot.pushTok_xHeld (k : Slot) (m : BitVec 8) : (k.pushTok m).xHeld = k.xHeld := rfl

/-! ### `Slot.setQueue copy` -/

@[simp] theorem Slot.setQueue_copy_st (k : Slot) (q : List Cmd) : (k.setQueue .copy q).st = k.st := rfl
@[simp] theorem Slot.setQueue_copy_a (k : Slot) (q : List Cmd) : (k.setQueue .copy q).a = k.a := rfl
@[simp] theorem Slot.setQueue_copy_x (k : Slot) (q : List Cmd) : (k.setQueue .copy q).x = k.x := rfl
@[simp] theorem Slot.setQueue_copy_tok (k : Slot) (q : List Cmd) : (k.setQueue .copy q).tok = k.tok := rfl
@[simp] theorem Slot.setQueue_copy_dqAx (k : Slot) (q : List Cmd) : (k.setQueue .copy q).dqAx = k.dqAx := rfl
@[simp] theorem Slot.setQueue_copy_dqXa (k : Slot) (q : List Cmd) : (k.setQueue .copy q).dqXa = k.dqXa := rfl
@[simp] theorem Slot.setQueue_copy_bqAx (k : Slot) (q : List Cmd) : (k.setQueue .copy q).bqAx = k.bqAx := rfl
@[simp] theorem Slot.setQueue_copy_bqXa (k : Slot) (q : List Cmd) : (k.setQueue .copy q).bqXa = k.bqXa := rfl
@[simp] theorem Slot.setQueue_copy_mq (k : Slot) (q : List Cmd) : (k.setQueue .copy q).mq = k.mq := rfl
@[simp] theorem Slot.setQueue_copy_vq (k : Slot) (q : List Cmd) : (k.setQueue .copy q).vq = k.vq := rfl
@[simp] theorem Slot.setQueue_copy_cAside (k : Slot) (q : List Cmd) : (k.setQueue .copy q).cAside = k.cAside := rfl
@[simp] theorem Slot.setQueue_copy_mAside (k : Slot) (q : List Cmd) : (k.setQueue .copy q).mAside = k.mAside := rfl
@[simp] theorem Slot.setQueue_copy_vAside (k : Slot) (q : List Cmd) : (k.setQueue .copy q).vAside = k.vAside := rfl
@[simp] theorem Slot.setQueue_copy_flight (k : Slot) (q : List Cmd) : (k.setQueue .copy q).flight = k.flight := rfl
@[simp] theorem Slot.setQueue_copy_nextCmd (k : Slot) (q : List Cmd) : (k.setQueue .copy q).nextCmd = k.nextCmd := rfl
@[simp] theorem Slot.setQueue_copy_cg (k : Slot) (q : List Cmd) : (k.setQueue .copy q).cg = k.cg := rfl
@[simp] theorem Slot.setQueue_copy_rng (k : Slot) (q : List Cmd) : (k.setQueue .copy q).rng = k.rng := rfl
@[simp] theorem Slot.setQueue_copy_locals (k : Slot) (q : List Cmd) : (k.setQueue .copy q).locals = k.locals := rfl
@[simp] theorem Slot.setQueue_copy_homes (k : Slot) (q : List Cmd) : (k.setQueue .copy q).homes = k.homes := rfl
@[simp] theorem Slot.setQueue_copy_cfg (k : Slot) (q : List Cmd) : (k.setQueue .copy q).cfg = k.cfg := rfl
@[simp] theorem Slot.setQueue_copy_acc (k : Slot) (q : List Cmd) : (k.setQueue .copy q).acc = k.acc := rfl
@[simp] theorem Slot.setQueue_copy_accTag (k : Slot) (q : List Cmd) : (k.setQueue .copy q).accTag = k.accTag := rfl
@[simp] theorem Slot.setQueue_copy_win (k : Slot) (q : List Cmd) : (k.setQueue .copy q).win = k.win := rfl
@[simp] theorem Slot.setQueue_copy_topk (k : Slot) (q : List Cmd) : (k.setQueue .copy q).topk = k.topk := rfl
@[simp] theorem Slot.setQueue_copy_v (k : Slot) (q : List Cmd) : (k.setQueue .copy q).v = k.v := rfl
@[simp] theorem Slot.setQueue_copy_m (k : Slot) (q : List Cmd) : (k.setQueue .copy q).m = k.m := rfl
@[simp] theorem Slot.setQueue_copy_mstack (k : Slot) (q : List Cmd) : (k.setQueue .copy q).mstack = k.mstack := rfl
@[simp] theorem Slot.setQueue_copy_quotaT (k : Slot) (q : List Cmd) : (k.setQueue .copy q).quotaT = k.quotaT := rfl
@[simp] theorem Slot.setQueue_copy_grantT (k : Slot) (q : List Cmd) : (k.setQueue .copy q).grantT = k.grantT := rfl
@[simp] theorem Slot.setQueue_copy_quotaA (k : Slot) (q : List Cmd) : (k.setQueue .copy q).quotaA = k.quotaA := rfl
@[simp] theorem Slot.setQueue_copy_grantA (k : Slot) (q : List Cmd) : (k.setQueue .copy q).grantA = k.grantA := rfl
@[simp] theorem Slot.setQueue_copy_grantV (k : Slot) (q : List Cmd) : (k.setQueue .copy q).grantV = k.grantV := rfl
@[simp] theorem Slot.setQueue_copy_overCap (k : Slot) (q : List Cmd) : (k.setQueue .copy q).overCap = k.overCap := rfl
@[simp] theorem Slot.setQueue_copy_fault (k : Slot) (q : List Cmd) : (k.setQueue .copy q).fault = k.fault := rfl
@[simp] theorem Slot.setQueue_copy_overcount (k : Slot) (q : List Cmd) : (k.setQueue .copy q).overcount = k.overcount := rfl
@[simp] theorem Slot.setQueue_copy_statNum (k : Slot) (q : List Cmd) : (k.setQueue .copy q).statNum = k.statNum := rfl
@[simp] theorem Slot.setQueue_copy_routeDepth (k : Slot) (q : List Cmd) : (k.setQueue .copy q).routeDepth = k.routeDepth := rfl
@[simp] theorem Slot.setQueue_copy_routeDrops (k : Slot) (q : List Cmd) : (k.setQueue .copy q).routeDrops = k.routeDrops := rfl
@[simp] theorem Slot.setQueue_copy_task (k : Slot) (q : List Cmd) : (k.setQueue .copy q).task = k.task := rfl
@[simp] theorem Slot.setQueue_copy_tin (k : Slot) (q : List Cmd) : (k.setQueue .copy q).tin = k.tin := rfl
@[simp] theorem Slot.setQueue_copy_tinUsed (k : Slot) (q : List Cmd) : (k.setQueue .copy q).tinUsed = k.tinUsed := rfl
@[simp] theorem Slot.setQueue_copy_groups (k : Slot) (q : List Cmd) : (k.setQueue .copy q).groups = k.groups := rfl
@[simp] theorem Slot.setQueue_copy_pre (k : Slot) (q : List Cmd) : (k.setQueue .copy q).pre = k.pre := rfl
@[simp] theorem Slot.setQueue_copy_ratom (k : Slot) (q : List Cmd) : (k.setQueue .copy q).ratom = k.ratom := rfl
@[simp] theorem Slot.setQueue_copy_pending (k : Slot) (q : List Cmd) : (k.setQueue .copy q).pending = k.pending := rfl
@[simp] theorem Slot.setQueue_copy_xHeld (k : Slot) (q : List Cmd) : (k.setQueue .copy q).xHeld = k.xHeld := rfl

/-! ### `Slot.setQueue matrix` -/

@[simp] theorem Slot.setQueue_matrix_st (k : Slot) (q : List Cmd) : (k.setQueue .matrix q).st = k.st := rfl
@[simp] theorem Slot.setQueue_matrix_a (k : Slot) (q : List Cmd) : (k.setQueue .matrix q).a = k.a := rfl
@[simp] theorem Slot.setQueue_matrix_x (k : Slot) (q : List Cmd) : (k.setQueue .matrix q).x = k.x := rfl
@[simp] theorem Slot.setQueue_matrix_tok (k : Slot) (q : List Cmd) : (k.setQueue .matrix q).tok = k.tok := rfl
@[simp] theorem Slot.setQueue_matrix_dqAx (k : Slot) (q : List Cmd) : (k.setQueue .matrix q).dqAx = k.dqAx := rfl
@[simp] theorem Slot.setQueue_matrix_dqXa (k : Slot) (q : List Cmd) : (k.setQueue .matrix q).dqXa = k.dqXa := rfl
@[simp] theorem Slot.setQueue_matrix_bqAx (k : Slot) (q : List Cmd) : (k.setQueue .matrix q).bqAx = k.bqAx := rfl
@[simp] theorem Slot.setQueue_matrix_bqXa (k : Slot) (q : List Cmd) : (k.setQueue .matrix q).bqXa = k.bqXa := rfl
@[simp] theorem Slot.setQueue_matrix_cq (k : Slot) (q : List Cmd) : (k.setQueue .matrix q).cq = k.cq := rfl
@[simp] theorem Slot.setQueue_matrix_vq (k : Slot) (q : List Cmd) : (k.setQueue .matrix q).vq = k.vq := rfl
@[simp] theorem Slot.setQueue_matrix_cAside (k : Slot) (q : List Cmd) : (k.setQueue .matrix q).cAside = k.cAside := rfl
@[simp] theorem Slot.setQueue_matrix_mAside (k : Slot) (q : List Cmd) : (k.setQueue .matrix q).mAside = k.mAside := rfl
@[simp] theorem Slot.setQueue_matrix_vAside (k : Slot) (q : List Cmd) : (k.setQueue .matrix q).vAside = k.vAside := rfl
@[simp] theorem Slot.setQueue_matrix_flight (k : Slot) (q : List Cmd) : (k.setQueue .matrix q).flight = k.flight := rfl
@[simp] theorem Slot.setQueue_matrix_nextCmd (k : Slot) (q : List Cmd) : (k.setQueue .matrix q).nextCmd = k.nextCmd := rfl
@[simp] theorem Slot.setQueue_matrix_cg (k : Slot) (q : List Cmd) : (k.setQueue .matrix q).cg = k.cg := rfl
@[simp] theorem Slot.setQueue_matrix_rng (k : Slot) (q : List Cmd) : (k.setQueue .matrix q).rng = k.rng := rfl
@[simp] theorem Slot.setQueue_matrix_locals (k : Slot) (q : List Cmd) : (k.setQueue .matrix q).locals = k.locals := rfl
@[simp] theorem Slot.setQueue_matrix_homes (k : Slot) (q : List Cmd) : (k.setQueue .matrix q).homes = k.homes := rfl
@[simp] theorem Slot.setQueue_matrix_cfg (k : Slot) (q : List Cmd) : (k.setQueue .matrix q).cfg = k.cfg := rfl
@[simp] theorem Slot.setQueue_matrix_acc (k : Slot) (q : List Cmd) : (k.setQueue .matrix q).acc = k.acc := rfl
@[simp] theorem Slot.setQueue_matrix_accTag (k : Slot) (q : List Cmd) : (k.setQueue .matrix q).accTag = k.accTag := rfl
@[simp] theorem Slot.setQueue_matrix_win (k : Slot) (q : List Cmd) : (k.setQueue .matrix q).win = k.win := rfl
@[simp] theorem Slot.setQueue_matrix_topk (k : Slot) (q : List Cmd) : (k.setQueue .matrix q).topk = k.topk := rfl
@[simp] theorem Slot.setQueue_matrix_v (k : Slot) (q : List Cmd) : (k.setQueue .matrix q).v = k.v := rfl
@[simp] theorem Slot.setQueue_matrix_m (k : Slot) (q : List Cmd) : (k.setQueue .matrix q).m = k.m := rfl
@[simp] theorem Slot.setQueue_matrix_mstack (k : Slot) (q : List Cmd) : (k.setQueue .matrix q).mstack = k.mstack := rfl
@[simp] theorem Slot.setQueue_matrix_quotaT (k : Slot) (q : List Cmd) : (k.setQueue .matrix q).quotaT = k.quotaT := rfl
@[simp] theorem Slot.setQueue_matrix_grantT (k : Slot) (q : List Cmd) : (k.setQueue .matrix q).grantT = k.grantT := rfl
@[simp] theorem Slot.setQueue_matrix_quotaA (k : Slot) (q : List Cmd) : (k.setQueue .matrix q).quotaA = k.quotaA := rfl
@[simp] theorem Slot.setQueue_matrix_grantA (k : Slot) (q : List Cmd) : (k.setQueue .matrix q).grantA = k.grantA := rfl
@[simp] theorem Slot.setQueue_matrix_grantV (k : Slot) (q : List Cmd) : (k.setQueue .matrix q).grantV = k.grantV := rfl
@[simp] theorem Slot.setQueue_matrix_overCap (k : Slot) (q : List Cmd) : (k.setQueue .matrix q).overCap = k.overCap := rfl
@[simp] theorem Slot.setQueue_matrix_fault (k : Slot) (q : List Cmd) : (k.setQueue .matrix q).fault = k.fault := rfl
@[simp] theorem Slot.setQueue_matrix_overcount (k : Slot) (q : List Cmd) : (k.setQueue .matrix q).overcount = k.overcount := rfl
@[simp] theorem Slot.setQueue_matrix_statNum (k : Slot) (q : List Cmd) : (k.setQueue .matrix q).statNum = k.statNum := rfl
@[simp] theorem Slot.setQueue_matrix_routeDepth (k : Slot) (q : List Cmd) : (k.setQueue .matrix q).routeDepth = k.routeDepth := rfl
@[simp] theorem Slot.setQueue_matrix_routeDrops (k : Slot) (q : List Cmd) : (k.setQueue .matrix q).routeDrops = k.routeDrops := rfl
@[simp] theorem Slot.setQueue_matrix_task (k : Slot) (q : List Cmd) : (k.setQueue .matrix q).task = k.task := rfl
@[simp] theorem Slot.setQueue_matrix_tin (k : Slot) (q : List Cmd) : (k.setQueue .matrix q).tin = k.tin := rfl
@[simp] theorem Slot.setQueue_matrix_tinUsed (k : Slot) (q : List Cmd) : (k.setQueue .matrix q).tinUsed = k.tinUsed := rfl
@[simp] theorem Slot.setQueue_matrix_groups (k : Slot) (q : List Cmd) : (k.setQueue .matrix q).groups = k.groups := rfl
@[simp] theorem Slot.setQueue_matrix_pre (k : Slot) (q : List Cmd) : (k.setQueue .matrix q).pre = k.pre := rfl
@[simp] theorem Slot.setQueue_matrix_ratom (k : Slot) (q : List Cmd) : (k.setQueue .matrix q).ratom = k.ratom := rfl
@[simp] theorem Slot.setQueue_matrix_pending (k : Slot) (q : List Cmd) : (k.setQueue .matrix q).pending = k.pending := rfl
@[simp] theorem Slot.setQueue_matrix_xHeld (k : Slot) (q : List Cmd) : (k.setQueue .matrix q).xHeld = k.xHeld := rfl

/-! ### `Slot.setQueue vector` -/

@[simp] theorem Slot.setQueue_vector_st (k : Slot) (q : List Cmd) : (k.setQueue .vector q).st = k.st := rfl
@[simp] theorem Slot.setQueue_vector_a (k : Slot) (q : List Cmd) : (k.setQueue .vector q).a = k.a := rfl
@[simp] theorem Slot.setQueue_vector_x (k : Slot) (q : List Cmd) : (k.setQueue .vector q).x = k.x := rfl
@[simp] theorem Slot.setQueue_vector_tok (k : Slot) (q : List Cmd) : (k.setQueue .vector q).tok = k.tok := rfl
@[simp] theorem Slot.setQueue_vector_dqAx (k : Slot) (q : List Cmd) : (k.setQueue .vector q).dqAx = k.dqAx := rfl
@[simp] theorem Slot.setQueue_vector_dqXa (k : Slot) (q : List Cmd) : (k.setQueue .vector q).dqXa = k.dqXa := rfl
@[simp] theorem Slot.setQueue_vector_bqAx (k : Slot) (q : List Cmd) : (k.setQueue .vector q).bqAx = k.bqAx := rfl
@[simp] theorem Slot.setQueue_vector_bqXa (k : Slot) (q : List Cmd) : (k.setQueue .vector q).bqXa = k.bqXa := rfl
@[simp] theorem Slot.setQueue_vector_cq (k : Slot) (q : List Cmd) : (k.setQueue .vector q).cq = k.cq := rfl
@[simp] theorem Slot.setQueue_vector_mq (k : Slot) (q : List Cmd) : (k.setQueue .vector q).mq = k.mq := rfl
@[simp] theorem Slot.setQueue_vector_cAside (k : Slot) (q : List Cmd) : (k.setQueue .vector q).cAside = k.cAside := rfl
@[simp] theorem Slot.setQueue_vector_mAside (k : Slot) (q : List Cmd) : (k.setQueue .vector q).mAside = k.mAside := rfl
@[simp] theorem Slot.setQueue_vector_vAside (k : Slot) (q : List Cmd) : (k.setQueue .vector q).vAside = k.vAside := rfl
@[simp] theorem Slot.setQueue_vector_flight (k : Slot) (q : List Cmd) : (k.setQueue .vector q).flight = k.flight := rfl
@[simp] theorem Slot.setQueue_vector_nextCmd (k : Slot) (q : List Cmd) : (k.setQueue .vector q).nextCmd = k.nextCmd := rfl
@[simp] theorem Slot.setQueue_vector_cg (k : Slot) (q : List Cmd) : (k.setQueue .vector q).cg = k.cg := rfl
@[simp] theorem Slot.setQueue_vector_rng (k : Slot) (q : List Cmd) : (k.setQueue .vector q).rng = k.rng := rfl
@[simp] theorem Slot.setQueue_vector_locals (k : Slot) (q : List Cmd) : (k.setQueue .vector q).locals = k.locals := rfl
@[simp] theorem Slot.setQueue_vector_homes (k : Slot) (q : List Cmd) : (k.setQueue .vector q).homes = k.homes := rfl
@[simp] theorem Slot.setQueue_vector_cfg (k : Slot) (q : List Cmd) : (k.setQueue .vector q).cfg = k.cfg := rfl
@[simp] theorem Slot.setQueue_vector_acc (k : Slot) (q : List Cmd) : (k.setQueue .vector q).acc = k.acc := rfl
@[simp] theorem Slot.setQueue_vector_accTag (k : Slot) (q : List Cmd) : (k.setQueue .vector q).accTag = k.accTag := rfl
@[simp] theorem Slot.setQueue_vector_win (k : Slot) (q : List Cmd) : (k.setQueue .vector q).win = k.win := rfl
@[simp] theorem Slot.setQueue_vector_topk (k : Slot) (q : List Cmd) : (k.setQueue .vector q).topk = k.topk := rfl
@[simp] theorem Slot.setQueue_vector_v (k : Slot) (q : List Cmd) : (k.setQueue .vector q).v = k.v := rfl
@[simp] theorem Slot.setQueue_vector_m (k : Slot) (q : List Cmd) : (k.setQueue .vector q).m = k.m := rfl
@[simp] theorem Slot.setQueue_vector_mstack (k : Slot) (q : List Cmd) : (k.setQueue .vector q).mstack = k.mstack := rfl
@[simp] theorem Slot.setQueue_vector_quotaT (k : Slot) (q : List Cmd) : (k.setQueue .vector q).quotaT = k.quotaT := rfl
@[simp] theorem Slot.setQueue_vector_grantT (k : Slot) (q : List Cmd) : (k.setQueue .vector q).grantT = k.grantT := rfl
@[simp] theorem Slot.setQueue_vector_quotaA (k : Slot) (q : List Cmd) : (k.setQueue .vector q).quotaA = k.quotaA := rfl
@[simp] theorem Slot.setQueue_vector_grantA (k : Slot) (q : List Cmd) : (k.setQueue .vector q).grantA = k.grantA := rfl
@[simp] theorem Slot.setQueue_vector_grantV (k : Slot) (q : List Cmd) : (k.setQueue .vector q).grantV = k.grantV := rfl
@[simp] theorem Slot.setQueue_vector_overCap (k : Slot) (q : List Cmd) : (k.setQueue .vector q).overCap = k.overCap := rfl
@[simp] theorem Slot.setQueue_vector_fault (k : Slot) (q : List Cmd) : (k.setQueue .vector q).fault = k.fault := rfl
@[simp] theorem Slot.setQueue_vector_overcount (k : Slot) (q : List Cmd) : (k.setQueue .vector q).overcount = k.overcount := rfl
@[simp] theorem Slot.setQueue_vector_statNum (k : Slot) (q : List Cmd) : (k.setQueue .vector q).statNum = k.statNum := rfl
@[simp] theorem Slot.setQueue_vector_routeDepth (k : Slot) (q : List Cmd) : (k.setQueue .vector q).routeDepth = k.routeDepth := rfl
@[simp] theorem Slot.setQueue_vector_routeDrops (k : Slot) (q : List Cmd) : (k.setQueue .vector q).routeDrops = k.routeDrops := rfl
@[simp] theorem Slot.setQueue_vector_task (k : Slot) (q : List Cmd) : (k.setQueue .vector q).task = k.task := rfl
@[simp] theorem Slot.setQueue_vector_tin (k : Slot) (q : List Cmd) : (k.setQueue .vector q).tin = k.tin := rfl
@[simp] theorem Slot.setQueue_vector_tinUsed (k : Slot) (q : List Cmd) : (k.setQueue .vector q).tinUsed = k.tinUsed := rfl
@[simp] theorem Slot.setQueue_vector_groups (k : Slot) (q : List Cmd) : (k.setQueue .vector q).groups = k.groups := rfl
@[simp] theorem Slot.setQueue_vector_pre (k : Slot) (q : List Cmd) : (k.setQueue .vector q).pre = k.pre := rfl
@[simp] theorem Slot.setQueue_vector_ratom (k : Slot) (q : List Cmd) : (k.setQueue .vector q).ratom = k.ratom := rfl
@[simp] theorem Slot.setQueue_vector_pending (k : Slot) (q : List Cmd) : (k.setQueue .vector q).pending = k.pending := rfl
@[simp] theorem Slot.setQueue_vector_xHeld (k : Slot) (q : List Cmd) : (k.setQueue .vector q).xHeld = k.xHeld := rfl

/-! ### `Slot.setAside copy` -/

@[simp] theorem Slot.setAside_copy_st (k : Slot) (q : List Cmd) : (k.setAside .copy q).st = k.st := rfl
@[simp] theorem Slot.setAside_copy_a (k : Slot) (q : List Cmd) : (k.setAside .copy q).a = k.a := rfl
@[simp] theorem Slot.setAside_copy_x (k : Slot) (q : List Cmd) : (k.setAside .copy q).x = k.x := rfl
@[simp] theorem Slot.setAside_copy_tok (k : Slot) (q : List Cmd) : (k.setAside .copy q).tok = k.tok := rfl
@[simp] theorem Slot.setAside_copy_dqAx (k : Slot) (q : List Cmd) : (k.setAside .copy q).dqAx = k.dqAx := rfl
@[simp] theorem Slot.setAside_copy_dqXa (k : Slot) (q : List Cmd) : (k.setAside .copy q).dqXa = k.dqXa := rfl
@[simp] theorem Slot.setAside_copy_bqAx (k : Slot) (q : List Cmd) : (k.setAside .copy q).bqAx = k.bqAx := rfl
@[simp] theorem Slot.setAside_copy_bqXa (k : Slot) (q : List Cmd) : (k.setAside .copy q).bqXa = k.bqXa := rfl
@[simp] theorem Slot.setAside_copy_cq (k : Slot) (q : List Cmd) : (k.setAside .copy q).cq = k.cq := rfl
@[simp] theorem Slot.setAside_copy_mq (k : Slot) (q : List Cmd) : (k.setAside .copy q).mq = k.mq := rfl
@[simp] theorem Slot.setAside_copy_vq (k : Slot) (q : List Cmd) : (k.setAside .copy q).vq = k.vq := rfl
@[simp] theorem Slot.setAside_copy_mAside (k : Slot) (q : List Cmd) : (k.setAside .copy q).mAside = k.mAside := rfl
@[simp] theorem Slot.setAside_copy_vAside (k : Slot) (q : List Cmd) : (k.setAside .copy q).vAside = k.vAside := rfl
@[simp] theorem Slot.setAside_copy_flight (k : Slot) (q : List Cmd) : (k.setAside .copy q).flight = k.flight := rfl
@[simp] theorem Slot.setAside_copy_nextCmd (k : Slot) (q : List Cmd) : (k.setAside .copy q).nextCmd = k.nextCmd := rfl
@[simp] theorem Slot.setAside_copy_cg (k : Slot) (q : List Cmd) : (k.setAside .copy q).cg = k.cg := rfl
@[simp] theorem Slot.setAside_copy_rng (k : Slot) (q : List Cmd) : (k.setAside .copy q).rng = k.rng := rfl
@[simp] theorem Slot.setAside_copy_locals (k : Slot) (q : List Cmd) : (k.setAside .copy q).locals = k.locals := rfl
@[simp] theorem Slot.setAside_copy_homes (k : Slot) (q : List Cmd) : (k.setAside .copy q).homes = k.homes := rfl
@[simp] theorem Slot.setAside_copy_cfg (k : Slot) (q : List Cmd) : (k.setAside .copy q).cfg = k.cfg := rfl
@[simp] theorem Slot.setAside_copy_acc (k : Slot) (q : List Cmd) : (k.setAside .copy q).acc = k.acc := rfl
@[simp] theorem Slot.setAside_copy_accTag (k : Slot) (q : List Cmd) : (k.setAside .copy q).accTag = k.accTag := rfl
@[simp] theorem Slot.setAside_copy_win (k : Slot) (q : List Cmd) : (k.setAside .copy q).win = k.win := rfl
@[simp] theorem Slot.setAside_copy_topk (k : Slot) (q : List Cmd) : (k.setAside .copy q).topk = k.topk := rfl
@[simp] theorem Slot.setAside_copy_v (k : Slot) (q : List Cmd) : (k.setAside .copy q).v = k.v := rfl
@[simp] theorem Slot.setAside_copy_m (k : Slot) (q : List Cmd) : (k.setAside .copy q).m = k.m := rfl
@[simp] theorem Slot.setAside_copy_mstack (k : Slot) (q : List Cmd) : (k.setAside .copy q).mstack = k.mstack := rfl
@[simp] theorem Slot.setAside_copy_quotaT (k : Slot) (q : List Cmd) : (k.setAside .copy q).quotaT = k.quotaT := rfl
@[simp] theorem Slot.setAside_copy_grantT (k : Slot) (q : List Cmd) : (k.setAside .copy q).grantT = k.grantT := rfl
@[simp] theorem Slot.setAside_copy_quotaA (k : Slot) (q : List Cmd) : (k.setAside .copy q).quotaA = k.quotaA := rfl
@[simp] theorem Slot.setAside_copy_grantA (k : Slot) (q : List Cmd) : (k.setAside .copy q).grantA = k.grantA := rfl
@[simp] theorem Slot.setAside_copy_grantV (k : Slot) (q : List Cmd) : (k.setAside .copy q).grantV = k.grantV := rfl
@[simp] theorem Slot.setAside_copy_overCap (k : Slot) (q : List Cmd) : (k.setAside .copy q).overCap = k.overCap := rfl
@[simp] theorem Slot.setAside_copy_fault (k : Slot) (q : List Cmd) : (k.setAside .copy q).fault = k.fault := rfl
@[simp] theorem Slot.setAside_copy_overcount (k : Slot) (q : List Cmd) : (k.setAside .copy q).overcount = k.overcount := rfl
@[simp] theorem Slot.setAside_copy_statNum (k : Slot) (q : List Cmd) : (k.setAside .copy q).statNum = k.statNum := rfl
@[simp] theorem Slot.setAside_copy_routeDepth (k : Slot) (q : List Cmd) : (k.setAside .copy q).routeDepth = k.routeDepth := rfl
@[simp] theorem Slot.setAside_copy_routeDrops (k : Slot) (q : List Cmd) : (k.setAside .copy q).routeDrops = k.routeDrops := rfl
@[simp] theorem Slot.setAside_copy_task (k : Slot) (q : List Cmd) : (k.setAside .copy q).task = k.task := rfl
@[simp] theorem Slot.setAside_copy_tin (k : Slot) (q : List Cmd) : (k.setAside .copy q).tin = k.tin := rfl
@[simp] theorem Slot.setAside_copy_tinUsed (k : Slot) (q : List Cmd) : (k.setAside .copy q).tinUsed = k.tinUsed := rfl
@[simp] theorem Slot.setAside_copy_groups (k : Slot) (q : List Cmd) : (k.setAside .copy q).groups = k.groups := rfl
@[simp] theorem Slot.setAside_copy_pre (k : Slot) (q : List Cmd) : (k.setAside .copy q).pre = k.pre := rfl
@[simp] theorem Slot.setAside_copy_ratom (k : Slot) (q : List Cmd) : (k.setAside .copy q).ratom = k.ratom := rfl
@[simp] theorem Slot.setAside_copy_pending (k : Slot) (q : List Cmd) : (k.setAside .copy q).pending = k.pending := rfl
@[simp] theorem Slot.setAside_copy_xHeld (k : Slot) (q : List Cmd) : (k.setAside .copy q).xHeld = k.xHeld := rfl

/-! ### `Slot.setAside matrix` -/

@[simp] theorem Slot.setAside_matrix_st (k : Slot) (q : List Cmd) : (k.setAside .matrix q).st = k.st := rfl
@[simp] theorem Slot.setAside_matrix_a (k : Slot) (q : List Cmd) : (k.setAside .matrix q).a = k.a := rfl
@[simp] theorem Slot.setAside_matrix_x (k : Slot) (q : List Cmd) : (k.setAside .matrix q).x = k.x := rfl
@[simp] theorem Slot.setAside_matrix_tok (k : Slot) (q : List Cmd) : (k.setAside .matrix q).tok = k.tok := rfl
@[simp] theorem Slot.setAside_matrix_dqAx (k : Slot) (q : List Cmd) : (k.setAside .matrix q).dqAx = k.dqAx := rfl
@[simp] theorem Slot.setAside_matrix_dqXa (k : Slot) (q : List Cmd) : (k.setAside .matrix q).dqXa = k.dqXa := rfl
@[simp] theorem Slot.setAside_matrix_bqAx (k : Slot) (q : List Cmd) : (k.setAside .matrix q).bqAx = k.bqAx := rfl
@[simp] theorem Slot.setAside_matrix_bqXa (k : Slot) (q : List Cmd) : (k.setAside .matrix q).bqXa = k.bqXa := rfl
@[simp] theorem Slot.setAside_matrix_cq (k : Slot) (q : List Cmd) : (k.setAside .matrix q).cq = k.cq := rfl
@[simp] theorem Slot.setAside_matrix_mq (k : Slot) (q : List Cmd) : (k.setAside .matrix q).mq = k.mq := rfl
@[simp] theorem Slot.setAside_matrix_vq (k : Slot) (q : List Cmd) : (k.setAside .matrix q).vq = k.vq := rfl
@[simp] theorem Slot.setAside_matrix_cAside (k : Slot) (q : List Cmd) : (k.setAside .matrix q).cAside = k.cAside := rfl
@[simp] theorem Slot.setAside_matrix_vAside (k : Slot) (q : List Cmd) : (k.setAside .matrix q).vAside = k.vAside := rfl
@[simp] theorem Slot.setAside_matrix_flight (k : Slot) (q : List Cmd) : (k.setAside .matrix q).flight = k.flight := rfl
@[simp] theorem Slot.setAside_matrix_nextCmd (k : Slot) (q : List Cmd) : (k.setAside .matrix q).nextCmd = k.nextCmd := rfl
@[simp] theorem Slot.setAside_matrix_cg (k : Slot) (q : List Cmd) : (k.setAside .matrix q).cg = k.cg := rfl
@[simp] theorem Slot.setAside_matrix_rng (k : Slot) (q : List Cmd) : (k.setAside .matrix q).rng = k.rng := rfl
@[simp] theorem Slot.setAside_matrix_locals (k : Slot) (q : List Cmd) : (k.setAside .matrix q).locals = k.locals := rfl
@[simp] theorem Slot.setAside_matrix_homes (k : Slot) (q : List Cmd) : (k.setAside .matrix q).homes = k.homes := rfl
@[simp] theorem Slot.setAside_matrix_cfg (k : Slot) (q : List Cmd) : (k.setAside .matrix q).cfg = k.cfg := rfl
@[simp] theorem Slot.setAside_matrix_acc (k : Slot) (q : List Cmd) : (k.setAside .matrix q).acc = k.acc := rfl
@[simp] theorem Slot.setAside_matrix_accTag (k : Slot) (q : List Cmd) : (k.setAside .matrix q).accTag = k.accTag := rfl
@[simp] theorem Slot.setAside_matrix_win (k : Slot) (q : List Cmd) : (k.setAside .matrix q).win = k.win := rfl
@[simp] theorem Slot.setAside_matrix_topk (k : Slot) (q : List Cmd) : (k.setAside .matrix q).topk = k.topk := rfl
@[simp] theorem Slot.setAside_matrix_v (k : Slot) (q : List Cmd) : (k.setAside .matrix q).v = k.v := rfl
@[simp] theorem Slot.setAside_matrix_m (k : Slot) (q : List Cmd) : (k.setAside .matrix q).m = k.m := rfl
@[simp] theorem Slot.setAside_matrix_mstack (k : Slot) (q : List Cmd) : (k.setAside .matrix q).mstack = k.mstack := rfl
@[simp] theorem Slot.setAside_matrix_quotaT (k : Slot) (q : List Cmd) : (k.setAside .matrix q).quotaT = k.quotaT := rfl
@[simp] theorem Slot.setAside_matrix_grantT (k : Slot) (q : List Cmd) : (k.setAside .matrix q).grantT = k.grantT := rfl
@[simp] theorem Slot.setAside_matrix_quotaA (k : Slot) (q : List Cmd) : (k.setAside .matrix q).quotaA = k.quotaA := rfl
@[simp] theorem Slot.setAside_matrix_grantA (k : Slot) (q : List Cmd) : (k.setAside .matrix q).grantA = k.grantA := rfl
@[simp] theorem Slot.setAside_matrix_grantV (k : Slot) (q : List Cmd) : (k.setAside .matrix q).grantV = k.grantV := rfl
@[simp] theorem Slot.setAside_matrix_overCap (k : Slot) (q : List Cmd) : (k.setAside .matrix q).overCap = k.overCap := rfl
@[simp] theorem Slot.setAside_matrix_fault (k : Slot) (q : List Cmd) : (k.setAside .matrix q).fault = k.fault := rfl
@[simp] theorem Slot.setAside_matrix_overcount (k : Slot) (q : List Cmd) : (k.setAside .matrix q).overcount = k.overcount := rfl
@[simp] theorem Slot.setAside_matrix_statNum (k : Slot) (q : List Cmd) : (k.setAside .matrix q).statNum = k.statNum := rfl
@[simp] theorem Slot.setAside_matrix_routeDepth (k : Slot) (q : List Cmd) : (k.setAside .matrix q).routeDepth = k.routeDepth := rfl
@[simp] theorem Slot.setAside_matrix_routeDrops (k : Slot) (q : List Cmd) : (k.setAside .matrix q).routeDrops = k.routeDrops := rfl
@[simp] theorem Slot.setAside_matrix_task (k : Slot) (q : List Cmd) : (k.setAside .matrix q).task = k.task := rfl
@[simp] theorem Slot.setAside_matrix_tin (k : Slot) (q : List Cmd) : (k.setAside .matrix q).tin = k.tin := rfl
@[simp] theorem Slot.setAside_matrix_tinUsed (k : Slot) (q : List Cmd) : (k.setAside .matrix q).tinUsed = k.tinUsed := rfl
@[simp] theorem Slot.setAside_matrix_groups (k : Slot) (q : List Cmd) : (k.setAside .matrix q).groups = k.groups := rfl
@[simp] theorem Slot.setAside_matrix_pre (k : Slot) (q : List Cmd) : (k.setAside .matrix q).pre = k.pre := rfl
@[simp] theorem Slot.setAside_matrix_ratom (k : Slot) (q : List Cmd) : (k.setAside .matrix q).ratom = k.ratom := rfl
@[simp] theorem Slot.setAside_matrix_pending (k : Slot) (q : List Cmd) : (k.setAside .matrix q).pending = k.pending := rfl
@[simp] theorem Slot.setAside_matrix_xHeld (k : Slot) (q : List Cmd) : (k.setAside .matrix q).xHeld = k.xHeld := rfl

/-! ### `Slot.setAside vector` -/

@[simp] theorem Slot.setAside_vector_st (k : Slot) (q : List Cmd) : (k.setAside .vector q).st = k.st := rfl
@[simp] theorem Slot.setAside_vector_a (k : Slot) (q : List Cmd) : (k.setAside .vector q).a = k.a := rfl
@[simp] theorem Slot.setAside_vector_x (k : Slot) (q : List Cmd) : (k.setAside .vector q).x = k.x := rfl
@[simp] theorem Slot.setAside_vector_tok (k : Slot) (q : List Cmd) : (k.setAside .vector q).tok = k.tok := rfl
@[simp] theorem Slot.setAside_vector_dqAx (k : Slot) (q : List Cmd) : (k.setAside .vector q).dqAx = k.dqAx := rfl
@[simp] theorem Slot.setAside_vector_dqXa (k : Slot) (q : List Cmd) : (k.setAside .vector q).dqXa = k.dqXa := rfl
@[simp] theorem Slot.setAside_vector_bqAx (k : Slot) (q : List Cmd) : (k.setAside .vector q).bqAx = k.bqAx := rfl
@[simp] theorem Slot.setAside_vector_bqXa (k : Slot) (q : List Cmd) : (k.setAside .vector q).bqXa = k.bqXa := rfl
@[simp] theorem Slot.setAside_vector_cq (k : Slot) (q : List Cmd) : (k.setAside .vector q).cq = k.cq := rfl
@[simp] theorem Slot.setAside_vector_mq (k : Slot) (q : List Cmd) : (k.setAside .vector q).mq = k.mq := rfl
@[simp] theorem Slot.setAside_vector_vq (k : Slot) (q : List Cmd) : (k.setAside .vector q).vq = k.vq := rfl
@[simp] theorem Slot.setAside_vector_cAside (k : Slot) (q : List Cmd) : (k.setAside .vector q).cAside = k.cAside := rfl
@[simp] theorem Slot.setAside_vector_mAside (k : Slot) (q : List Cmd) : (k.setAside .vector q).mAside = k.mAside := rfl
@[simp] theorem Slot.setAside_vector_flight (k : Slot) (q : List Cmd) : (k.setAside .vector q).flight = k.flight := rfl
@[simp] theorem Slot.setAside_vector_nextCmd (k : Slot) (q : List Cmd) : (k.setAside .vector q).nextCmd = k.nextCmd := rfl
@[simp] theorem Slot.setAside_vector_cg (k : Slot) (q : List Cmd) : (k.setAside .vector q).cg = k.cg := rfl
@[simp] theorem Slot.setAside_vector_rng (k : Slot) (q : List Cmd) : (k.setAside .vector q).rng = k.rng := rfl
@[simp] theorem Slot.setAside_vector_locals (k : Slot) (q : List Cmd) : (k.setAside .vector q).locals = k.locals := rfl
@[simp] theorem Slot.setAside_vector_homes (k : Slot) (q : List Cmd) : (k.setAside .vector q).homes = k.homes := rfl
@[simp] theorem Slot.setAside_vector_cfg (k : Slot) (q : List Cmd) : (k.setAside .vector q).cfg = k.cfg := rfl
@[simp] theorem Slot.setAside_vector_acc (k : Slot) (q : List Cmd) : (k.setAside .vector q).acc = k.acc := rfl
@[simp] theorem Slot.setAside_vector_accTag (k : Slot) (q : List Cmd) : (k.setAside .vector q).accTag = k.accTag := rfl
@[simp] theorem Slot.setAside_vector_win (k : Slot) (q : List Cmd) : (k.setAside .vector q).win = k.win := rfl
@[simp] theorem Slot.setAside_vector_topk (k : Slot) (q : List Cmd) : (k.setAside .vector q).topk = k.topk := rfl
@[simp] theorem Slot.setAside_vector_v (k : Slot) (q : List Cmd) : (k.setAside .vector q).v = k.v := rfl
@[simp] theorem Slot.setAside_vector_m (k : Slot) (q : List Cmd) : (k.setAside .vector q).m = k.m := rfl
@[simp] theorem Slot.setAside_vector_mstack (k : Slot) (q : List Cmd) : (k.setAside .vector q).mstack = k.mstack := rfl
@[simp] theorem Slot.setAside_vector_quotaT (k : Slot) (q : List Cmd) : (k.setAside .vector q).quotaT = k.quotaT := rfl
@[simp] theorem Slot.setAside_vector_grantT (k : Slot) (q : List Cmd) : (k.setAside .vector q).grantT = k.grantT := rfl
@[simp] theorem Slot.setAside_vector_quotaA (k : Slot) (q : List Cmd) : (k.setAside .vector q).quotaA = k.quotaA := rfl
@[simp] theorem Slot.setAside_vector_grantA (k : Slot) (q : List Cmd) : (k.setAside .vector q).grantA = k.grantA := rfl
@[simp] theorem Slot.setAside_vector_grantV (k : Slot) (q : List Cmd) : (k.setAside .vector q).grantV = k.grantV := rfl
@[simp] theorem Slot.setAside_vector_overCap (k : Slot) (q : List Cmd) : (k.setAside .vector q).overCap = k.overCap := rfl
@[simp] theorem Slot.setAside_vector_fault (k : Slot) (q : List Cmd) : (k.setAside .vector q).fault = k.fault := rfl
@[simp] theorem Slot.setAside_vector_overcount (k : Slot) (q : List Cmd) : (k.setAside .vector q).overcount = k.overcount := rfl
@[simp] theorem Slot.setAside_vector_statNum (k : Slot) (q : List Cmd) : (k.setAside .vector q).statNum = k.statNum := rfl
@[simp] theorem Slot.setAside_vector_routeDepth (k : Slot) (q : List Cmd) : (k.setAside .vector q).routeDepth = k.routeDepth := rfl
@[simp] theorem Slot.setAside_vector_routeDrops (k : Slot) (q : List Cmd) : (k.setAside .vector q).routeDrops = k.routeDrops := rfl
@[simp] theorem Slot.setAside_vector_task (k : Slot) (q : List Cmd) : (k.setAside .vector q).task = k.task := rfl
@[simp] theorem Slot.setAside_vector_tin (k : Slot) (q : List Cmd) : (k.setAside .vector q).tin = k.tin := rfl
@[simp] theorem Slot.setAside_vector_tinUsed (k : Slot) (q : List Cmd) : (k.setAside .vector q).tinUsed = k.tinUsed := rfl
@[simp] theorem Slot.setAside_vector_groups (k : Slot) (q : List Cmd) : (k.setAside .vector q).groups = k.groups := rfl
@[simp] theorem Slot.setAside_vector_pre (k : Slot) (q : List Cmd) : (k.setAside .vector q).pre = k.pre := rfl
@[simp] theorem Slot.setAside_vector_ratom (k : Slot) (q : List Cmd) : (k.setAside .vector q).ratom = k.ratom := rfl
@[simp] theorem Slot.setAside_vector_pending (k : Slot) (q : List Cmd) : (k.setAside .vector q).pending = k.pending := rfl
@[simp] theorem Slot.setAside_vector_xHeld (k : Slot) (q : List Cmd) : (k.setAside .vector q).xHeld = k.xHeld := rfl

/-! ### `Slot.enterHandler` -/

@[simp] theorem Slot.enterHandler_x (k : Slot) (t : Trap) (ret : Word) : (k.enterHandler t ret).x = k.x := rfl
@[simp] theorem Slot.enterHandler_tok (k : Slot) (t : Trap) (ret : Word) : (k.enterHandler t ret).tok = k.tok := rfl
@[simp] theorem Slot.enterHandler_dqAx (k : Slot) (t : Trap) (ret : Word) : (k.enterHandler t ret).dqAx = k.dqAx := rfl
@[simp] theorem Slot.enterHandler_dqXa (k : Slot) (t : Trap) (ret : Word) : (k.enterHandler t ret).dqXa = k.dqXa := rfl
@[simp] theorem Slot.enterHandler_bqAx (k : Slot) (t : Trap) (ret : Word) : (k.enterHandler t ret).bqAx = k.bqAx := rfl
@[simp] theorem Slot.enterHandler_bqXa (k : Slot) (t : Trap) (ret : Word) : (k.enterHandler t ret).bqXa = k.bqXa := rfl
@[simp] theorem Slot.enterHandler_cq (k : Slot) (t : Trap) (ret : Word) : (k.enterHandler t ret).cq = k.cq := rfl
@[simp] theorem Slot.enterHandler_mq (k : Slot) (t : Trap) (ret : Word) : (k.enterHandler t ret).mq = k.mq := rfl
@[simp] theorem Slot.enterHandler_vq (k : Slot) (t : Trap) (ret : Word) : (k.enterHandler t ret).vq = k.vq := rfl
@[simp] theorem Slot.enterHandler_cAside (k : Slot) (t : Trap) (ret : Word) : (k.enterHandler t ret).cAside = k.cAside := rfl
@[simp] theorem Slot.enterHandler_mAside (k : Slot) (t : Trap) (ret : Word) : (k.enterHandler t ret).mAside = k.mAside := rfl
@[simp] theorem Slot.enterHandler_vAside (k : Slot) (t : Trap) (ret : Word) : (k.enterHandler t ret).vAside = k.vAside := rfl
@[simp] theorem Slot.enterHandler_flight (k : Slot) (t : Trap) (ret : Word) : (k.enterHandler t ret).flight = k.flight := rfl
@[simp] theorem Slot.enterHandler_nextCmd (k : Slot) (t : Trap) (ret : Word) : (k.enterHandler t ret).nextCmd = k.nextCmd := rfl
@[simp] theorem Slot.enterHandler_cg (k : Slot) (t : Trap) (ret : Word) : (k.enterHandler t ret).cg = k.cg := rfl
@[simp] theorem Slot.enterHandler_rng (k : Slot) (t : Trap) (ret : Word) : (k.enterHandler t ret).rng = k.rng := rfl
@[simp] theorem Slot.enterHandler_locals (k : Slot) (t : Trap) (ret : Word) : (k.enterHandler t ret).locals = k.locals := rfl
@[simp] theorem Slot.enterHandler_homes (k : Slot) (t : Trap) (ret : Word) : (k.enterHandler t ret).homes = k.homes := rfl
@[simp] theorem Slot.enterHandler_cfg (k : Slot) (t : Trap) (ret : Word) : (k.enterHandler t ret).cfg = k.cfg := rfl
@[simp] theorem Slot.enterHandler_acc (k : Slot) (t : Trap) (ret : Word) : (k.enterHandler t ret).acc = k.acc := rfl
@[simp] theorem Slot.enterHandler_accTag (k : Slot) (t : Trap) (ret : Word) : (k.enterHandler t ret).accTag = k.accTag := rfl
@[simp] theorem Slot.enterHandler_win (k : Slot) (t : Trap) (ret : Word) : (k.enterHandler t ret).win = k.win := rfl
@[simp] theorem Slot.enterHandler_topk (k : Slot) (t : Trap) (ret : Word) : (k.enterHandler t ret).topk = k.topk := rfl
@[simp] theorem Slot.enterHandler_v (k : Slot) (t : Trap) (ret : Word) : (k.enterHandler t ret).v = k.v := rfl
@[simp] theorem Slot.enterHandler_m (k : Slot) (t : Trap) (ret : Word) : (k.enterHandler t ret).m = k.m := rfl
@[simp] theorem Slot.enterHandler_mstack (k : Slot) (t : Trap) (ret : Word) : (k.enterHandler t ret).mstack = k.mstack := rfl
@[simp] theorem Slot.enterHandler_quotaT (k : Slot) (t : Trap) (ret : Word) : (k.enterHandler t ret).quotaT = k.quotaT := rfl
@[simp] theorem Slot.enterHandler_grantT (k : Slot) (t : Trap) (ret : Word) : (k.enterHandler t ret).grantT = k.grantT := rfl
@[simp] theorem Slot.enterHandler_quotaA (k : Slot) (t : Trap) (ret : Word) : (k.enterHandler t ret).quotaA = k.quotaA := rfl
@[simp] theorem Slot.enterHandler_grantA (k : Slot) (t : Trap) (ret : Word) : (k.enterHandler t ret).grantA = k.grantA := rfl
@[simp] theorem Slot.enterHandler_grantV (k : Slot) (t : Trap) (ret : Word) : (k.enterHandler t ret).grantV = k.grantV := rfl
@[simp] theorem Slot.enterHandler_overCap (k : Slot) (t : Trap) (ret : Word) : (k.enterHandler t ret).overCap = k.overCap := rfl
@[simp] theorem Slot.enterHandler_overcount (k : Slot) (t : Trap) (ret : Word) : (k.enterHandler t ret).overcount = k.overcount := rfl
@[simp] theorem Slot.enterHandler_statNum (k : Slot) (t : Trap) (ret : Word) : (k.enterHandler t ret).statNum = k.statNum := rfl
@[simp] theorem Slot.enterHandler_routeDepth (k : Slot) (t : Trap) (ret : Word) : (k.enterHandler t ret).routeDepth = k.routeDepth := rfl
@[simp] theorem Slot.enterHandler_routeDrops (k : Slot) (t : Trap) (ret : Word) : (k.enterHandler t ret).routeDrops = k.routeDrops := rfl
@[simp] theorem Slot.enterHandler_task (k : Slot) (t : Trap) (ret : Word) : (k.enterHandler t ret).task = k.task := rfl
@[simp] theorem Slot.enterHandler_tin (k : Slot) (t : Trap) (ret : Word) : (k.enterHandler t ret).tin = k.tin := rfl
@[simp] theorem Slot.enterHandler_tinUsed (k : Slot) (t : Trap) (ret : Word) : (k.enterHandler t ret).tinUsed = k.tinUsed := rfl
@[simp] theorem Slot.enterHandler_groups (k : Slot) (t : Trap) (ret : Word) : (k.enterHandler t ret).groups = k.groups := rfl
@[simp] theorem Slot.enterHandler_pre (k : Slot) (t : Trap) (ret : Word) : (k.enterHandler t ret).pre = k.pre := rfl
@[simp] theorem Slot.enterHandler_ratom (k : Slot) (t : Trap) (ret : Word) : (k.enterHandler t ret).ratom = k.ratom := rfl

/-! ### `Seq.await` -/

@[simp] theorem Seq.await_g (q : Seq) (gs : List Reg) (ps : List PReg) : (q.await gs ps).g = q.g := rfl
@[simp] theorem Seq.await_p (q : Seq) (gs : List Reg) (ps : List PReg) : (q.await gs ps).p = q.p := rfl
@[simp] theorem Seq.await_pc (q : Seq) (gs : List Reg) (ps : List PReg) : (q.await gs ps).pc = q.pc := rfl
@[simp] theorem Seq.await_held (q : Seq) (gs : List Reg) (ps : List PReg) : (q.await gs ps).held = q.held := rfl
@[simp] theorem Seq.await_parked (q : Seq) (gs : List Reg) (ps : List PReg) : (q.await gs ps).parked = q.parked := rfl
@[simp] theorem Seq.await_issued (q : Seq) (gs : List Reg) (ps : List PReg) : (q.await gs ps).issued = q.issued := rfl
@[simp] theorem Seq.await_loop (q : Seq) (gs : List Reg) (ps : List PReg) : (q.await gs ps).loop = q.loop := rfl
@[simp] theorem Seq.await_drain (q : Seq) (gs : List Reg) (ps : List PReg) : (q.await gs ps).drain = q.drain := rfl
@[simp] theorem Seq.await_shaping (q : Seq) (gs : List Reg) (ps : List PReg) : (q.await gs ps).shaping = q.shaping := rfl

@[simp] theorem Seq.wr_p (q : Seq) (r : Reg) (v : Word) : (q.wr r v).p = q.p := by unfold Seq.wr; split <;> rfl
@[simp] theorem Seq.wr_pc (q : Seq) (r : Reg) (v : Word) : (q.wr r v).pc = q.pc := by unfold Seq.wr; split <;> rfl
@[simp] theorem Seq.wr_awG (q : Seq) (r : Reg) (v : Word) : (q.wr r v).awG = q.awG := by unfold Seq.wr; split <;> rfl
@[simp] theorem Seq.wr_awP (q : Seq) (r : Reg) (v : Word) : (q.wr r v).awP = q.awP := by unfold Seq.wr; split <;> rfl
@[simp] theorem Seq.wr_held (q : Seq) (r : Reg) (v : Word) : (q.wr r v).held = q.held := by unfold Seq.wr; split <;> rfl
@[simp] theorem Seq.wr_parked (q : Seq) (r : Reg) (v : Word) : (q.wr r v).parked = q.parked := by unfold Seq.wr; split <;> rfl
@[simp] theorem Seq.wr_issued (q : Seq) (r : Reg) (v : Word) : (q.wr r v).issued = q.issued := by unfold Seq.wr; split <;> rfl
@[simp] theorem Seq.wr_loop (q : Seq) (r : Reg) (v : Word) : (q.wr r v).loop = q.loop := by unfold Seq.wr; split <;> rfl
@[simp] theorem Seq.wr_drain (q : Seq) (r : Reg) (v : Word) : (q.wr r v).drain = q.drain := by unfold Seq.wr; split <;> rfl
@[simp] theorem Seq.wr_shaping (q : Seq) (r : Reg) (v : Word) : (q.wr r v).shaping = q.shaping := by unfold Seq.wr; split <;> rfl
@[simp] theorem Seq.wrP_g (q : Seq) (r : PReg) (b : Bool) : (q.wrP r b).g = q.g := by unfold Seq.wrP; split <;> rfl
@[simp] theorem Seq.wrP_pc (q : Seq) (r : PReg) (b : Bool) : (q.wrP r b).pc = q.pc := by unfold Seq.wrP; split <;> rfl
@[simp] theorem Seq.wrP_awG (q : Seq) (r : PReg) (b : Bool) : (q.wrP r b).awG = q.awG := by unfold Seq.wrP; split <;> rfl
@[simp] theorem Seq.wrP_awP (q : Seq) (r : PReg) (b : Bool) : (q.wrP r b).awP = q.awP := by unfold Seq.wrP; split <;> rfl
@[simp] theorem Seq.wrP_held (q : Seq) (r : PReg) (b : Bool) : (q.wrP r b).held = q.held := by unfold Seq.wrP; split <;> rfl
@[simp] theorem Seq.wrP_parked (q : Seq) (r : PReg) (b : Bool) : (q.wrP r b).parked = q.parked := by unfold Seq.wrP; split <;> rfl
@[simp] theorem Seq.wrP_issued (q : Seq) (r : PReg) (b : Bool) : (q.wrP r b).issued = q.issued := by unfold Seq.wrP; split <;> rfl
@[simp] theorem Seq.wrP_loop (q : Seq) (r : PReg) (b : Bool) : (q.wrP r b).loop = q.loop := by unfold Seq.wrP; split <;> rfl
@[simp] theorem Seq.wrP_drain (q : Seq) (r : PReg) (b : Bool) : (q.wrP r b).drain = q.drain := by unfold Seq.wrP; split <;> rfl
@[simp] theorem Seq.wrP_shaping (q : Seq) (r : PReg) (b : Bool) : (q.wrP r b).shaping = q.shaping := by unfold Seq.wrP; split <;> rfl

/-! ### Parts of the state after an update -/

@[simp] theorem State.slotAt_updSlot_same (s : State) (n : Nat) (f : Slot → Slot) :
    (s.updSlot n f).slotAt n = f (s.slotAt n) := SMap.get_upd_same _ _ _ _
theorem State.slotAt_updSlot_ne (s : State) {n m : Nat} (f : Slot → Slot) (h : m ≠ n) :
    (s.updSlot n f).slotAt m = s.slotAt m := SMap.get_upd_ne _ _ _ h
theorem State.slotAt_updSlot (s : State) (n m : Nat) (f : Slot → Slot) :
    (s.updSlot n f).slotAt m = if m = n then f (s.slotAt n) else s.slotAt m := by
  split
  · simp [*]
  · exact State.slotAt_updSlot_ne s f (by assumption)
@[simp] theorem State.coreAt_updCore_same (s : State) (n : Nat) (f : Core → Core) :
    (s.updCore n f).coreAt n = f (s.coreAt n) := SMap.get_upd_same _ _ _ _
theorem State.coreAt_updCore_ne (s : State) {n m : Nat} (f : Core → Core) (h : m ≠ n) :
    (s.updCore n f).coreAt m = s.coreAt m := SMap.get_upd_ne _ _ _ h
theorem State.coreAt_updCore (s : State) (n m : Nat) (f : Core → Core) :
    (s.updCore n f).coreAt m = if m = n then f (s.coreAt n) else s.coreAt m := by
  split
  · simp [*]
  · exact State.coreAt_updCore_ne s f (by assumption)
@[simp] theorem State.tenAt_updTen_same (s : State) (n : Nat) (f : Ten → Ten) :
    (s.updTen n f).tenAt n = f (s.tenAt n) := SMap.get_upd_same _ _ _ _
theorem State.tenAt_updTen_ne (s : State) {n m : Nat} (f : Ten → Ten) (h : m ≠ n) :
    (s.updTen n f).tenAt m = s.tenAt m := SMap.get_upd_ne _ _ _ h
theorem State.tenAt_updTen (s : State) (n m : Nat) (f : Ten → Ten) :
    (s.updTen n f).tenAt m = if m = n then f (s.tenAt n) else s.tenAt m := by
  split
  · simp [*]
  · exact State.tenAt_updTen_ne s f (by assumption)
@[simp] theorem State.jobAt_updJob_same (s : State) (n : Nat) (f : Job → Job) :
    (s.updJob n f).jobAt n = f (s.jobAt n) := SMap.get_upd_same _ _ _ _
theorem State.jobAt_updJob_ne (s : State) {n m : Nat} (f : Job → Job) (h : m ≠ n) :
    (s.updJob n f).jobAt m = s.jobAt m := SMap.get_upd_ne _ _ _ h
theorem State.jobAt_updJob (s : State) (n m : Nat) (f : Job → Job) :
    (s.updJob n f).jobAt m = if m = n then f (s.jobAt n) else s.jobAt m := by
  split
  · simp [*]
  · exact State.jobAt_updJob_ne s f (by assumption)
@[simp] theorem State.queueAt_updQueue_same (s : State) (n : Nat) (f : JQ → JQ) :
    (s.updQueue n f).queueAt n = f (s.queueAt n) := SMap.get_upd_same _ _ _ _
theorem State.queueAt_updQueue_ne (s : State) {n m : Nat} (f : JQ → JQ) (h : m ≠ n) :
    (s.updQueue n f).queueAt m = s.queueAt m := SMap.get_upd_ne _ _ _ h
theorem State.queueAt_updQueue (s : State) (n m : Nat) (f : JQ → JQ) :
    (s.updQueue n f).queueAt m = if m = n then f (s.queueAt n) else s.queueAt m := by
  split
  · simp [*]
  · exact State.queueAt_updQueue_ne s f (by assumption)
@[simp] theorem State.slotAt_updCore (s : State) (m : Nat) (n : Nat) (f : Core → Core) : (s.updCore n f).slotAt m = s.slotAt m := rfl
@[simp] theorem State.slotAt_updTen (s : State) (m : Nat) (n : Nat) (f : Ten → Ten) : (s.updTen n f).slotAt m = s.slotAt m := rfl
@[simp] theorem State.slotAt_updJob (s : State) (m : Nat) (n : Nat) (f : Job → Job) : (s.updJob n f).slotAt m = s.slotAt m := rfl
@[simp] theorem State.slotAt_updQueue (s : State) (m : Nat) (n : Nat) (f : JQ → JQ) : (s.updQueue n f).slotAt m = s.slotAt m := rfl
@[simp] theorem State.coreAt_updSlot (s : State) (m : Nat) (n : Nat) (f : Slot → Slot) : (s.updSlot n f).coreAt m = s.coreAt m := rfl
@[simp] theorem State.coreAt_updTen (s : State) (m : Nat) (n : Nat) (f : Ten → Ten) : (s.updTen n f).coreAt m = s.coreAt m := rfl
@[simp] theorem State.coreAt_updJob (s : State) (m : Nat) (n : Nat) (f : Job → Job) : (s.updJob n f).coreAt m = s.coreAt m := rfl
@[simp] theorem State.coreAt_updQueue (s : State) (m : Nat) (n : Nat) (f : JQ → JQ) : (s.updQueue n f).coreAt m = s.coreAt m := rfl
@[simp] theorem State.tenAt_updSlot (s : State) (m : Nat) (n : Nat) (f : Slot → Slot) : (s.updSlot n f).tenAt m = s.tenAt m := rfl
@[simp] theorem State.tenAt_updCore (s : State) (m : Nat) (n : Nat) (f : Core → Core) : (s.updCore n f).tenAt m = s.tenAt m := rfl
@[simp] theorem State.tenAt_updJob (s : State) (m : Nat) (n : Nat) (f : Job → Job) : (s.updJob n f).tenAt m = s.tenAt m := rfl
@[simp] theorem State.tenAt_updQueue (s : State) (m : Nat) (n : Nat) (f : JQ → JQ) : (s.updQueue n f).tenAt m = s.tenAt m := rfl
@[simp] theorem State.jobAt_updSlot (s : State) (m : Nat) (n : Nat) (f : Slot → Slot) : (s.updSlot n f).jobAt m = s.jobAt m := rfl
@[simp] theorem State.jobAt_updCore (s : State) (m : Nat) (n : Nat) (f : Core → Core) : (s.updCore n f).jobAt m = s.jobAt m := rfl
@[simp] theorem State.jobAt_updTen (s : State) (m : Nat) (n : Nat) (f : Ten → Ten) : (s.updTen n f).jobAt m = s.jobAt m := rfl
@[simp] theorem State.jobAt_updQueue (s : State) (m : Nat) (n : Nat) (f : JQ → JQ) : (s.updQueue n f).jobAt m = s.jobAt m := rfl
@[simp] theorem State.queueAt_updSlot (s : State) (m : Nat) (n : Nat) (f : Slot → Slot) : (s.updSlot n f).queueAt m = s.queueAt m := rfl
@[simp] theorem State.queueAt_updCore (s : State) (m : Nat) (n : Nat) (f : Core → Core) : (s.updCore n f).queueAt m = s.queueAt m := rfl
@[simp] theorem State.queueAt_updTen (s : State) (m : Nat) (n : Nat) (f : Ten → Ten) : (s.updTen n f).queueAt m = s.queueAt m := rfl
@[simp] theorem State.queueAt_updJob (s : State) (m : Nat) (n : Nat) (f : Job → Job) : (s.updJob n f).queueAt m = s.queueAt m := rfl

@[simp] theorem State.slotAt_stalled (s : State) (m : Nat) : s.stalled.slotAt m = s.slotAt m := rfl
@[simp] theorem State.coreAt_stalled (s : State) (m : Nat) : s.stalled.coreAt m = s.coreAt m := rfl
@[simp] theorem State.tenAt_stalled (s : State) (m : Nat) : s.stalled.tenAt m = s.tenAt m := rfl
@[simp] theorem State.jobAt_stalled (s : State) (m : Nat) : s.stalled.jobAt m = s.jobAt m := rfl
@[simp] theorem State.queueAt_stalled (s : State) (m : Nat) : s.stalled.queueAt m = s.queueAt m := rfl
@[simp] theorem State.slotAt_faulted (s : State) (m : Nat) : s.faulted.slotAt m = s.slotAt m := rfl
@[simp] theorem State.coreAt_faulted (s : State) (m : Nat) : s.faulted.coreAt m = s.coreAt m := rfl
@[simp] theorem State.tenAt_faulted (s : State) (m : Nat) : s.faulted.tenAt m = s.tenAt m := rfl
@[simp] theorem State.jobAt_faulted (s : State) (m : Nat) : s.faulted.jobAt m = s.jobAt m := rfl
@[simp] theorem State.queueAt_faulted (s : State) (m : Nat) : s.faulted.queueAt m = s.queueAt m := rfl
@[simp] theorem State.slotAt_jump (s : State) (a : Word) (m : Nat) : (s.jump a).slotAt m = s.slotAt m := rfl
@[simp] theorem State.coreAt_jump (s : State) (a : Word) (m : Nat) : (s.jump a).coreAt m = s.coreAt m := rfl
@[simp] theorem State.tenAt_jump (s : State) (a : Word) (m : Nat) : (s.jump a).tenAt m = s.tenAt m := rfl
@[simp] theorem State.jobAt_jump (s : State) (a : Word) (m : Nat) : (s.jump a).jobAt m = s.jobAt m := rfl
@[simp] theorem State.queueAt_jump (s : State) (a : Word) (m : Nat) : (s.jump a).queueAt m = s.queueAt m := rfl

@[simp] theorem Slot.seq_updSeq_same (k : Slot) (st : Stream) (f : Seq → Seq) : (k.updSeq st f).seq st = f (k.seq st) := by
  cases st <;> rfl
theorem Slot.seq_updSeq_ne (k : Slot) {st st' : Stream} (f : Seq → Seq) (h : st' ≠ st) :
    (k.updSeq st f).seq st' = k.seq st' := by
  cases st <;> cases st' <;> first | rfl | exact absurd rfl h
@[simp] theorem Slot.seq_popTok (k : Slot) (st : Stream) (m : BitVec 8) : (k.popTok m).seq st = k.seq st := by cases st <;> rfl
@[simp] theorem Slot.seq_pushTok (k : Slot) (st : Stream) (m : BitVec 8) : (k.pushTok m).seq st = k.seq st := by cases st <;> rfl

@[simp] theorem State.me_updMe (s : State) (f : Slot → Slot) : (s.updMe f).me = f s.me := State.slotAt_updSlot_same s _ f
@[simp] theorem State.rg_updMe (s : State) (f : Slot → Slot) (r : Reg) : (s.updMe f).rg r = s.rg r := rfl
@[simp] theorem State.rp_updMe (s : State) (f : Slot → Slot) (r : PReg) : (s.updMe f).rp r = s.rp r := rfl
@[simp] theorem State.rg_zero (s : State) : s.rg 0 = 0 := rfl
@[simp] theorem State.rp_zero (s : State) : s.rp 0 = true := rfl

/-! ### Registers -/

@[simp] theorem Seq.rd_zero (q : Seq) : q.rd 0 = 0 := rfl
@[simp] theorem Seq.wr_zero (q : Seq) (v : Word) : q.wr 0 v = q := rfl
@[simp] theorem Seq.rdP_zero (q : Seq) : q.rdP 0 = true := rfl
@[simp] theorem Seq.wrP_zero (q : Seq) (b : Bool) : q.wrP 0 b = q := rfl

theorem Seq.rd_wr_same (q : Seq) {r : Reg} (v : Word) (h : r ≠ 0) : (q.wr r v).rd r = v := by
  unfold Seq.rd Seq.wr
  rw [if_neg h, if_neg h]
  simp [Vector.get_eq_getElem]

theorem Seq.rd_wr_ne (q : Seq) {r r' : Reg} (v : Word) (h : r' ≠ r) : (q.wr r v).rd r' = q.rd r' := by
  unfold Seq.rd Seq.wr
  split
  · rfl
  · split
    · rfl
    · have : r.toNat ≠ r'.toNat := fun e => h (BitVec.eq_of_toNat_eq e.symm)
      simp [Vector.get_eq_getElem, Vector.getElem_set, this]

theorem Seq.rd_wr (q : Seq) (r r' : Reg) (v : Word) :
    (q.wr r v).rd r' = if r' = r ∧ r ≠ 0 then v else q.rd r' := by
  split
  · rename_i h
    rw [h.1, Seq.rd_wr_same q v h.2]
  · rename_i h
    by_cases h0 : r = 0
    · rw [h0]; rfl
    · exact Seq.rd_wr_ne q v fun e => h ⟨e, h0⟩

theorem Seq.rdP_wrP_same (q : Seq) {r : PReg} (b : Bool) (h : r ≠ 0) : (q.wrP r b).rdP r = b := by
  have hr : r.toNat < 8 := r.isLt
  have h0 : (r == 0) = false := by simpa using h
  unfold Seq.rdP Seq.wrP
  rw [if_neg h, h0]
  cases b <;> simp [hr]

theorem Seq.rdP_wrP_ne (q : Seq) {r r' : PReg} (b : Bool) (h : r' ≠ r) : (q.wrP r b).rdP r' = q.rdP r' := by
  have hr : r'.toNat < 8 := r'.isLt
  have hne : r'.toNat ≠ r.toNat := fun e => h (BitVec.eq_of_toNat_eq e)
  have hne' : r.toNat ≠ r'.toNat := hne.symm
  unfold Seq.rdP Seq.wrP
  split
  · rfl
  · cases b <;> simp [hr, hne, hne', BitVec.getElem_twoPow]

theorem Seq.rdP_wrP (q : Seq) (r r' : PReg) (b : Bool) :
    (q.wrP r b).rdP r' = if r' = r ∧ r ≠ 0 then b else q.rdP r' := by
  split
  · rename_i h
    rw [h.1, Seq.rdP_wrP_same q b h.2]
  · rename_i h
    by_cases h0 : r = 0
    · rw [h0]; rfl
    · exact Seq.rdP_wrP_ne q b fun e => h ⟨e, h0⟩

end Sys2Proof.Machine
end

