-- ==== Sys2Proof/Laws/Fault.lean ====
section
/-! SUPPORT. Laws of the shared operations that take a fault, return from a handler, and move entries of an engine queue:
what each does and what it leaves. -/

namespace Sys2Proof

open Machine

/-! ### Engine queues -/

@[simp] theorem queue_setQueue (k : Slot) (e : Engine) (q : List Cmd) : (k.setQueue e q).queue e = q := by cases e <;> rfl

theorem queue_setQueue_ne (k : Slot) {e e' : Engine} (q : List Cmd) (h : e' ≠ e) : (k.setQueue e q).queue e' = k.queue e' := by
  cases e <;> cases e' <;> first | rfl | exact absurd rfl h

@[simp] theorem aside_setQueue (k : Slot) (e e' : Engine) (q : List Cmd) : (k.setQueue e q).aside e' = k.aside e' := by
  cases e <;> cases e' <;> rfl

@[simp] theorem aside_setAside (k : Slot) (e : Engine) (q : List Cmd) : (k.setAside e q).aside e = q := by cases e <;> rfl

theorem aside_setAside_ne (k : Slot) {e e' : Engine} (q : List Cmd) (h : e' ≠ e) : (k.setAside e q).aside e' = k.aside e' := by
  cases e <;> cases e' <;> first | rfl | exact absurd rfl h

@[simp] theorem queue_setAside (k : Slot) (e e' : Engine) (q : List Cmd) : (k.setAside e q).queue e' = k.queue e' := by
  cases e <;> cases e' <;> rfl

/-- A push: the command with its number stands at the tail of the queue, or of what is set aside (R10, R52). -/
theorem push_entries (k : Slot) (e : Engine) (c : Cmd) :
    ((k.push e c).queue e = k.queue e ++ [{ c with num := k.nextCmd }] ∧ (k.push e c).aside e = k.aside e) ∨
    (k.aside e ≠ [] ∧ k.fault.handler = false ∧ (k.push e c).queue e = k.queue e ∧
      (k.push e c).aside e = k.aside e ++ [{ c with num := k.nextCmd }]) := by
  unfold Slot.push
  dsimp only
  split
  · rename_i h
    refine .inr ⟨?_, ?_, ?_, ?_⟩
    · intro h0
      cases e <;> simp_all [Slot.aside]
    · cases hk : k.fault.handler <;> simp_all
    · cases e <;> rfl
    · cases e <;> rfl
  · exact .inl ⟨by cases e <;> rfl, by cases e <;> rfl⟩

/-- A push leaves the other engines' queues, both sequencers, the tokens and the fault registers. -/
theorem push_rest (k : Slot) (e : Engine) (c : Cmd) :
    (k.push e c).a = k.a ∧ (k.push e c).x = k.x ∧ (k.push e c).tok = k.tok ∧ (k.push e c).fault = k.fault ∧
    (k.push e c).st = k.st ∧ (k.push e c).pending = k.pending := by
  unfold Slot.push
  dsimp only
  split <;> cases e <;> exact ⟨rfl, rfl, rfl, rfl, rfl, rfl⟩

/-! ### Entering a handler and returning from it -/

/-- The entry (R170): the fault registers, A-seq's place, and X-seq's hold. -/
theorem enterHandler_saves (k : Slot) (t : Trap) (ret : Word) :
    (k.enterHandler t ret).fault = ⟨t.cause, t.addr, t.pc, faultInfo t, ret, true⟩ ∧
    (k.enterHandler t ret).a.pc = k.task.handler ∧ (k.enterHandler t ret).xHeld = true := ⟨rfl, rfl, rfl⟩

/-- The entry leaves every register of both sequencers, the tokens, the queues and the engines' state. -/
theorem enterHandler_keeps (k : Slot) (t : Trap) (ret : Word) :
    (k.enterHandler t ret).a.g = k.a.g ∧ (k.enterHandler t ret).a.p = k.a.p ∧ (k.enterHandler t ret).x = k.x ∧
    (k.enterHandler t ret).tok = k.tok ∧ (∀ e, (k.enterHandler t ret).queue e = k.queue e) ∧
    (∀ e, (k.enterHandler t ret).aside e = k.aside e) ∧ (k.enterHandler t ret).acc = k.acc ∧
    (k.enterHandler t ret).v = k.v ∧ (k.enterHandler t ret).m = k.m ∧ (k.enterHandler t ret).task = k.task :=
  ⟨rfl, rfl, rfl, rfl, fun e => by cases e <;> rfl, fun e => by cases e <;> rfl, rfl, rfl, rfl, rfl⟩

/-- The return (R172) leaves handler mode and the other fault registers, A-seq and X-seq as they stand. -/
theorem leaveHandler_fault (k : Slot) : k.leaveHandler.fault = { k.fault with handler := false } ∧
    k.leaveHandler.a = k.a ∧ k.leaveHandler.x = k.x := by
  unfold Slot.leaveHandler Slot.returnAside
  dsimp only
  refine ⟨rfl, ?_, ?_⟩ <;> (repeat' split) <;> rfl

/-- With no fault pending the return gives every entry set aside back to its queue, in order, behind what the handler pushed. -/
theorem leaveHandler_returns (k : Slot) (h : k.pending = []) (e : Engine) :
    k.leaveHandler.queue e = k.queue e ++ k.aside e ∧ k.leaveHandler.aside e = [] := by
  unfold Slot.leaveHandler Slot.returnAside
  simp only [h, List.any_nil]
  cases e <;> exact ⟨rfl, rfl⟩

/-! ### Taking a fault -/

/-- A cause that is not routed kills the task, but for CAPACITY and KAT_MISMATCH (R317). -/
theorem takeFault_kills (s : State) (slot : Nat) (t : Trap) (ret : Word) (h : (s.slotAt slot).routes t.cause = false)
    (h1 : t.cause ≠ cCAPACITY) (h2 : t.cause ≠ cKAT) : s.takeFault slot t ret = s.killTask slot t.cause t.reason := by
  unfold State.takeFault
  rw [if_neg (by rw [h]; decide), if_neg h1, if_neg h2]

/-- A CAPACITY that is not routed changes nothing (R68). -/
theorem takeFault_capacity (s : State) (slot : Nat) (t : Trap) (ret : Word) (h : (s.slotAt slot).routes t.cause = false)
    (h1 : t.cause = cCAPACITY) : s.takeFault slot t ret = s := by
  unfold State.takeFault
  rw [if_neg (by rw [h]; decide), if_pos h1]

/-- A cause that is routed enters the handler, after the slot has left what it waits for (R170). -/
theorem takeFault_routed (s : State) (slot : Nat) (t : Trap) (ret : Word) (h : (s.slotAt slot).routes t.cause = true) :
    s.takeFault slot t ret = ((s.leaveWaits slot).withdraw slot).updSlot slot fun k => k.enterHandler t ret := by
  unfold State.takeFault
  rw [if_pos h]

/-- A raised fault stands last among the pending ones, and nothing else of the slot changes (R170). -/
theorem raise_slotAt (s : State) (slot : Nat) (t : Trap) : (s.raise slot t).slotAt slot =
    { s.slotAt slot with pending := (s.slotAt slot).pending ++ [t] } := by
  unfold State.raise
  simp

/-- A head fault empties the engine's queue into what is set aside, in order, and raises the fault (R52, R201). -/
theorem headFault_slotAt (s : State) (slot : Nat) (e : Engine) (c : Cmd) (b : Bad) :
    ((s.headFault slot e c b).slotAt slot).queue e = [] ∧
    ((s.headFault slot e c b).slotAt slot).aside e = (s.slotAt slot).queue e ++ (s.slotAt slot).aside e ∧
    ((s.headFault slot e c b).slotAt slot).pending = (s.slotAt slot).pending ++
      [{ cause := b.cause, reason := b.reason, addr := b.addr, pc := c.pc, source := srcOfEngine e, itag := c.hdr.itag }] := by
  unfold State.headFault
  rw [raise_slotAt]
  simp only [State.slotAt_updSlot_same]
  cases e <;> exact ⟨rfl, rfl, rfl⟩

end Sys2Proof
end

