-- ==== Sys2Proof/Laws/Issue.lean ====
section
/-! SUPPORT. What the shared operations of issue can do: the gates, the retirement of an instruction, and the pushing of an
engine command. -/

namespace Sys2Proof

open Machine

/-! ### Gates -/

theorem gate_open {s : State} {h : Hdr} {gs : List Reg} {ps : List PReg} (r : Ready s h gs ps) : s.gate h gs ps = .open_ := by
  simp [State.gate, r.queues, r.regs, r.tokens]

theorem ready_of_gate {s : State} {h : Hdr} {gs : List Reg} {ps : List PReg} (g : s.gate h gs ps = .open_) :
    Ready s h gs ps := by
  unfold State.gate at g
  split at g
  · cases g
  · split at g
    · cases g
    · rename_i h1 h2
      simp only [Bool.not_eq_true, Bool.not_eq_false', Bool.or_eq_false_iff] at h1 h2
      exact ⟨by simpa using h1, h2.1, by simpa using h2.2⟩

theorem engGate_open {s : State} {e : Engine} {h : Hdr} {gs : List Reg} {ps : List PReg} (r : EngReady s e h gs ps) :
    s.engGate e h gs ps = .open_ := by
  have hh : (e != .copy && s.me.a.shaping) = false := by
    rcases r.held with he | he
    · subst he; rfl
    · simp [he]
  simp only [State.engGate, r.queues, r.regs, r.room, hh, Bool.not_true, Bool.or_false]
  rfl

/-- What a sequencer instruction answers, by what its body makes of the state. -/
theorem issueSeq_ready {s : State} {h : Hdr} {gs : List Reg} {ps : List PReg} (body : State → Body) (r : Ready s h gs ps) :
    s.issueSeq h gs ps body =
      match body s with
      | .done t => .next (t.retire h)
      | .served t => .next { t with cur := { t.cur with went := .retired } }
      | .stall t => .next t.stalled
      | .bad b => .next (s.issueFault b 0 s.cur.pc)
      | .badWith t b => .next (t.issueFault b 0 s.cur.pc)
      | .void pa => .fault (.noMemory pa) := by
  unfold State.issueSeq
  rw [gate_open r]
  all_goals rfl

theorem issuePure_ready {s : State} {h : Hdr} {gs : List Reg} {ps : List PReg} (f : State → State) (r : Ready s h gs ps) :
    s.issuePure h gs ps f = .next ((f s).retire h) := by
  unfold State.issuePure
  rw [issueSeq_ready _ r]

/-- What an engine instruction answers, by what its checks at issue come to. -/
theorem issueEng_ready {s : State} {e : Engine} {h : Hdr} {gs : List Reg} {ps : List PReg} {ws : List Reg} {wps : List PReg}
    (mk : State → Pushed) (r : EngReady s e h gs ps) :
    s.issueEng e h gs ps ws wps mk =
      match mk s with
      | .cmd t c =>
        .next (((t.updMe fun k => k.push e c).updSeq s.cur.slot s.cur.st fun q => q.await ws wps).retire (bareHdr h))
      | .stall t => .next t.stalled
      | .bad b => .next (s.issueFault b 0 s.cur.pc)
      | .void pa => .fault (.noMemory pa) := by
  unfold State.issueEng
  rw [engGate_open r]
  all_goals rfl

/-! ### Tokens -/

theorem get_popTok (k : Slot) (m : BitVec 8) (i : Fin 8) : (k.popTok m).tok.get i = k.tok.get i - bitCount m i := by
  unfold Slot.popTok bitCount
  simp only [Vector.get_ofFn]
  split <;> simp

theorem get_pushTok (k : Slot) (m : BitVec 8) (i : Fin 8) : (k.pushTok m).tok.get i = k.tok.get i + bitCount m i := by
  unfold Slot.pushTok bitCount
  simp only [Vector.get_ofFn]
  split <;> simp

theorem sigFits_iff (k : Slot) (h : Hdr) : SigFits k h ↔ (k.popTok h.wait).tokFits h.sig = true := by
  unfold SigFits Slot.tokFits
  simp only [List.all_eq_true, List.mem_finRange, true_implies, Bool.or_eq_true, Bool.not_eq_true', decide_eq_true_eq,
    get_popTok]
  refine forall_congr' fun i => ?_
  cases h.sig.getLsbD i <;> simp

/-! ### Retirement -/

/-- The sequencer after `Slot.finish`. -/
structure Finished (q q' : Seq) (st : Stream) (h : Hdr) (next : Word) : Prop where
  g : q'.g = q.g
  p : q'.p = q.p
  pc : q'.pc = next
  awG : q'.awG = q.awG
  awP : q'.awP = q.awP
  issued : q'.issued = if st = .a ∨ h.stop = true then q.issued + 1 else q.issued

theorem signal_seq (k : Slot) (st : Stream) (sig : BitVec 8) :
    (k.signal st sig).seq st = k.seq st ∨ (k.signal st sig).seq st = { k.seq st with held := (k.seq st).held ++ [sig] } := by
  unfold Slot.signal
  split
  · exact .inl rfl
  · split
    · exact .inl (by simp)
    · exact .inr (by simp)

theorem signal_other (k : Slot) {st st' : Stream} (sig : BitVec 8) (h : st' ≠ st) : (k.signal st sig).seq st' = k.seq st' := by
  unfold Slot.signal
  split
  · rfl
  · split
    · simp
    · exact Slot.seq_updSeq_ne _ _ h

theorem signal_rest (k : Slot) (st : Stream) (sig : BitVec 8) :
    { k.signal st sig with tok := k.tok, a := k.a, x := k.x } = k := by
  unfold Slot.signal
  split
  · rfl
  · split
    · rfl
    · cases st <;> rfl

theorem signal_fits {k : Slot} {st : Stream} {sig : BitVec 8} (h : k.tokFits sig = true) :
    (k.signal st sig).seq st = k.seq st ∧ ∀ i, (k.signal st sig).tok.get i = k.tok.get i + bitCount sig i := by
  unfold Slot.signal
  split
  · rename_i h0
    subst h0
    exact ⟨rfl, fun i => by simp [bitCount]⟩
  · exact ⟨by simp, fun i => by rw [get_pushTok]⟩

theorem signal_full {k : Slot} {st : Stream} {sig : BitVec 8} (h : ¬ k.tokFits sig = true) :
    (k.signal st sig).seq st = { k.seq st with held := (k.seq st).held ++ [sig] } ∧ (k.signal st sig).tok = k.tok := by
  unfold Slot.signal
  split
  · rename_i h0
    subst h0
    exact absurd (by simp [Slot.tokFits]) h
  · exact ⟨by simp, by cases st <;> rfl⟩

theorem finish_seq (k : Slot) (st : Stream) (h : Hdr) (pc next : Word) :
    Finished (k.seq st) ((k.finish st h pc next).seq st) st h next := by
  unfold Slot.finish
  rcases signal_seq ((k.popTok h.wait).updSeq st _) st h.sig with e | e <;> rw [e] <;>
    constructor <;> simp [Slot.seq_updSeq_same]

theorem finish_other (k : Slot) {st st' : Stream} (h : Hdr) (pc next : Word) (hne : st' ≠ st) :
    (k.finish st h pc next).seq st' = k.seq st' := by
  unfold Slot.finish
  rw [signal_other _ _ hne, Slot.seq_updSeq_ne _ _ hne, Slot.seq_popTok]

theorem finish_rest (k : Slot) (st : Stream) (h : Hdr) (pc next : Word) :
    { k.finish st h pc next with tok := k.tok, a := k.a, x := k.x } = k := by
  unfold Slot.finish
  have := signal_rest ((k.popTok h.wait).updSeq st fun q =>
    { q with
      pc := next
      issued := if st = .a || h.stop then q.issued + 1 else q.issued
      parked := false
      drain := if st = .a || h.stop then none else q.drain
      shaping := false
      loop := { q.loop with trail := (pc :: q.loop.trail).take 64 } }) st h.sig
  have h2 := congrArg (fun z : Slot => { z with tok := k.tok, a := k.a, x := k.x }) this
  refine h2.trans ?_
  cases st <;> rfl

theorem tokFits_updSeq (k : Slot) (st : Stream) (f : Seq → Seq) (m : BitVec 8) : (k.updSeq st f).tokFits m = k.tokFits m := by
  cases st <;> rfl

theorem tok_updSeq (k : Slot) (st : Stream) (f : Seq → Seq) : (k.updSeq st f).tok = k.tok := by cases st <;> rfl

theorem finish_tokens (k : Slot) (st : Stream) (h : Hdr) (pc next : Word) : Tokens k (k.finish st h pc next) h := by
  constructor
  · intro hf i
    have hf' := (sigFits_iff k h).1 hf
    unfold Slot.finish
    rw [(signal_fits (by rw [tokFits_updSeq]; exact hf')).2 i, tok_updSeq, get_popTok]
  · intro hf i
    have hf' : ¬ (k.popTok h.wait).tokFits h.sig = true := fun e => hf ((sigFits_iff k h).2 e)
    unfold Slot.finish
    rw [(signal_full (by rw [tokFits_updSeq]; exact hf')).2, tok_updSeq, get_popTok]

theorem finish_held_fits {k : Slot} {h : Hdr} (hf : SigFits k h) (st : Stream) (pc next : Word) :
    ((k.finish st h pc next).seq st).held = (k.seq st).held := by
  unfold Slot.finish
  rw [(signal_fits (by rw [tokFits_updSeq]; exact (sigFits_iff k h).1 hf)).1]
  simp

theorem finish_held_full {k : Slot} {h : Hdr} (hf : ¬ SigFits k h) (st : Stream) (pc next : Word) :
    ((k.finish st h pc next).seq st).held = (k.seq st).held ++ [h.sig] := by
  unfold Slot.finish
  rw [(signal_full (by rw [tokFits_updSeq]; exact fun e => hf ((sigFits_iff k h).2 e))).1]
  simp

/-- What the body of a sequencer instruction made of the state before its retirement: only the sequencer in issue, and in it
only `g` and `p`. -/
structure Body.Wrote (s u : State) (g : Option (Reg × Word)) (p : Option (PReg × Bool)) : Prop where
  slot : u.cur.slot = s.cur.slot
  st : u.cur.st = s.cur.st
  tok : u.me.tok = s.me.tok
  regs : ∀ r, u.mySeq.rd r = regAfter g r (s.mySeq.rd r)
  preds : ∀ r, u.mySeq.rdP r = predAfter p r (s.mySeq.rdP r)
  awG : u.mySeq.awG = s.mySeq.awG
  awP : u.mySeq.awP = s.mySeq.awP
  issued : u.mySeq.issued = s.mySeq.issued
  held : u.mySeq.held = s.mySeq.held

theorem sigFits_congr {k k' : Slot} (h : Hdr) (e : k'.tok = k.tok) : SigFits k' h ↔ SigFits k h := by
  unfold SigFits; rw [e]

/-- What retirement makes of the slot in issue. -/
def retiredSlot (u : State) (h : Hdr) (k : Slot) : Slot :=
  (k.finish u.cur.st h u.cur.pc u.cur.next).updSeq u.cur.st fun q =>
    if u.cur.taken then { q with loop := { q.loop with trail := [] } } else q

/-- The slot of an instruction after its retirement. -/
theorem retire_slotAt (u : State) (h : Hdr) : (u.retire h).slotAt u.cur.slot =
    (u.me.finish u.cur.st h u.cur.pc u.cur.next).updSeq u.cur.st fun q =>
      if u.cur.taken then { q with loop := { q.loop with trail := [] } } else q := by
  exact State.slotAt_updSlot_same u u.cur.slot (retiredSlot u h)

theorem retire_slotAt_ne (u : State) (h : Hdr) {n : Nat} (hn : n ≠ u.cur.slot) : (u.retire h).slotAt n = u.slotAt n := by
  exact State.slotAt_updSlot_ne u (retiredSlot u h) hn

theorem ite_trail (q : Seq) (b : Bool) :
    let q' := if b then { q with loop := { q.loop with trail := [] } } else q
    q'.g = q.g ∧ q'.p = q.p ∧ q'.pc = q.pc ∧ q'.awG = q.awG ∧ q'.awP = q.awP ∧ q'.issued = q.issued ∧ q'.held = q.held := by
  cases b <;> simp

theorem rd_congr {q q' : Seq} (e : q'.g = q.g) (r : Reg) : q'.rd r = q.rd r := by unfold Seq.rd; rw [e]
theorem rdP_congr {q q' : Seq} (e : q'.p = q.p) (r : PReg) : q'.rdP r = q.rdP r := by unfold Seq.rdP; rw [e]

/-- What the retirement of an instruction does (R12, R150). -/
theorem retired_of_wrote {s u : State} {h : Hdr} {g : Option (Reg × Word)} {p : Option (PReg × Bool)} (w : Body.Wrote s u g p) :
    Retired s (u.retire h) h u.cur.next g p := by
  have hs : (u.retire h).seqOf s = (if u.cur.taken then
      { (u.me.finish u.cur.st h u.cur.pc u.cur.next).seq u.cur.st with
        loop := { ((u.me.finish u.cur.st h u.cur.pc u.cur.next).seq u.cur.st).loop with trail := [] } }
      else (u.me.finish u.cur.st h u.cur.pc u.cur.next).seq u.cur.st) := by
    unfold State.seqOf State.slotOf
    rw [← w.slot, ← w.st, retire_slotAt, Slot.seq_updSeq_same]
  have hk : ((u.retire h).slotOf s).tok = (u.me.finish u.cur.st h u.cur.pc u.cur.next).tok := by
    unfold State.slotOf
    rw [← w.slot, retire_slotAt, tok_updSeq]
  have f := finish_seq u.me u.cur.st h u.cur.pc u.cur.next
  obtain ⟨e1, e2, e3, e4, e5, e6, e7⟩ := ite_trail ((u.me.finish u.cur.st h u.cur.pc u.cur.next).seq u.cur.st) u.cur.taken
  have tk := finish_tokens u.me u.cur.st h u.cur.pc u.cur.next
  have hsig := sigFits_congr (k := s.me) (k' := u.me) h w.tok
  refine ⟨rfl, ?_, ?_, ?_, ?_, ?_, ?_, ⟨?_, ?_⟩, ?_, ?_⟩
  · rw [hs, e3, f.pc]
  · intro r
    rw [hs, rd_congr (e1.trans f.g)]
    exact w.regs r
  · intro r
    rw [hs, rdP_congr (e2.trans f.p)]
    exact w.preds r
  · rw [hs, e4, f.awG]; exact w.awG
  · rw [hs, e5, f.awP]; exact w.awP
  · rw [hs, e6, f.issued, w.st]
    have := w.issued
    unfold State.mySeq at this ⊢
    rw [w.st] at this
    rw [this]
  · intro hf i
    rw [hk, tk.fits (hsig.2 hf) i, w.tok]
  · intro hf i
    rw [hk, tk.full (fun e => hf (hsig.1 e)) i, w.tok]
  · intro hf
    rw [hs, e7, finish_held_fits (hsig.2 hf)]
    exact w.held
  · intro hf
    rw [hs, e7, finish_held_full (fun e => hf (hsig.1 e))]
    exact congrArg (· ++ [h.sig]) w.held

/-- Retirement changes nothing outside the slot in issue. -/
theorem retire_onlySlot {s u : State} (h : Hdr) (o : OnlySlot s u) (hs : u.cur.slot = s.cur.slot) : OnlySlot s (u.retire h) := by
  refine ⟨?_, fun n hn => ?_⟩
  · exact o.package
  · rw [retire_slotAt_ne u h (by rw [hs]; exact hn)]
    exact o.slots n hn

/-- Retirement changes no more than the sequencer in issue and the tokens. -/
theorem retire_slotAs {s u : State} {k : Slot} (h : Hdr) (o : SlotAs s u k) (hs : u.cur.slot = s.cur.slot)
    (ht : u.cur.st = s.cur.st) : SlotAs s (u.retire h) k := by
  have hk : (u.retire h).slotOf s = (u.me.finish u.cur.st h u.cur.pc u.cur.next).updSeq u.cur.st fun q =>
      if u.cur.taken then { q with loop := { q.loop with trail := [] } } else q := by
    unfold State.slotOf
    rw [← hs, retire_slotAt]
  refine ⟨retire_onlySlot h o.toOnlySlot hs, ?_, ?_⟩
  · rw [hk]
    have h1 := finish_rest u.me u.cur.st h u.cur.pc u.cur.next
    have h2 : { u.me with tok := k.tok, a := k.a, x := k.x } = k := by
      have := o.slot
      unfold State.slotOf at this
      rw [← hs] at this
      exact this
    have h3 := congrArg (fun z : Slot => { z with tok := k.tok, a := k.a, x := k.x }) h1
    refine Eq.trans ?_ (h3.trans h2)
    cases u.cur.st <;> rfl
  · intro st hst
    rw [hk, Slot.seq_updSeq_ne _ _ (by rw [ht]; exact hst), finish_other _ _ _ _ (by rw [ht]; exact hst)]
    have := o.other st hst
    unfold State.slotOf at this
    rw [← hs] at this
    exact this

theorem onlyIssuer_refl (s : State) : OnlyIssuer s s := ⟨⟨rfl, fun _ _ => rfl⟩, rfl, fun _ _ => rfl⟩

theorem onlyIssuer_updSeq (s : State) (f : Seq → Seq) : OnlyIssuer s (s.updSeq s.cur.slot s.cur.st f) := by
  have hk : (s.updSeq s.cur.slot s.cur.st f).slotOf s = s.me.updSeq s.cur.st f := State.slotAt_updSlot_same s _ _
  refine ⟨⟨rfl, fun n hn => State.slotAt_updSlot_ne s _ hn⟩, ?_, ?_⟩
  · rw [hk]; cases s.cur.st <;> rfl
  · intro st hst
    rw [hk]; exact Slot.seq_updSeq_ne _ _ hst

theorem wrote_refl (s : State) : Body.Wrote s s none none :=
  ⟨rfl, rfl, rfl, fun _ => rfl, fun _ => rfl, rfl, rfl, rfl, rfl⟩

theorem mySeq_updSeq (s : State) (f : Seq → Seq) : (s.updSeq s.cur.slot s.cur.st f).mySeq = f s.mySeq := by
  unfold State.mySeq State.me State.updSeq
  simp

theorem wrote_wg (s : State) (d : Reg) (v : Word) : Body.Wrote s (s.wg d v) (some (d, v)) none := by
  have e : (s.wg d v).mySeq = s.mySeq.wr d v := mySeq_updSeq s _
  refine ⟨rfl, rfl, ?_, ?_, ?_, ?_, ?_, ?_, ?_⟩
  · have : (s.wg d v).me = s.me.updSeq s.cur.st fun q => q.wr d v := State.slotAt_updSlot_same s _ _
    rw [this, tok_updSeq]
  · intro r; rw [e, Seq.rd_wr]; rfl
  · intro r; rw [e]; exact rdP_congr (by simp) r
  all_goals rw [e]; simp

theorem wrote_wp (s : State) (d : PReg) (v : Bool) : Body.Wrote s (s.wp d v) none (some (d, v)) := by
  have e : (s.wp d v).mySeq = s.mySeq.wrP d v := mySeq_updSeq s _
  refine ⟨rfl, rfl, ?_, ?_, ?_, ?_, ?_, ?_, ?_⟩
  · have : (s.wp d v).me = s.me.updSeq s.cur.st fun q => q.wrP d v := State.slotAt_updSlot_same s _ _
    rw [this, tok_updSeq]
  · intro r; rw [e]; exact rd_congr (by simp) r
  · intro r; rw [e, Seq.rdP_wrP]; rfl
  all_goals rw [e]; simp

/-! ### The three shapes of a computing instruction -/

/-- An instruction that writes one register. -/
theorem issuePure_writes {s : State} {h : Hdr} {gs : List Reg} {ps : List PReg} (f : State → State) (d : Reg) (v : Word)
    (r : Ready s h gs ps) (e : f s = s.wg d v) :
    ∃ t, s.issuePure h gs ps f = .next t ∧ Retired s t h s.cur.next (some (d, v)) none ∧ OnlyIssuer s t := by
  refine ⟨(f s).retire h, issuePure_ready f r, ?_, ?_⟩
  · rw [e]; exact retired_of_wrote (wrote_wg s d v)
  · rw [e]; exact retire_slotAs h (onlyIssuer_updSeq s _) rfl rfl

/-- An instruction that writes one predicate. -/
theorem issuePure_writesP {s : State} {h : Hdr} {gs : List Reg} {ps : List PReg} (f : State → State) (d : PReg) (v : Bool)
    (r : Ready s h gs ps) (e : f s = s.wp d v) :
    ∃ t, s.issuePure h gs ps f = .next t ∧ Retired s t h s.cur.next none (some (d, v)) ∧ OnlyIssuer s t := by
  refine ⟨(f s).retire h, issuePure_ready f r, ?_, ?_⟩
  · rw [e]; exact retired_of_wrote (wrote_wp s d v)
  · rw [e]; exact retire_slotAs h (onlyIssuer_updSeq s _) rfl rfl

/-- An instruction that writes nothing. -/
theorem issuePure_plain {s : State} {h : Hdr} {gs : List Reg} {ps : List PReg} (f : State → State)
    (r : Ready s h gs ps) (e : f s = s) :
    ∃ t, s.issuePure h gs ps f = .next t ∧ Retired s t h s.cur.next none none ∧ OnlyIssuer s t := by
  refine ⟨(f s).retire h, issuePure_ready f r, ?_, ?_⟩
  · rw [e]; exact retired_of_wrote (wrote_refl s)
  · rw [e]; exact retire_slotAs h (onlyIssuer_refl s) rfl rfl

end Sys2Proof
end

