-- ==== Sys2Proof/Laws/Memory.lean ====
section
/-! SUPPORT. Laws of memory: what a byte reads as after a write, and that every operation that writes memory keeps the
canonical form of every memory (R95, R312). -/

namespace Sys2Proof

open Machine

/-! ### Reading after writing -/

theorem get_writeBytes (m : Memory) (a : Nat) (l : List Byte) (x : Nat) :
    SMap.get (writeBytes m a l) 0 x = if a ≤ x ∧ x < a + l.length then l.getD (x - a) 0 else SMap.get m 0 x := by
  induction l generalizing m a with
  | nil =>
    have : ¬ (a ≤ x ∧ x < a) := by omega
    simp [writeBytes, this]
  | cons b r ih =>
    simp only [writeBytes, ih, SMap.get_set, List.length_cons]
    by_cases h : x = a
    · subst h
      have h1 : ¬ (x + 1 ≤ x ∧ x < x + 1 + r.length) := by omega
      have h2 : x ≤ x ∧ x < x + (r.length + 1) := by omega
      simp [h1, h2]
    · by_cases h1 : a + 1 ≤ x ∧ x < a + 1 + r.length
      · have h2 : a ≤ x ∧ x < a + (r.length + 1) := by omega
        have h3 : x - a = x - (a + 1) + 1 := by omega
        rw [if_pos h1, if_pos h2, h3]
        simp
      · have h2 : ¬ (a ≤ x ∧ x < a + (r.length + 1)) := by omega
        rw [if_neg h1, if_neg h2, if_neg h]

theorem homeByte_setHome_mem (s : State) (l : Loc) (b : Byte) (h : l.tier < 2) : (s.setHome l b).homeByte l = b := by
  obtain ⟨tier, pkg, pa⟩ := l
  rcases tier with _ | _ | n
  · simp [State.setHome, State.homeByte]
  · simp [State.setHome, State.homeByte]
  · simp at h

theorem homeByte_setHome_ne (s : State) (l k : Loc) (b : Byte) (h : k.tier ≠ l.tier ∨ k.pa ≠ l.pa) (hk : k.tier < 2) :
    (s.setHome l b).homeByte k = s.homeByte k := by
  obtain ⟨t1, p1, a1⟩ := l
  obtain ⟨t2, p2, a2⟩ := k
  rcases t2 with _ | _ | n <;> rcases t1 with _ | _ | _ | m <;>
    simp_all [State.setHome, State.homeByte, SMap.get_set]

/-! ### The canonical form -/

theorem writeBytes_wf {m : Memory} (a : Nat) (l : List Byte) (h : m.wf) : (writeBytes m a l).wf := by
  induction l generalizing m a with
  | nil => exact h
  | cons b r ih => exact ih (a + 1) (SMap.wf_set a b h)

/-- The invariant speaks of three fields alone. -/
theorem MemoryOk.congr {s t : State} (h : MemoryOk s) (hm : t.mem = s.mem) (hh : t.host = s.host) (hp : t.peer = s.peer) :
    MemoryOk t := by
  unfold MemoryOk
  rw [hm, hh, hp]
  exact h

theorem MemoryOk.withMem {s : State} (h : MemoryOk s) {m : Memory} (hm : m.wf) : MemoryOk { s with mem := m } :=
  ⟨hm, h.2.1, h.2.2⟩

theorem MemoryOk.withHost {s : State} (h : MemoryOk s) {m : Memory} (hm : m.wf) : MemoryOk { s with host := m } :=
  ⟨h.1, hm, h.2.2⟩

theorem mem_erase {α : Type} [DecidableEq α] {m : SMap α} {k : Nat} {e : Nat × α} (h : e ∈ SMap.erase m k) : e ∈ m := by
  rw [SMap.erase_eq_filter] at h
  exact (List.mem_filter.1 h).1

theorem mem_insert {α : Type} {m : SMap α} {k : Nat} {v : α} {e : Nat × α} (h : e ∈ SMap.insert m k v) :
    e = (k, v) ∨ e ∈ m := by
  induction m with
  | nil => simpa [SMap.insert] using h
  | cons x r ih =>
    obtain ⟨j, w⟩ := x
    by_cases hk : k < j
    · simpa [SMap.insert, hk] using h
    · simp only [SMap.insert, hk, if_false, List.mem_cons] at h ⊢
      rcases h with h | h
      · exact .inr (.inl h)
      · exact (ih h).imp id .inr

theorem wf_get_peer {p : SMap Memory} (h : ∀ e ∈ p, Memory.wf e.2) (k : Nat) : (SMap.get p [] k).wf := by
  induction p with
  | nil => rfl
  | cons x r ih =>
    obtain ⟨j, w⟩ := x
    by_cases hj : j = k
    · simpa [SMap.get, hj] using h (j, w) (by simp)
    · simpa [SMap.get, hj] using ih fun e he => h e (by simp [he])

/-- A memory of a peer is replaced by another in canonical form. -/
theorem MemoryOk.updPeer {s : State} (h : MemoryOk s) (k : Nat) {f : Memory → Memory} (hf : ∀ m : Memory, m.wf → (f m).wf) :
    MemoryOk { s with peer := SMap.upd s.peer [] k f } := by
  refine ⟨h.1, h.2.1, SMap.wf_upd k f h.2.2.1, ?_⟩
  intro e he
  change e ∈ SMap.upd s.peer [] k f at he
  unfold SMap.upd SMap.set at he
  split at he
  · exact h.2.2.2 e (mem_erase he)
  · rcases mem_insert he with rfl | he
    · exact hf _ (wf_get_peer h.2.2.2 k)
    · exact h.2.2.2 e (mem_erase he)

theorem setHome_memoryOk {s : State} (h : MemoryOk s) (l : Loc) (b : Byte) : MemoryOk (s.setHome l b) := by
  unfold State.setHome
  split
  · exact h.withMem (SMap.wf_set _ _ h.1)
  · exact h.withHost (SMap.wf_set _ _ h.2.1)
  · exact h.congr rfl rfl rfl
  · exact h.updPeer _ fun m hm => SMap.wf_set _ _ hm

theorem setHomes_memoryOk {s : State} (h : MemoryOk s) (l : List (Loc × Byte)) : MemoryOk (s.setHomes l) := by
  induction l generalizing s with
  | nil => exact h
  | cons x r ih => exact ih (setHome_memoryOk h x.1 x.2)

theorem wrPhys_memoryOk {s : State} (h : MemoryOk s) (pa n v : Nat) : MemoryOk (s.wrPhys pa n v) :=
  h.withMem (writeBytes_wf _ _ h.1)

/-- An operation repeated along a list keeps what each of its steps keeps. -/
theorem foldl_memoryOk {α : Type} {f : State → α → State} (hf : ∀ s x, MemoryOk s → MemoryOk (f s x)) (l : List α) {s : State}
    (h : MemoryOk s) : MemoryOk (l.foldl f s) := by
  induction l generalizing s with
  | nil => exact h
  | cons x r ih => exact ih (hf s x h)

theorem updSlot_memoryOk {s : State} (h : MemoryOk s) (n : Nat) (f : Slot → Slot) : MemoryOk (s.updSlot n f) :=
  h.congr rfl rfl rfl
theorem updCore_memoryOk {s : State} (h : MemoryOk s) (n : Nat) (f : Core → Core) : MemoryOk (s.updCore n f) :=
  h.congr rfl rfl rfl
theorem updQueue_memoryOk {s : State} (h : MemoryOk s) (n : Nat) (f : JQ → JQ) : MemoryOk (s.updQueue n f) :=
  h.congr rfl rfl rfl
theorem updJob_memoryOk {s : State} (h : MemoryOk s) (n : Nat) (f : Job → Job) : MemoryOk (s.updJob n f) :=
  h.congr rfl rfl rfl
theorem updTen_memoryOk {s : State} (h : MemoryOk s) (n : Nat) (f : Ten → Ten) : MemoryOk (s.updTen n f) :=
  h.congr rfl rfl rfl

/-! ### The data cache -/

theorem storesHome_memoryOk {s : State} (h : MemoryOk s) (core key : Nat) (l : List (Nat × Nat × BitVec 16)) :
    MemoryOk (s.storesHome core key l) := by
  induction l generalizing s with
  | nil => exact h
  | cons x r ih =>
    obtain ⟨num, slot, tags⟩ := x
    apply ih
    split
    · exact h
    · exact updSlot_memoryOk h _ _

theorem writeBack_memoryOk {s : State} (h : MemoryOk s) (core key : Nat) : MemoryOk (s.writeBack core key) := by
  unfold State.writeBack
  dsimp only
  split
  · exact updCore_memoryOk (storesHome_memoryOk (setHomes_memoryOk h _) _ _ _) _ _
  · exact h

theorem invalidate_memoryOk {s : State} (h : MemoryOk s) (core key : Nat) : MemoryOk (s.invalidate core key) :=
  updCore_memoryOk (writeBack_memoryOk h core key) _ _

theorem writeBackWhere_memoryOk {s : State} (h : MemoryOk s) (slot : Nat) (p : DLine → Bool) : MemoryOk (s.writeBackWhere slot p) :=
  foldl_memoryOk (fun _ _ h => writeBack_memoryOk h _ _) _ h

theorem invalidateWhere_memoryOk {s : State} (h : MemoryOk s) (slot : Nat) (p : DLine → Bool) :
    MemoryOk (s.invalidateWhere slot p) := foldl_memoryOk (fun _ _ h => invalidate_memoryOk h _ _) _ h

theorem releaseCache_memoryOk {s : State} (h : MemoryOk s) (slot scope : Nat) (fence : Bool) :
    MemoryOk (s.releaseCache slot scope fence) := by
  unfold State.releaseCache
  split
  · exact h
  · exact writeBackWhere_memoryOk h _ _

theorem acquireCache_memoryOk {s : State} (h : MemoryOk s) (slot scope : Nat) (fence : Bool) :
    MemoryOk (s.acquireCache slot scope fence) := by
  unfold State.acquireCache
  split
  · exact h
  · exact invalidateWhere_memoryOk h _ _

theorem touchLine_memoryOk {s : State} (h : MemoryOk s) (slot : Nat) (b : Nat × Leaf × Loc) : MemoryOk (s.touchLine slot b) := by
  unfold State.touchLine
  dsimp only
  apply updCore_memoryOk
  split
  · exact h
  · apply updCore_memoryOk
    split
    · exact h
    · exact (invalidate_memoryOk h _ _).congr rfl rfl rfl

theorem touchAll_memoryOk {s : State} (h : MemoryOk s) (slot : Nat) (l : List (Nat × Leaf × Loc)) : MemoryOk (s.touchAll slot l) := by
  induction l generalizing s with
  | nil => exact h
  | cons b r ih =>
    apply ih
    split
    · exact touchLine_memoryOk h _ _
    · exact h

theorem storeByte_memoryOk {s : State} (h : MemoryOk s) (slot num : Nat) (tags : BitVec 16) (through : Bool)
    (b : Nat × Leaf × Loc) (v : Byte) : MemoryOk (s.storeByte slot num tags through b v) := by
  unfold State.storeByte
  dsimp only
  split
  · split
    · exact setHome_memoryOk (updCore_memoryOk h _ _) _ _
    · exact updCore_memoryOk h _ _
  · exact setHome_memoryOk h _ _

theorem storeAll_memoryOk {s : State} (h : MemoryOk s) (slot num : Nat) (tags : BitVec 16) (through : Bool)
    (l : List (Nat × Leaf × Loc)) (vs : List Byte) : MemoryOk (s.storeAll slot num tags through l vs) := by
  induction l generalizing s vs with
  | nil => cases vs <;> exact h
  | cons b r ih =>
    cases vs with
    | nil => exact h
    | cons v vs => exact ih (storeByte_memoryOk h _ _ _ _ _ _) vs

theorem flushLoc_memoryOk {s : State} (h : MemoryOk s) (slot : Nat) (l : Loc) : MemoryOk (s.flushLoc slot l) := by
  unfold State.flushLoc
  split
  · exact invalidate_memoryOk h _ _
  · exact h

theorem pushWriteBack_memoryOk {s : State} (h : MemoryOk s) (slot : Nat) (foot : List (Nat × Nat)) :
    MemoryOk (s.pushWriteBack slot foot) := writeBackWhere_memoryOk h _ _

theorem hold_memoryOk {s : State} (h : MemoryOk s) (asid va : Nat) (l : Leaf) : MemoryOk (s.hold asid va l) :=
  h.congr rfl rfl rfl

theorem holdAll_memoryOk {s : State} (h : MemoryOk s) (asid : Nat) (l : List (Nat × Leaf × Loc)) : MemoryOk (s.holdAll asid l) := by
  induction l generalizing s with
  | nil => exact h
  | cons b r ih => exact ih (hold_memoryOk h _ _ _)

/-! ### The package's own accesses -/

theorem wrVirt_memoryOk {s : State} (h : MemoryOk s) (asid va : Nat) (l : List Byte) : MemoryOk (s.wrVirt asid va l) := by
  unfold State.wrVirt
  split
  · exact setHomes_memoryOk h _
  · exact h

theorem wrRing_memoryOk {s : State} (h : MemoryOk s) (q : JQ) (c : Nat) (l : List Byte) : MemoryOk (s.wrRing q c l) := by
  induction l generalizing s c with
  | nil => exact h
  | cons b r ih => exact ih (wrVirt_memoryOk h _ _ _) (c + 1)

theorem performLine_memoryOk {s : State} (h : MemoryOk s) (slot : Nat) (c : Cmd) : MemoryOk (s.performLine slot c).1 :=
  updSlot_memoryOk (wrVirt_memoryOk h _ _ _) _ _

theorem pushPool_memoryOk {s : State} (h : MemoryOk s) (t area : Nat) : MemoryOk (s.pushPool t area) :=
  updTen_memoryOk (wrPhys_memoryOk h _ _ _) _ _

theorem writeArea_memoryOk {s : State} (h : MemoryOk s) (area total : Nat) (ws : AreaWords) : MemoryOk (s.writeArea area total ws) := by
  unfold State.writeArea
  apply foldl_memoryOk
  · intro s x hs
    split
    · exact hs
    · exact wrPhys_memoryOk hs _ _ _
  · exact h.withMem (SMap.wf_filter _ h.1)

theorem areaView_memoryOk {s : State} (h : MemoryOk s) (area total : Nat) : MemoryOk (s.areaView area total) :=
  h.withMem (SMap.wf_filter _ h.1)

theorem copyRange_wf {src dst : Memory} (a b n : Nat) (h : dst.wf) : (copyRange src dst a b n).wf := by
  unfold copyRange
  have key : ∀ (l : List (Nat × Byte)) (m : Memory), m.wf →
      Memory.wf (l.foldl (fun m e => SMap.set m 0 (e.1 - a + b) e.2) m) := by
    intro l
    induction l with
    | nil => exact fun m hm => hm
    | cons x r ih => exact fun m hm => ih _ (SMap.wf_set _ _ hm)
  exact key _ _ (SMap.wf_filter _ h)

theorem aperturePut_memoryOk {s : State} (h : MemoryOk s) (pa : Nat) (l : List Byte) : MemoryOk (s.aperturePut pa l) := by
  induction l generalizing s pa with
  | nil => exact h
  | cons b r ih =>
    apply ih
    split
    · exact h
    · exact h.withMem (SMap.wf_set _ _ h.1)

theorem showQueue_memoryOk {s : State} (h : MemoryOk s) (n : Nat) : MemoryOk (s.showQueue n) := by
  unfold State.showQueue
  dsimp only
  split
  · exact h
  · split
    · exact wrVirt_memoryOk (wrVirt_memoryOk h _ _ _) _ _ _
    · exact wrVirt_memoryOk h _ _ _

theorem writeDst_memoryOk {s : State} (h : MemoryOk s) (r : Red) (v : List Byte) : MemoryOk (s.writeDst r v) := by
  unfold State.writeDst
  split
  · exact h
  · split
    · exact wrVirt_memoryOk h _ _ _
    · exact h.updPeer _ fun m hm => writeBytes_wf _ _ hm

theorem endRed_memoryOk {s : State} (h : MemoryOk s) (rid : Nat) (r : Red) (flags : BitVec 4) : MemoryOk (s.endRed rid r flags) := by
  unfold State.endRed
  dsimp only
  split
  · exact (wrVirt_memoryOk h _ _ _).congr rfl rfl rfl
  · exact h.congr rfl rfl rfl

theorem pushFrame_memoryOk {s : State} (h : MemoryOk s) (stack f : Nat) : MemoryOk (s.pushFrame stack f) :=
  wrPhys_memoryOk (wrPhys_memoryOk h _ _ _) _ _ _

theorem movePage_memoryOk {s : State} (h : MemoryOk s) (ten : Nat) (l : Leaf) (take give frame : Nat) :
    MemoryOk (s.movePage ten l take give frame) := by
  have hf : MemoryOk (s.flushFrame l) := by
    apply foldl_memoryOk _ _ h
    intro t e ht
    exact foldl_memoryOk (fun _ _ h => invalidate_memoryOk h _ _) _ ht
  unfold State.movePage
  extract_lets n t0 t1 t2 t3 t4
  have h0 : MemoryOk t0 := hf
  clear_value t0
  have h1 : MemoryOk t1 := by
    by_cases hl : l.tier = 0
    · have e : t1 = { t0 with host := copyRange t0.mem t0.host l.base frame n } := if_pos hl
      rw [e]
      exact h0.withHost (copyRange_wf _ _ _ h0.2.1)
    · have e : t1 = { t0 with mem := copyRange t0.host t0.mem l.base frame n } := if_neg hl
      rw [e]
      exact h0.withMem (copyRange_wf _ _ _ h0.1)
  clear_value t1
  have h3 : MemoryOk t3 := wrPhys_memoryOk (pushFrame_memoryOk (wrPhys_memoryOk h1 _ _ _) _ _) _ _ _
  clear_value t3
  exact h3.congr rfl rfl rfl

theorem reset_memoryOk : MemoryOk State.reset := by
  refine ⟨rfl, rfl, rfl, ?_⟩
  intro e he
  exact absurd he (List.not_mem_nil)

end Sys2Proof
end

