-- ==== Sys2Proof/Laws/PerInstr.lean ====
section
/-! SUPPORT. What holds of every instruction as syntax, one lemma for each constructor. -/

namespace Sys2Proof.Laws

open Sys2Proof

/-- An encoded instruction has its head, the LEN extension syllables of its row, and its token syllable where it has one
(R131, R132); an event has no encoding. -/
def Length.Statement (i : Instr) : Prop :=
  (encode i).length =
    match i.hdr? with
    | some h => 1 + i.info.len + h.tok.isSome.toNat
    | none => 0

theorem length_tokWords (h : Hdr) : (tokWords h).length = h.tok.isSome.toNat := by
  unfold tokWords
  cases h.tok <;> rfl

theorem length_row (l : List Nat) (h : Hdr) (n : Nat) (e : l.length = 1 + n) :
    (l ++ tokWords h).length = 1 + n + h.tok.isSome.toNat := by
  rw [List.length_append, e, length_tokWords]

theorem Length.add (h : Hdr) (d : Reg) (a : Reg) (b : Reg) :
    Length.Statement (.add h d a b) := length_row _ _ _ rfl
theorem Length.sub (h : Hdr) (d : Reg) (a : Reg) (b : Reg) :
    Length.Statement (.sub h d a b) := length_row _ _ _ rfl
theorem Length.mul (h : Hdr) (d : Reg) (a : Reg) (b : Reg) :
    Length.Statement (.mul h d a b) := length_row _ _ _ rfl
theorem Length.mulh (h : Hdr) (d : Reg) (a : Reg) (b : Reg) :
    Length.Statement (.mulh h d a b) := length_row _ _ _ rfl
theorem Length.mulhu (h : Hdr) (d : Reg) (a : Reg) (b : Reg) :
    Length.Statement (.mulhu h d a b) := length_row _ _ _ rfl
theorem Length.div (h : Hdr) (d : Reg) (a : Reg) (b : Reg) :
    Length.Statement (.div h d a b) := length_row _ _ _ rfl
theorem Length.divu (h : Hdr) (d : Reg) (a : Reg) (b : Reg) :
    Length.Statement (.divu h d a b) := length_row _ _ _ rfl
theorem Length.rem (h : Hdr) (d : Reg) (a : Reg) (b : Reg) :
    Length.Statement (.rem h d a b) := length_row _ _ _ rfl
theorem Length.remu (h : Hdr) (d : Reg) (a : Reg) (b : Reg) :
    Length.Statement (.remu h d a b) := length_row _ _ _ rfl
theorem Length.and (h : Hdr) (d : Reg) (a : Reg) (b : Reg) :
    Length.Statement (.and h d a b) := length_row _ _ _ rfl
theorem Length.or (h : Hdr) (d : Reg) (a : Reg) (b : Reg) :
    Length.Statement (.or h d a b) := length_row _ _ _ rfl
theorem Length.xor (h : Hdr) (d : Reg) (a : Reg) (b : Reg) :
    Length.Statement (.xor h d a b) := length_row _ _ _ rfl
theorem Length.andn (h : Hdr) (d : Reg) (a : Reg) (b : Reg) :
    Length.Statement (.andn h d a b) := length_row _ _ _ rfl
theorem Length.shl (h : Hdr) (d : Reg) (a : Reg) (b : Reg) :
    Length.Statement (.shl h d a b) := length_row _ _ _ rfl
theorem Length.shr (h : Hdr) (d : Reg) (a : Reg) (b : Reg) :
    Length.Statement (.shr h d a b) := length_row _ _ _ rfl
theorem Length.sar (h : Hdr) (d : Reg) (a : Reg) (b : Reg) :
    Length.Statement (.sar h d a b) := length_row _ _ _ rfl
theorem Length.rot (h : Hdr) (d : Reg) (a : Reg) (b : Reg) :
    Length.Statement (.rot h d a b) := length_row _ _ _ rfl
theorem Length.min (h : Hdr) (d : Reg) (a : Reg) (b : Reg) :
    Length.Statement (.min h d a b) := length_row _ _ _ rfl
theorem Length.max (h : Hdr) (d : Reg) (a : Reg) (b : Reg) :
    Length.Statement (.max h d a b) := length_row _ _ _ rfl
theorem Length.minu (h : Hdr) (d : Reg) (a : Reg) (b : Reg) :
    Length.Statement (.minu h d a b) := length_row _ _ _ rfl
theorem Length.maxu (h : Hdr) (d : Reg) (a : Reg) (b : Reg) :
    Length.Statement (.maxu h d a b) := length_row _ _ _ rfl
theorem Length.sel (h : Hdr) (d : Reg) (a : Reg) (b : Reg) (p : PReg) :
    Length.Statement (.sel h d a b p) := length_row _ _ _ rfl
theorem Length.addi (h : Hdr) (d : Reg) (a : Reg) (i : BitVec 11) :
    Length.Statement (.addi h d a i) := length_row _ _ _ rfl
theorem Length.andi (h : Hdr) (d : Reg) (a : Reg) (i : BitVec 11) :
    Length.Statement (.andi h d a i) := length_row _ _ _ rfl
theorem Length.ori (h : Hdr) (d : Reg) (a : Reg) (i : BitVec 11) :
    Length.Statement (.ori h d a i) := length_row _ _ _ rfl
theorem Length.xori (h : Hdr) (d : Reg) (a : Reg) (i : BitVec 11) :
    Length.Statement (.xori h d a i) := length_row _ _ _ rfl
theorem Length.shli (h : Hdr) (d : Reg) (a : Reg) (n : BitVec 6) :
    Length.Statement (.shli h d a n) := length_row _ _ _ rfl
theorem Length.shri (h : Hdr) (d : Reg) (a : Reg) (n : BitVec 6) :
    Length.Statement (.shri h d a n) := length_row _ _ _ rfl
theorem Length.sari (h : Hdr) (d : Reg) (a : Reg) (n : BitVec 6) :
    Length.Statement (.sari h d a n) := length_row _ _ _ rfl
theorem Length.roti (h : Hdr) (d : Reg) (a : Reg) (n : BitVec 6) :
    Length.Statement (.roti h d a n) := length_row _ _ _ rfl
theorem Length.cmpi (h : Hdr) (p : PReg) (a : Reg) (c : BitVec 4) (i : BitVec 7) :
    Length.Statement (.cmpi h p a c i) := length_row _ _ _ rfl
theorem Length.clz (h : Hdr) (d : Reg) (a : Reg) :
    Length.Statement (.clz h d a) := length_row _ _ _ rfl
theorem Length.popc (h : Hdr) (d : Reg) (a : Reg) :
    Length.Statement (.popc h d a) := length_row _ _ _ rfl
theorem Length.sext (h : Hdr) (d : Reg) (a : Reg) (k : BitVec 5) :
    Length.Statement (.sext h d a k) := length_row _ _ _ rfl
theorem Length.zext (h : Hdr) (d : Reg) (a : Reg) (k : BitVec 5) :
    Length.Statement (.zext h d a k) := length_row _ _ _ rfl
theorem Length.bfx (h : Hdr) (d : Reg) (a : Reg) (b : Reg) :
    Length.Statement (.bfx h d a b) := length_row _ _ _ rfl
theorem Length.bfi (h : Hdr) (d : Reg) (a : Reg) (b : Reg) :
    Length.Statement (.bfi h d a b) := length_row _ _ _ rfl
theorem Length.cmp (h : Hdr) (p : PReg) (c : BitVec 6) (a : Reg) (b : Reg) :
    Length.Statement (.cmp h p c a b) := length_row _ _ _ rfl
theorem Length.pand (h : Hdr) (d : PReg) (a : PReg) (b : PReg) :
    Length.Statement (.pand h d a b) := length_row _ _ _ rfl
theorem Length.por (h : Hdr) (d : PReg) (a : PReg) (b : PReg) :
    Length.Statement (.por h d a b) := length_row _ _ _ rfl
theorem Length.pxor (h : Hdr) (d : PReg) (a : PReg) (b : PReg) :
    Length.Statement (.pxor h d a b) := length_row _ _ _ rfl
theorem Length.pnot (h : Hdr) (d : PReg) (a : PReg) :
    Length.Statement (.pnot h d a) := length_row _ _ _ rfl
theorem Length.pmov (h : Hdr) (d : PReg) (a : PReg) :
    Length.Statement (.pmov h d a) := length_row _ _ _ rfl
theorem Length.li (h : Hdr) (d : Reg) (lo : BitVec 32) (hi : BitVec 32) :
    Length.Statement (.li h d lo hi) := length_row _ _ _ rfl
theorem Length.br (h : Hdr) (p : PReg) (neg : Bool) (off : BitVec 13) (syl : BitVec 4) :
    Length.Statement (.br h p neg off syl) := length_row _ _ _ rfl
theorem Length.brl (h : Hdr) (p : PReg) (neg : Bool) (off : BitVec 13) (syl : BitVec 4) :
    Length.Statement (.brl h p neg off syl) := length_row _ _ _ rfl
theorem Length.jmpr (h : Hdr) (a : Reg) :
    Length.Statement (.jmpr h a) := length_row _ _ _ rfl
theorem Length.call (h : Hdr) (d : Reg) (a : Reg) :
    Length.Statement (.call h d a) := length_row _ _ _ rfl
theorem Length.ret (h : Hdr) (a : Reg) :
    Length.Statement (.ret h a) := length_row _ _ _ rfl
theorem Length.loop (h : Hdr) (c : Reg) (off : BitVec 13) (syl : BitVec 4) :
    Length.Statement (.loop h c off syl) := length_row _ _ _ rfl
theorem Length.dqpush (h : Hdr) (a : Reg) :
    Length.Statement (.dqpush h a) := length_row _ _ _ rfl
theorem Length.dqpop (h : Hdr) (d : Reg) :
    Length.Statement (.dqpop h d) := length_row _ _ _ rfl
theorem Length.bqpush (h : Hdr) (p : PReg) :
    Length.Statement (.bqpush h p) := length_row _ _ _ rfl
theorem Length.brq (h : Hdr) (p : PReg) (neg : Bool) (off : BitVec 13) (syl : BitVec 4) :
    Length.Statement (.brq h p neg off syl) := length_row _ _ _ rfl
theorem Length.fork (h : Hdr) (off : BitVec 13) (syl : BitVec 4) :
    Length.Statement (.fork h off syl) := length_row _ _ _ rfl
theorem Length.rdv (h : Hdr) :
    Length.Statement (.rdv h) := length_row _ _ _ rfl
theorem Length.exit (h : Hdr) :
    Length.Statement (.exit h) := length_row _ _ _ rfl
theorem Length.yield (h : Hdr) (dropt : Bool) (keep : BitVec 32) :
    Length.Statement (.yield h dropt keep) := length_row _ _ _ rfl
theorem Length.await (h : Hdr) (kind : BitVec 4) (reg : Reg) :
    Length.Statement (.await h kind reg) := length_row _ _ _ rfl
theorem Length.nop (h : Hdr) :
    Length.Statement (.nop h) := length_row _ _ _ rfl
theorem Length.qcancel (h : Hdr) (d : Reg) (tag : BitVec 8) :
    Length.Statement (.qcancel h d tag) := length_row _ _ _ rfl
theorem Length.trap (h : Hdr) (code : BitVec 16) :
    Length.Statement (.trap h code) := length_row _ _ _ rfl
theorem Length.eret (h : Hdr) :
    Length.Statement (.eret h) := length_row _ _ _ rfl
theorem Length.brk (h : Hdr) (code : BitVec 16) :
    Length.Statement (.brk h code) := length_row _ _ _ rfl
theorem Length.sysrd (h : Hdr) (d : Reg) (idx : BitVec 12) :
    Length.Statement (.sysrd h d idx) := length_row _ _ _ rfl
theorem Length.syswr (h : Hdr) (a : Reg) (idx : BitVec 12) :
    Length.Statement (.syswr h a idx) := length_row _ _ _ rfl
theorem Length.shape (h : Hdr) (d : Reg) (a : Reg) (acc : BitVec 6) :
    Length.Statement (.shape h d a acc) := length_row _ _ _ rfl
theorem Length.ld (h : Hdr) (d : Reg) (b : Reg) (z : BitVec 3) (o : BitVec 8) :
    Length.Statement (.ld h d b z o) := length_row _ _ _ rfl
theorem Length.st (h : Hdr) (d : Reg) (b : Reg) (z : BitVec 3) (o : BitVec 8) :
    Length.Statement (.st h d b z o) := length_row _ _ _ rfl
theorem Length.aadd (h : Hdr) (d : Reg) (a : Reg) (b : Reg) (sz : BitVec 2) (ord : BitVec 2) (scope : BitVec 3) :
    Length.Statement (.aadd h d a b sz ord scope) := length_row _ _ _ rfl
theorem Length.afadd (h : Hdr) (d : Reg) (a : Reg) (b : Reg) (sz : BitVec 2) (ord : BitVec 2) (scope : BitVec 3) :
    Length.Statement (.afadd h d a b sz ord scope) := length_row _ _ _ rfl
theorem Length.amin (h : Hdr) (d : Reg) (a : Reg) (b : Reg) (sz : BitVec 2) (ord : BitVec 2) (scope : BitVec 3) (u : Bool) :
    Length.Statement (.amin h d a b sz ord scope u) := length_row _ _ _ rfl
theorem Length.amax (h : Hdr) (d : Reg) (a : Reg) (b : Reg) (sz : BitVec 2) (ord : BitVec 2) (scope : BitVec 3) (u : Bool) :
    Length.Statement (.amax h d a b sz ord scope u) := length_row _ _ _ rfl
theorem Length.aand (h : Hdr) (d : Reg) (a : Reg) (b : Reg) (sz : BitVec 2) (ord : BitVec 2) (scope : BitVec 3) :
    Length.Statement (.aand h d a b sz ord scope) := length_row _ _ _ rfl
theorem Length.aor (h : Hdr) (d : Reg) (a : Reg) (b : Reg) (sz : BitVec 2) (ord : BitVec 2) (scope : BitVec 3) :
    Length.Statement (.aor h d a b sz ord scope) := length_row _ _ _ rfl
theorem Length.axor (h : Hdr) (d : Reg) (a : Reg) (b : Reg) (sz : BitVec 2) (ord : BitVec 2) (scope : BitVec 3) :
    Length.Statement (.axor h d a b sz ord scope) := length_row _ _ _ rfl
theorem Length.aswp (h : Hdr) (d : Reg) (a : Reg) (b : Reg) (sz : BitVec 2) (ord : BitVec 2) (scope : BitVec 3) :
    Length.Statement (.aswp h d a b sz ord scope) := length_row _ _ _ rfl
theorem Length.acas (h : Hdr) (d : Reg) (a : Reg) (b : Reg) (sz : BitVec 2) (ord : BitVec 2) (scope : BitVec 3) (c : Reg) :
    Length.Statement (.acas h d a b sz ord scope c) := length_row _ _ _ rfl
theorem Length.sldf (h : Hdr) (d : Reg) (a : Reg) (scope : BitVec 3) :
    Length.Statement (.sldf h d a scope) := length_row _ _ _ rfl
theorem Length.sldw (h : Hdr) (d : Reg) (a : Reg) (scope : BitVec 3) :
    Length.Statement (.sldw h d a scope) := length_row _ _ _ rfl
theorem Length.sste (h : Hdr) (d : Reg) (a : Reg) (scope : BitVec 3) :
    Length.Statement (.sste h d a scope) := length_row _ _ _ rfl
theorem Length.sstf (h : Hdr) (d : Reg) (a : Reg) (scope : BitVec 3) :
    Length.Statement (.sstf h d a scope) := length_row _ _ _ rfl
theorem Length.seclr (h : Hdr) (a : Reg) :
    Length.Statement (.seclr h a) := length_row _ _ _ rfl
theorem Length.fence (h : Hdr) (scope : BitVec 3) :
    Length.Statement (.fence h scope) := length_row _ _ _ rfl
theorem Length.fencer (h : Hdr) (scope : BitVec 3) (mask : BitVec 16) :
    Length.Statement (.fencer h scope mask) := length_row _ _ _ rfl
theorem Length.drain (h : Hdr) (eng : BitVec 3) :
    Length.Statement (.drain h eng) := length_row _ _ _ rfl
theorem Length.rngbind (h : Hdr) (n : BitVec 4) (a : Reg) (kind : Bool) (lreg : Bool) (len : BitVec 31) :
    Length.Statement (.rngbind h n a kind lreg len) := length_row _ _ _ rfl
theorem Length.rngfree (h : Hdr) (n : BitVec 4) :
    Length.Statement (.rngfree h n) := length_row _ _ _ rfl
theorem Length.gjoin (h : Hdr) (d : Reg) (a : Reg) :
    Length.Statement (.gjoin h d a) := length_row _ _ _ rfl
theorem Length.gleave (h : Hdr) (d : Reg) (a : Reg) :
    Length.Statement (.gleave h d a) := length_row _ _ _ rfl
theorem Length.gbar (h : Hdr) (d : Reg) (a : Reg) (scope : BitVec 3) :
    Length.Statement (.gbar h d a scope) := length_row _ _ _ rfl
theorem Length.rres (h : Hdr) (d : Reg) (a : Reg) (b : Reg) :
    Length.Statement (.rres h d a b) := length_row _ _ _ rfl
theorem Length.rpub (h : Hdr) (e : Reg) (a : Reg) (b : Reg) :
    Length.Statement (.rpub h e a b) := length_row _ _ _ rfl
theorem Length.rtake (h : Hdr) (d : Reg) (a : Reg) (p : PReg) :
    Length.Statement (.rtake h d a p) := length_row _ _ _ rfl
theorem Length.rfree (h : Hdr) (e : Reg) (a : Reg) :
    Length.Statement (.rfree h e a) := length_row _ _ _ rfl
theorem Length.xroute (h : Hdr) (d : Reg) (a : Reg) (b : Reg) :
    Length.Statement (.xroute h d a b) := length_row _ _ _ rfl
theorem Length.xinv (h : Hdr) (d : Reg) (a : Reg) (b : Reg) (force : Bool) :
    Length.Statement (.xinv h d a b force) := length_row _ _ _ rfl
theorem Length.xpin (h : Hdr) (d : Reg) (a : Reg) (b : Reg) :
    Length.Statement (.xpin h d a b) := length_row _ _ _ rfl
theorem Length.xunpin (h : Hdr) (d : Reg) (a : Reg) (b : Reg) :
    Length.Statement (.xunpin h d a b) := length_row _ _ _ rfl
theorem Length.fetch (h : Hdr) (d : Reg) (t : Reg) (r : Reg) (n : BitVec 16) (c : Reg) (s : Reg) (cg : BitVec 3) (cgv : Bool) (disc : Bool) (rcmd : Bool) (u : Reg) :
    Length.Statement (.fetch h d t r n c s cg cgv disc rcmd u) := length_row _ _ _ rfl
theorem Length.fetchT (h : Hdr) (d : Reg) (t : Reg) (r : Reg) (n : BitVec 16) (c : Reg) (s : Reg) (cg : BitVec 3) (cgv : Bool) (disc : Bool) (rcmd : Bool) (u : Reg) :
    Length.Statement (.fetchT h d t r n c s cg cgv disc rcmd u) := length_row _ _ _ rfl
theorem Length.fetchMc (h : Hdr) (d : Reg) (t : Reg) (r : Reg) (n : BitVec 16) (c : Reg) (s : Reg) (cg : BitVec 3) (cgv : Bool) (disc : Bool) (rcmd : Bool) (u : Reg) (mc : BitVec 4) :
    Length.Statement (.fetchMc h d t r n c s cg cgv disc rcmd u mc) := length_row _ _ _ rfl
theorem Length.fetchRf (h : Hdr) (d : Reg) (t : Reg) (r : Reg) (c : Reg) (cg : BitVec 3) (cgv : Bool) (u : Reg) :
    Length.Statement (.fetchRf h d t r c cg cgv u) := length_row _ _ _ rfl
theorem Length.talloc (h : Hdr) (d : Reg) (t : Reg) (s : Reg) (disc : Bool) (n : BitVec 16) :
    Length.Statement (.talloc h d t s disc n) := length_row _ _ _ rfl
theorem Length.tstore (h : Hdr) (t : Reg) (r : Reg) (c : Reg) (hd : Reg) (u : Reg) (cg : BitVec 3) (cgv : Bool) :
    Length.Statement (.tstore h t r c hd u cg cgv) := length_row _ _ _ rfl
theorem Length.tcon (h : Hdr) (hd : Reg) :
    Length.Statement (.tcon h hd) := length_row _ _ _ rfl
theorem Length.trel (h : Hdr) (hd : Reg) :
    Length.Statement (.trel h hd) := length_row _ _ _ rfl
theorem Length.tadj (h : Hdr) (hd : Reg) (b : Reg) :
    Length.Statement (.tadj h hd b) := length_row _ _ _ rfl
theorem Length.tsettle (h : Hdr) (hd : Reg) (k : BitVec 3) :
    Length.Statement (.tsettle h hd k) := length_row _ _ _ rfl
theorem Length.tquery (h : Hdr) (d : Reg) (hd : Reg) (sel : BitVec 3) :
    Length.Statement (.tquery h d hd sel) := length_row _ _ _ rfl
theorem Length.park (h : Hdr) (d : Reg) (a : Reg) (cg : BitVec 3) (cgv : Bool) :
    Length.Statement (.park h d a cg cgv) := length_row _ _ _ rfl
theorem Length.unpark (h : Hdr) (d : Reg) (a : Reg) (cg : BitVec 3) (cgv : Bool) :
    Length.Statement (.unpark h d a cg cgv) := length_row _ _ _ rfl
theorem Length.cgrp (h : Hdr) (cg : BitVec 3) :
    Length.Statement (.cgrp h cg) := length_row _ _ _ rfl
theorem Length.cwait (h : Hdr) (cg : BitVec 3) :
    Length.Statement (.cwait h cg) := length_row _ _ _ rfl
theorem Length.ccopy (h : Hdr) (d : Reg) (a : Reg) (n : Reg) (cg : BitVec 3) (cgv : Bool) :
    Length.Statement (.ccopy h d a n cg cgv) := length_row _ _ _ rfl
theorem Length.cgath (h : Hdr) (d : Reg) (t : Reg) (l : Reg) (n : BitVec 16) (r : Reg) (m : Reg) (cg : BitVec 3) (cgv : Bool) :
    Length.Statement (.cgath h d t l n r m cg cgv) := length_row _ _ _ rfl
theorem Length.cscat (h : Hdr) (d : Reg) (l : Reg) (r : Reg) (m : Reg) (cg : BitVec 3) (cgv : Bool) :
    Length.Statement (.cscat h d l r m cg cgv) := length_row _ _ _ rfl
theorem Length.btnext (h : Hdr) (d : Reg) (k : Reg) (t : Reg) :
    Length.Statement (.btnext h d k t) := length_row _ _ _ rfl
theorem Length.dpost (h : Hdr) (a : Reg) :
    Length.Statement (.dpost h a) := length_row _ _ _ rfl
theorem Length.dcal (h : Hdr) (d : Reg) (a : Reg) :
    Length.Statement (.dcal h d a) := length_row _ _ _ rfl
theorem Length.drun (h : Hdr) (cg : BitVec 3) (cgv : Bool) (a : Reg) (b : Reg) :
    Length.Statement (.drun h cg cgv a b) := length_row _ _ _ rfl
theorem Length.dstat (h : Hdr) (d : Reg) (a : Reg) (sel : BitVec 3) :
    Length.Statement (.dstat h d a sel) := length_row _ _ _ rfl
theorem Length.fred (h : Hdr) (a : Reg) (cg : BitVec 3) (cgv : Bool) :
    Length.Statement (.fred h a cg cgv) := length_row _ _ _ rfl
theorem Length.jpost (h : Hdr) (d : Reg) (a : Reg) (b : Reg) :
    Length.Statement (.jpost h d a b) := length_row _ _ _ rfl
theorem Length.jwait (h : Hdr) (d : Reg) (a : Reg) (b : Reg) :
    Length.Statement (.jwait h d a b) := length_row _ _ _ rfl
theorem Length.mset (h : Hdr) (fa : BitVec 4) (fb : BitVec 4) (sr : BitVec 3) :
    Length.Statement (.mset h fa fb sr) := length_row _ _ _ rfl
theorem Length.mzero (h : Hdr) (n : Reg) (disc : Bool) :
    Length.Statement (.mzero h n disc) := length_row _ _ _ rfl
theorem Length.mstart (h : Hdr) :
    Length.Statement (.mstart h) := length_row _ _ _ rfl
theorem Length.mmul (h : Hdr) (a : Reg) (b : Reg) (n : Reg) (tb : Bool) :
    Length.Statement (.mmul h a b n tb) := length_row _ _ _ rfl
theorem Length.mmulc (h : Hdr) (d : Reg) (e : Reg) (b : Reg) (tb : Bool) :
    Length.Statement (.mmulc h d e b tb) := length_row _ _ _ rfl
theorem Length.mrot (h : Hdr) (d : Reg) (e : Reg) :
    Length.Statement (.mrot h d e) := length_row _ _ _ rfl
theorem Length.mdrain (h : Hdr) (hd : Reg) (n : Reg) (fmt : BitVec 4) (part : BitVec 2) (sigma : BitVec 32) :
    Length.Statement (.mdrain h hd n fmt part sigma) := length_row _ _ _ rfl
theorem Length.mtopk (h : Hdr) (n : Reg) (c : Reg) (k : BitVec 3) (clr : Bool) :
    Length.Statement (.mtopk h n c k clr) := length_row _ _ _ rfl
theorem Length.mtopkrd (h : Hdr) (d : Reg) (i : Reg) :
    Length.Statement (.mtopkrd h d i) := length_row _ _ _ rfl
theorem Length.mtopkrdT (h : Hdr) (hd : Reg) :
    Length.Statement (.mtopkrdT h hd) := length_row _ _ _ rfl
theorem Length.mkat (h : Hdr) (seed : BitVec 16) (slo : BitVec 32) (shi : BitVec 32) :
    Length.Statement (.mkat h seed slo shi) := length_row _ _ _ rfl
theorem Length.macc (h : Hdr) (d : Reg) (e : Reg) (add : Bool) :
    Length.Statement (.macc h d e add) := length_row _ _ _ rfl
theorem Length.mldacc (h : Hdr) (n : Reg) (hd : Reg) (half : Bool) :
    Length.Statement (.mldacc h n hd half) := length_row _ _ _ rfl
theorem Length.mstacc (h : Hdr) (n : Reg) (hd : Reg) (half : Bool) :
    Length.Statement (.mstacc h n hd half) := length_row _ _ _ rfl
theorem Length.vadd (h : Hdr) (d : Reg) (a : Reg) (b : Reg) (k : BitVec 3) :
    Length.Statement (.vadd h d a b k) := length_row _ _ _ rfl
theorem Length.vsub (h : Hdr) (d : Reg) (a : Reg) (b : Reg) (k : BitVec 3) :
    Length.Statement (.vsub h d a b k) := length_row _ _ _ rfl
theorem Length.vmul (h : Hdr) (d : Reg) (a : Reg) (b : Reg) (k : BitVec 3) :
    Length.Statement (.vmul h d a b k) := length_row _ _ _ rfl
theorem Length.vmin (h : Hdr) (d : Reg) (a : Reg) (b : Reg) (k : BitVec 3) :
    Length.Statement (.vmin h d a b k) := length_row _ _ _ rfl
theorem Length.vmax (h : Hdr) (d : Reg) (a : Reg) (b : Reg) (k : BitVec 3) :
    Length.Statement (.vmax h d a b k) := length_row _ _ _ rfl
theorem Length.vfma (h : Hdr) (d : Reg) (a : Reg) (b : Reg) (k : BitVec 3) :
    Length.Statement (.vfma h d a b k) := length_row _ _ _ rfl
theorem Length.vfmaN (h : Hdr) (d : Reg) (a : Reg) (b : Reg) (k : BitVec 3) :
    Length.Statement (.vfmaN h d a b k) := length_row _ _ _ rfl
theorem Length.vabs (h : Hdr) (d : Reg) (a : Reg) (k : BitVec 3) :
    Length.Statement (.vabs h d a k) := length_row _ _ _ rfl
theorem Length.vneg (h : Hdr) (d : Reg) (a : Reg) (k : BitVec 3) :
    Length.Statement (.vneg h d a k) := length_row _ _ _ rfl
theorem Length.vrcp (h : Hdr) (d : Reg) (a : Reg) (k : BitVec 3) :
    Length.Statement (.vrcp h d a k) := length_row _ _ _ rfl
theorem Length.vrsq (h : Hdr) (d : Reg) (a : Reg) (k : BitVec 3) :
    Length.Statement (.vrsq h d a k) := length_row _ _ _ rfl
theorem Length.vexp2 (h : Hdr) (d : Reg) (a : Reg) (k : BitVec 3) :
    Length.Statement (.vexp2 h d a k) := length_row _ _ _ rfl
theorem Length.vlog2 (h : Hdr) (d : Reg) (a : Reg) (k : BitVec 3) :
    Length.Statement (.vlog2 h d a k) := length_row _ _ _ rfl
theorem Length.vscale (h : Hdr) (d : Reg) (a : Reg) (b : Reg) (k : BitVec 3) :
    Length.Statement (.vscale h d a b k) := length_row _ _ _ rfl
theorem Length.vcmp (h : Hdr) (m : BitVec 3) (c : BitVec 3) (a : Reg) (b : Reg) (k : BitVec 3) :
    Length.Statement (.vcmp h m c a b k) := length_row _ _ _ rfl
theorem Length.vsel (h : Hdr) (d : Reg) (a : Reg) (b : Reg) (k : BitVec 3) :
    Length.Statement (.vsel h d a b k) := length_row _ _ _ rfl
theorem Length.viadd (h : Hdr) (d : Reg) (a : Reg) (b : Reg) (k : BitVec 3) (ew : BitVec 2) (u : Bool) (sat : Bool) :
    Length.Statement (.viadd h d a b k ew u sat) := length_row _ _ _ rfl
theorem Length.visub (h : Hdr) (d : Reg) (a : Reg) (b : Reg) (k : BitVec 3) (ew : BitVec 2) (u : Bool) (sat : Bool) :
    Length.Statement (.visub h d a b k ew u sat) := length_row _ _ _ rfl
theorem Length.vimul (h : Hdr) (d : Reg) (a : Reg) (b : Reg) (k : BitVec 3) (ew : BitVec 2) (u : Bool) (sat : Bool) :
    Length.Statement (.vimul h d a b k ew u sat) := length_row _ _ _ rfl
theorem Length.vshl (h : Hdr) (d : Reg) (a : Reg) (b : Reg) (k : BitVec 3) (ew : BitVec 2) (u : Bool) :
    Length.Statement (.vshl h d a b k ew u) := length_row _ _ _ rfl
theorem Length.vshr (h : Hdr) (d : Reg) (a : Reg) (b : Reg) (k : BitVec 3) (ew : BitVec 2) (u : Bool) :
    Length.Statement (.vshr h d a b k ew u) := length_row _ _ _ rfl
theorem Length.vsar (h : Hdr) (d : Reg) (a : Reg) (b : Reg) (k : BitVec 3) (ew : BitVec 2) (u : Bool) :
    Length.Statement (.vsar h d a b k ew u) := length_row _ _ _ rfl
theorem Length.vand (h : Hdr) (d : Reg) (a : Reg) (b : Reg) (k : BitVec 3) (ew : BitVec 2) (u : Bool) :
    Length.Statement (.vand h d a b k ew u) := length_row _ _ _ rfl
theorem Length.vor (h : Hdr) (d : Reg) (a : Reg) (b : Reg) (k : BitVec 3) (ew : BitVec 2) (u : Bool) :
    Length.Statement (.vor h d a b k ew u) := length_row _ _ _ rfl
theorem Length.vxor (h : Hdr) (d : Reg) (a : Reg) (b : Reg) (k : BitVec 3) (ew : BitVec 2) (u : Bool) :
    Length.Statement (.vxor h d a b k ew u) := length_row _ _ _ rfl
theorem Length.vaddw (h : Hdr) (d : Reg) (a : Reg) (b : Reg) (k : BitVec 3) (w : BitVec 2) :
    Length.Statement (.vaddw h d a b k w) := length_row _ _ _ rfl
theorem Length.vcvt (h : Hdr) (d : Reg) (a : Reg) (k : BitVec 3) (fr : BitVec 4) (tgt : BitVec 4) :
    Length.Statement (.vcvt h d a k fr tgt) := length_row _ _ _ rfl
theorem Length.vscan (h : Hdr) (d : Reg) (a : Reg) (k : BitVec 3) (o : BitVec 3) (iw : BitVec 2) (u : Bool) (aw : Bool) (sat : Bool) :
    Length.Statement (.vscan h d a k o iw u aw sat) := length_row _ _ _ rfl
theorem Length.vred (h : Hdr) (d : Reg) (a : Reg) (k : BitVec 3) (o : BitVec 3) (iw : BitVec 2) (u : Bool) (aw : Bool) (sat : Bool) :
    Length.Statement (.vred h d a k o iw u aw sat) := length_row _ _ _ rfl
theorem Length.vbcast (h : Hdr) (d : Reg) (a : Reg) (k : BitVec 3) :
    Length.Statement (.vbcast h d a k) := length_row _ _ _ rfl
theorem Length.vbcastL (h : Hdr) (d : Reg) (a : Reg) (b : Reg) (k : BitVec 3) :
    Length.Statement (.vbcastL h d a b k) := length_row _ _ _ rfl
theorem Length.vperm (h : Hdr) (d : Reg) (a : Reg) (b : Reg) (k : BitVec 3) :
    Length.Statement (.vperm h d a b k) := length_row _ _ _ rfl
theorem Length.vrotl (h : Hdr) (d : Reg) (a : Reg) (b : Reg) (k : BitVec 3) :
    Length.Statement (.vrotl h d a b k) := length_row _ _ _ rfl
theorem Length.viota (h : Hdr) (d : Reg) (a : Reg) (k : BitVec 3) :
    Length.Statement (.viota h d a k) := length_row _ _ _ rfl
theorem Length.vcompress (h : Hdr) (d : Reg) (a : Reg) (k : BitVec 3) :
    Length.Statement (.vcompress h d a k) := length_row _ _ _ rfl
theorem Length.vexpand (h : Hdr) (d : Reg) (a : Reg) (k : BitVec 3) :
    Length.Statement (.vexpand h d a k) := length_row _ _ _ rfl
theorem Length.vld (h : Hdr) (d : Reg) (hd : Reg) (c : Reg) (cons : Bool) (k : BitVec 3) :
    Length.Statement (.vld h d hd c cons k) := length_row _ _ _ rfl
theorem Length.vldx (h : Hdr) (d : Reg) (hd : Reg) (b : Reg) (cons : Bool) (k : BitVec 3) :
    Length.Statement (.vldx h d hd b cons k) := length_row _ _ _ rfl
theorem Length.vst (h : Hdr) (a : Reg) (hd : Reg) (c : Reg) (k : BitVec 3) :
    Length.Statement (.vst h a hd c k) := length_row _ _ _ rfl
theorem Length.vins (h : Hdr) (d : Reg) (a : Reg) (l : Reg) :
    Length.Statement (.vins h d a l) := length_row _ _ _ rfl
theorem Length.vext (h : Hdr) (d : Reg) (a : Reg) (l : Reg) (u : Bool) :
    Length.Statement (.vext h d a l u) := length_row _ _ _ rfl
theorem Length.vmpush (h : Hdr) (k : BitVec 3) :
    Length.Statement (.vmpush h k) := length_row _ _ _ rfl
theorem Length.vminv (h : Hdr) :
    Length.Statement (.vminv h) := length_row _ _ _ rfl
theorem Length.vmpop (h : Hdr) :
    Length.Statement (.vmpop h) := length_row _ _ _ rfl
theorem Length.brmz (h : Hdr) (neg : Bool) (off : BitVec 13) (syl : BitVec 4) :
    Length.Statement (.brmz h neg off syl) := length_row _ _ _ rfl
theorem Length.errInject (core array bank : Nat) (addr : BitVec 40) (syndrome : BitVec 16) :
    Length.Statement (.errInject core array bank addr syndrome) := rfl
theorem Length.replay (core slot array bank : Nat) (addr : BitVec 40) (syndrome : BitVec 16) (again : Bool) :
    Length.Statement (.replay core slot array bank addr syndrome again) := rfl
theorem Length.commandStart (core : Nat) (e : Engine) :
    Length.Statement (.commandStart core e) := rfl
theorem Length.commandFinish (core : Nat) (e : Engine) :
    Length.Statement (.commandFinish core e) := rfl
theorem Length.lineLand (core : Nat) :
    Length.Statement (.lineLand core) := rfl
theorem Length.linePerformed (slot : Nat) :
    Length.Statement (.linePerformed slot) := rfl
theorem Length.tileFree (core idx : Nat) :
    Length.Statement (.tileFree core idx) := rfl
theorem Length.taskStart (slot : Nat) :
    Length.Statement (.taskStart slot) := rfl
theorem Length.closingEnd (slot : Nat) :
    Length.Statement (.closingEnd slot) := rfl
theorem Length.faultDeliver (slot : Nat) :
    Length.Statement (.faultDeliver slot) := rfl
theorem Length.dealChunk (die : Nat) :
    Length.Statement (.dealChunk die) := rfl
theorem Length.entryRead (q : Nat) :
    Length.Statement (.entryRead q) := rfl
theorem Length.write (q : Nat) (v : BitVec 64) :
    Length.Statement (.write q v) := rfl
theorem Length.enable (q : Nat) (on : Bool) :
    Length.Statement (.enable q on) := rfl
theorem Length.reset (q : Nat) :
    Length.Statement (.reset q) := rfl
theorem Length.cread (q : Nat) (v : BitVec 64) :
    Length.Statement (.cread q v) := rfl
theorem Length.completionRecord (q : Nat) :
    Length.Statement (.completionRecord q) := rfl
theorem Length.registerWrite (off : Nat) (v : BitVec 64) :
    Length.Statement (.registerWrite off v) := rfl
theorem Length.apertureAccess (wr : Bool) (off : Nat) (v : BitVec 64) :
    Length.Statement (.apertureAccess wr off v) := rfl
theorem Length.launchPacket (q pkg ten : Nat) (entry : List (BitVec 64)) :
    Length.Statement (.launchPacket q pkg ten entry) := rfl
theorem Length.mailboxXinv (a b : BitVec 64) :
    Length.Statement (.mailboxXinv a b) := rfl
theorem Length.mailboxXinvForced (a b : BitVec 64) :
    Length.Statement (.mailboxXinvForced a b) := rfl
theorem Length.mailboxXpin (a b : BitVec 64) :
    Length.Statement (.mailboxXpin a b) := rfl
theorem Length.mailboxXunpin (a b : BitVec 64) :
    Length.Statement (.mailboxXunpin a b) := rfl
theorem Length.descinv (a b : BitVec 64) :
    Length.Statement (.descinv a b) := rfl
theorem Length.hold (a b : BitVec 64) :
    Length.Statement (.hold a b) := rfl
theorem Length.release (a b : BitVec 64) :
    Length.Statement (.release a b) := rfl
theorem Length.preempt (a b : BitVec 64) :
    Length.Statement (.preempt a b) := rfl
theorem Length.preemptTimeout (slot : Nat) :
    Length.Statement (.preemptTimeout slot) := rfl
theorem Length.resume (a b : BitVec 64) :
    Length.Statement (.resume a b) := rfl
theorem Length.restore (die : Nat) :
    Length.Statement (.restore die) := rfl
theorem Length.pushsave (a b : BitVec 64) :
    Length.Statement (.pushsave a b) := rfl
theorem Length.drop (a b : BitVec 64) :
    Length.Statement (.drop a b) := rfl
theorem Length.adopt (a b : BitVec 64) :
    Length.Statement (.adopt a b) := rfl
theorem Length.quarantineRelease (a b : BitVec 64) :
    Length.Statement (.quarantineRelease a b) := rfl
theorem Length.signReport (a b : BitVec 64) :
    Length.Statement (.signReport a b) := rfl
theorem Length.mailboxUnassigned (op : BitVec 4) (a b : BitVec 64) :
    Length.Statement (.mailboxUnassigned op a b) := rfl
theorem Length.retreq (core array bank : Nat) :
    Length.Statement (.retreq core array bank) := rfl
theorem Length.shrink (core : Nat) :
    Length.Statement (.shrink core) := rfl
theorem Length.retirementDeadline (core : Nat) :
    Length.Statement (.retirementDeadline core) := rfl
theorem Length.relocate (core : Nat) :
    Length.Statement (.relocate core) := rfl
theorem Length.reInterleave (core : Nat) :
    Length.Statement (.reInterleave core) := rfl
theorem Length.close (core : Nat) :
    Length.Statement (.close core) := rfl
theorem Length.bankRetirement (core : Nat) :
    Length.Statement (.bankRetirement core) := rfl
theorem Length.syncWordMove (die : Nat) :
    Length.Statement (.syncWordMove die) := rfl
theorem Length.homeMove (asid : Nat) (va : BitVec 64) :
    Length.Statement (.homeMove asid va) := rfl
theorem Length.linkFailure (k : LinkKind) (n : Nat) :
    Length.Statement (.linkFailure k n) := rfl
theorem Length.linkTimeout (k : LinkKind) (n : Nat) :
    Length.Statement (.linkTimeout k n) := rfl
theorem Length.linkRecovery (k : LinkKind) (n : Nat) :
    Length.Statement (.linkRecovery k n) := rfl
theorem Length.flitReceive (link : Nat) (bytes : List (BitVec 8)) :
    Length.Statement (.flitReceive link bytes) := rfl
theorem Length.retrainEnd (link : Nat) :
    Length.Statement (.retrainEnd link) := rfl
theorem Length.heartbeat (pkg : Nat) :
    Length.Statement (.heartbeat pkg) := rfl
theorem Length.declareDead (pkg : Nat) :
    Length.Statement (.declareDead pkg) := rfl
theorem Length.standbyTakeover  :
    Length.Statement .standbyTakeover := rfl
theorem Length.posting (member tenant tag accept : Nat) (demand : List Nat) :
    Length.Statement (.posting member tenant tag accept demand) := rfl
theorem Length.calendar (tenant tag : Nat) (phases : Nat) (repost : Bool) (entries : List CalEntry) :
    Length.Statement (.calendar tenant tag phases repost entries) := rfl
theorem Length.calendarAck (member tenant tag : Nat) :
    Length.Statement (.calendarAck member tenant tag) := rfl
theorem Length.commit (tenant tag : Nat) (base : Nat) :
    Length.Statement (.commit tenant tag base) := rfl
theorem Length.drunEntry (tenant tag e : Nat) (data : List (BitVec 8)) (ended : Bool) :
    Length.Statement (.drunEntry tenant tag e data ended) := rfl
theorem Length.fredContribution (member : Nat) (red : FredDesc) (data : List (BitVec 8)) :
    Length.Statement (.fredContribution member red data) := rfl
theorem Length.reductionDeadline (rid : Nat) :
    Length.Statement (.reductionDeadline rid) := rfl
theorem Length.remoteAtomic (src num : Nat) (op : AtomOp) :
    Length.Statement (.remoteAtomic src num op) := rfl
theorem Length.atomicReply (num : Nat) (reply : AtomReply) :
    Length.Statement (.atomicReply num reply) := rfl
theorem Length.atomicRetry (num : Nat) :
    Length.Statement (.atomicRetry num) := rfl
theorem Length.replyCacheExpiry (src : Nat) :
    Length.Statement (.replyCacheExpiry src) := rfl
theorem Length.buddyImage (img : BuddyImg) :
    Length.Statement (.buddyImage img) := rfl
theorem Length.markKey (t i : Nat) (v : BitVec 64) :
    Length.Statement (.markKey t i v) := rfl
theorem Length.clear (t : Nat) :
    Length.Statement (.clear t) := rfl
theorem Length.moduleReset  :
    Length.Statement .moduleReset := rfl
theorem Length.bootStage (ok : Bool) (image : List (BitVec 8)) :
    Length.Statement (.bootStage ok image) := rfl
theorem Length.illegal (reason : BitVec 8) (addr : BitVec 64) :
    Length.Statement (.illegal reason addr) := rfl
theorem Length.awaitTime (slot : Nat) :
    Length.Statement (.awaitTime slot) := rfl
theorem Length.quota (core k : Nat) (tile : BitVec 10) (acc : BitVec 6) :
    Length.Statement (.quota core k tile acc) := rfl
theorem Length.knownAnswerService (core : Nat) (pass : Bool) :
    Length.Statement (.knownAnswerService core pass) := rfl
theorem Length.retrainAtRequest (link : Nat) :
    Length.Statement (.retrainAtRequest link) := rfl
theorem Length.measurementExtend (n : Nat) (m : List (BitVec 8)) :
    Length.Statement (.measurementExtend n m) := rfl

end Sys2Proof.Laws
end

