-- ==== Sys2Proof/Tests/Slice0.lean ====
section
/-! SUPPORT. The model's own tests: ill-formed terms that WellFormed refuses, words written out from the spec's encodings,
a state that meets the hypotheses of each statement, and one-step checks. -/

namespace Sys2Proof.Tests

open Sys2Proof Sys2Proof.Machine

-- one thread: each proof below evaluates a whole step
set_option Elab.async false

/-! ### Ill-formed instructions are refused -/

/-- A header with a token syllable. -/
def tokH (wait sig itag mod : BitVec 8) : Hdr := ⟨true, some ⟨wait, sig, itag, mod⟩⟩
/-- A header without one. -/
def plain : Hdr := ⟨true, none⟩

/-- Minor codes held by a field of the constructor (R155, R258). -/
theorem test_wf_minor : ¬ WellFormed (.cmp plain 1 10 2 3) ∧ ¬ WellFormed (.vscan plain 1 2 0 6 0 false false false) ∧
    ¬ WellFormed (.vred plain 1 2 0 7 0 false false false) := by decide

/-- Operand values of the scalar and control entries (R154 to R176). -/
theorem test_wf_scalar : ¬ WellFormed (.cmpi plain 1 2 10 0) ∧ ¬ WellFormed (.sext plain 1 2 3) ∧ ¬ WellFormed (.zext plain 1 2 31) ∧
    ¬ WellFormed (.br plain 1 false 0 15) ∧ ¬ WellFormed (.brl plain 1 false 0 15) ∧ ¬ WellFormed (.loop plain 1 0 15) ∧
    ¬ WellFormed (.brq plain 1 false 0 15) ∧ ¬ WellFormed (.fork plain 0 15) ∧ ¬ WellFormed (.await plain 6 0) ∧
    ¬ WellFormed (.await plain 1 8) ∧ ¬ WellFormed (.shape plain 1 2 33) ∧ ¬ WellFormed (.brmz plain false 0 15) := by decide

/-- Operand values and MOD bytes of the memory entries (R179 to R194). -/
theorem test_wf_memory : ¬ WellFormed (.ld plain 1 2 7 0) ∧ ¬ WellFormed (.st plain 1 2 4 0) ∧ ¬ WellFormed (.ld (tokH 0 0 0 2) 1 2 0 0) ∧
    ¬ WellFormed (.ld (tokH 0 0 0 0x18) 1 2 0 0) ∧ ¬ WellFormed (.aadd plain 1 2 3 0 0 0) ∧ ¬ WellFormed (.afadd plain 1 2 3 2 0 0) ∧
    ¬ WellFormed (.amin plain 1 2 3 2 1 6 false) ∧ ¬ WellFormed (.acas plain 1 2 3 2 0 1 4) ∧ ¬ WellFormed (.sldf plain 1 2 6) ∧
    ¬ WellFormed (.sstf plain 1 2 7) ∧ ¬ WellFormed (.fence plain 6) ∧ ¬ WellFormed (.fencer plain 2 0) ∧
    ¬ WellFormed (.rngbind plain 15 1 false false 1) ∧ ¬ WellFormed (.rngbind plain 0 1 true false 1) ∧
    ¬ WellFormed (.rngbind plain 0 1 false true 32) ∧ ¬ WellFormed (.rngbind plain 0 1 false false 0) ∧ ¬ WellFormed (.rngfree plain 15) ∧
    ¬ WellFormed (.gbar plain 1 2 6) ∧ ¬ WellFormed (.xroute plain 1 31 2) := by decide

/-- Operand values of the copy engine's entries (R205 to R225). -/
theorem test_wf_copy : ¬ WellFormed (.fetch plain 1 2 3 0 4 5 0 false false false 6) ∧
    ¬ WellFormed (.fetchMc plain 1 2 3 1 4 5 0 false false false 6 0) ∧ ¬ WellFormed (.fetchMc plain 31 2 3 1 4 5 0 false false false 6 7) ∧
    ¬ WellFormed (.fetchRf (tokH 0 0 0 0xC0) 1 2 3 4 0 false 5) ∧ ¬ WellFormed (.talloc plain 1 2 3 false 0) ∧
    ¬ WellFormed (.tsettle plain 1 5) ∧ ¬ WellFormed (.tquery plain 1 2 6) ∧ ¬ WellFormed (.cgath plain 1 2 3 1 4 31 0 false) ∧
    ¬ WellFormed (.cscat plain 1 2 3 31 0 false) ∧ ¬ WellFormed (.btnext plain 1 1 2) ∧ ¬ WellFormed (.dstat plain 1 2 5) := by decide

/-- Operand values of the matrix and vector entries (R235 to R262). -/
theorem test_wf_engines : ¬ WellFormed (.mset plain 4 2 0) ∧ ¬ WellFormed (.mset plain 2 2 5) ∧ ¬ WellFormed (.mmulc plain 1 1 2 false) ∧
    ¬ WellFormed (.mrot plain 3 3) ∧ ¬ WellFormed (.mdrain plain 1 2 2 1 0) ∧ ¬ WellFormed (.mdrain plain 1 2 8 0 0) ∧
    ¬ WellFormed (.vcmp plain 0 1 2 3 0) ∧ ¬ WellFormed (.vcmp plain 7 1 2 3 0) ∧ ¬ WellFormed (.viadd plain 1 2 3 0 3 false false) ∧
    ¬ WellFormed (.vcvt plain 1 2 0 1 1) ∧ ¬ WellFormed (.vcvt plain 1 2 0 3 1) ∧
    ¬ WellFormed (.vscan plain 1 2 0 0 0 true false false) ∧ ¬ WellFormed (.vred plain 1 2 0 4 3 false false false) := by decide

/-- Token syllables: on an entry that takes none, and MOD bits that an entry does not assign (R134, R147 check 10). -/
theorem test_wf_token : ¬ WellFormed (.br (tokH 0 0 0 0) 1 false 0 0) ∧ ¬ WellFormed (.trap (tokH 0 0 0 0) 1) ∧
    ¬ WellFormed (.add (tokH 0x80 0 0 1) 1 2 3) ∧ ¬ WellFormed (.talloc (tokH 0 0 0 0x10) 1 2 3 false 1) ∧
    WellFormed (.add (tokH 0x80 0x40 7 0) 1 2 3) ∧ WellFormed (.ld (tokH 0 0 0 0x15) 1 2 6 0x80) := by decide

/-- Events that name no part of the machine. -/
theorem test_wf_events : ¬ WellFormed (.commandStart 192 .copy) ∧ ¬ WellFormed (.tileFree 0 512) ∧ ¬ WellFormed (.taskStart 768) ∧
    ¬ WellFormed (.replay 1 0 0 0 0 0 false) ∧ ¬ WellFormed (.dealChunk 4) ∧ ¬ WellFormed (.entryRead 4096) ∧
    ¬ WellFormed (.apertureAccess false 4 0) ∧ ¬ WellFormed (.registerWrite 0x1000000 0) ∧ ¬ WellFormed (.flitReceive 0 []) ∧
    ¬ WellFormed (.heartbeat 288) ∧ ¬ WellFormed (.linkFailure .memory 32) ∧ ¬ WellFormed (.markKey 64 0 0) ∧
    ¬ WellFormed (.measurementExtend 2 []) ∧ ¬ WellFormed (.quota 0 4 0 0) := by decide

/-! ### Words of the spec's encodings -/

/-- A token syllable stands behind the extension syllables: WAIT in [31:24], SIG in [23:16], ITAG in [15:8], MOD in [7:0]. -/
theorem test_decode_token :
    decode (some .a) [0xB4400000 + 1 * 0x800 + 2 * 0x40 + 3 * 2, 0x00000340, 0x80000900] =
      .ok (.aadd ⟨true, some ⟨0x80, 0, 9, 0⟩⟩ 1 2 3 2 2 1) 3 ∧
    decode (some .a) [0x84000000 + 0x10000000 + 5 * 0x10000 + 6 * 0x800 + 3 * 0x100 + 0xFF, 0x00000015] =
      .ok (.ld ⟨true, some ⟨0, 0, 0, 0x15⟩⟩ 5 6 3 0xFF) 2 := by decide

/-- A header whose S is 0 ends no bundle. -/
theorem test_decode_stop : decode (some .x) [0x002110C0] = .ok (.add ⟨false, none⟩ 1 2 3) 1 := by decide

/-- Arithmetic, immediates, bit fields, comparisons, predicates (majors 0x01 to 0x0B): each word is S, LEN, the major and the minor at their places in R133, plus the fields of the entry at theirs. -/
theorem test_decodeScalar1 :
    decode (some .a) [0x8021F440] = .ok (.add ⟨true, none⟩ 1 30 17) 1 ∧
    decode (some .a) [0x8021F441] = .ok (.sub ⟨true, none⟩ 1 30 17) 1 ∧
    decode (some .a) [0x8021F442] = .ok (.mul ⟨true, none⟩ 1 30 17) 1 ∧
    decode (some .a) [0x8021F443] = .ok (.mulh ⟨true, none⟩ 1 30 17) 1 ∧
    decode (some .a) [0x8021F444] = .ok (.mulhu ⟨true, none⟩ 1 30 17) 1 ∧
    decode (some .a) [0x8021F445] = .ok (.div ⟨true, none⟩ 1 30 17) 1 ∧
    decode (some .a) [0x8021F446] = .ok (.divu ⟨true, none⟩ 1 30 17) 1 ∧
    decode (some .a) [0x8021F447] = .ok (.rem ⟨true, none⟩ 1 30 17) 1 ∧
    decode (some .a) [0x8021F448] = .ok (.remu ⟨true, none⟩ 1 30 17) 1 ∧
    decode (some .a) [0x8021F449] = .ok (.and ⟨true, none⟩ 1 30 17) 1 ∧
    decode (some .a) [0x8021F44A] = .ok (.or ⟨true, none⟩ 1 30 17) 1 ∧
    decode (some .a) [0x8021F44B] = .ok (.xor ⟨true, none⟩ 1 30 17) 1 ∧
    decode (some .a) [0x8021F44C] = .ok (.andn ⟨true, none⟩ 1 30 17) 1 ∧
    decode (some .a) [0x8021F44D] = .ok (.shl ⟨true, none⟩ 1 30 17) 1 ∧
    decode (some .a) [0x8021F44E] = .ok (.shr ⟨true, none⟩ 1 30 17) 1 ∧
    decode (some .a) [0x8021F44F] = .ok (.sar ⟨true, none⟩ 1 30 17) 1 ∧
    decode (some .a) [0x8021F450] = .ok (.rot ⟨true, none⟩ 1 30 17) 1 ∧
    decode (some .a) [0x8021F451] = .ok (.min ⟨true, none⟩ 1 30 17) 1 ∧
    decode (some .a) [0x8021F452] = .ok (.max ⟨true, none⟩ 1 30 17) 1 ∧
    decode (some .a) [0x8021F453] = .ok (.minu ⟨true, none⟩ 1 30 17) 1 := by
  refine ⟨?_, ?_, ?_, ?_, ?_, ?_, ?_, ?_, ?_, ?_, ?_, ?_, ?_, ?_, ?_, ?_, ?_, ?_, ?_, ?_⟩ <;> rfl

/-- Arithmetic, immediates, bit fields, comparisons, predicates (majors 0x01 to 0x0B): each word is S, LEN, the major and the minor at their places in R133, plus the fields of the entry at theirs. -/
theorem test_decodeScalar2 :
    decode (some .a) [0x8021F454] = .ok (.maxu ⟨true, none⟩ 1 30 17) 1 ∧
    decode (some .a) [0x8021F45D] = .ok (.sel ⟨true, none⟩ 1 30 17 5) 1 ∧
    decode (some .a) [0x8041F569] = .ok (.addi ⟨true, none⟩ 1 30 0x569) 1 ∧
    decode (some .a) [0x8061F569] = .ok (.andi ⟨true, none⟩ 1 30 0x569) 1 ∧
    decode (some .a) [0x8081F569] = .ok (.ori ⟨true, none⟩ 1 30 0x569) 1 ∧
    decode (some .a) [0x80A1F569] = .ok (.xori ⟨true, none⟩ 1 30 0x569) 1 ∧
    decode (some .a) [0x80C1F029] = .ok (.shli ⟨true, none⟩ 1 30 41) 1 ∧
    decode (some .a) [0x80C1F129] = .ok (.shri ⟨true, none⟩ 1 30 41) 1 ∧
    decode (some .a) [0x80C1F229] = .ok (.sari ⟨true, none⟩ 1 30 41) 1 ∧
    decode (some .a) [0x80C1F329] = .ok (.roti ⟨true, none⟩ 1 30 41) 1 ∧
    decode (some .a) [0x80E5F441] = .ok (.cmpi ⟨true, none⟩ 5 30 8 65) 1 ∧
    decode (some .a) [0x8101F000] = .ok (.clz ⟨true, none⟩ 1 30) 1 ∧
    decode (some .a) [0x8101F001] = .ok (.popc ⟨true, none⟩ 1 30) 1 ∧
    decode (some .a) [0x8101F082] = .ok (.sext ⟨true, none⟩ 1 30 2) 1 ∧
    decode (some .a) [0x8101F043] = .ok (.zext ⟨true, none⟩ 1 30 1) 1 ∧
    decode (some .a) [0x8101F444] = .ok (.bfx ⟨true, none⟩ 1 30 17) 1 ∧
    decode (some .a) [0x8101F445] = .ok (.bfi ⟨true, none⟩ 1 30 17) 1 ∧
    decode (some .a) [0x81258A45] = .ok (.cmp ⟨true, none⟩ 5 5 17 9) 1 ∧
    decode (some .a) [0x81451980] = .ok (.pand ⟨true, none⟩ 5 3 6) 1 ∧
    decode (some .a) [0x81451981] = .ok (.por ⟨true, none⟩ 5 3 6) 1 := by
  refine ⟨?_, ?_, ?_, ?_, ?_, ?_, ?_, ?_, ?_, ?_, ?_, ?_, ?_, ?_, ?_, ?_, ?_, ?_, ?_, ?_⟩ <;> rfl

/-- Arithmetic, immediates, bit fields, comparisons, predicates (majors 0x01 to 0x0B): each word is S, LEN, the major and the minor at their places in R133, plus the fields of the entry at theirs. -/
theorem test_decodeScalar3 :
    decode (some .a) [0x81451982] = .ok (.pxor ⟨true, none⟩ 5 3 6) 1 ∧
    decode (some .a) [0x81451803] = .ok (.pnot ⟨true, none⟩ 5 3) 1 ∧
    decode (some .a) [0x81451804] = .ok (.pmov ⟨true, none⟩ 5 3) 1 ∧
    decode (some .a) [0xC1600800, 0x89ABCDEF, 0x12345678] = .ok (.li ⟨true, none⟩ 1 0x89abcdef 0x12345678) 3 := by
  refine ⟨?_, ?_, ?_, ?_⟩ <;> rfl

/-- Branches, queues, task control, traps, control registers, SHAPE (majors 0x10 to 0x1B), and BRMZ (0x60): each word is S, LEN, the major and the minor at their places in R133, plus the fields of the entry at theirs. -/
theorem test_decodeControl1 :
    decode (some .a) [0x8217ABCE] = .ok (.br ⟨true, none⟩ 5 true 0x1abc 14) 1 ∧
    decode (some .a) [0x8237ABCE] = .ok (.brl ⟨true, none⟩ 5 true 0x1abc 14) 1 ∧
    decode (some .a) [0x82400800] = .ok (.jmpr ⟨true, none⟩ 1) 1 ∧
    decode (some .a) [0x8241F001] = .ok (.call ⟨true, none⟩ 1 30) 1 ∧
    decode (some .a) [0x82400802] = .ok (.ret ⟨true, none⟩ 1) 1 ∧
    decode (some .a) [0xA2600800, 0x0001ABCE] = .ok (.loop ⟨true, none⟩ 1 0x1abc 14) 2 ∧
    decode (some .a) [0x82800800] = .ok (.dqpush ⟨true, none⟩ 1) 1 ∧
    decode (some .a) [0x82810001] = .ok (.dqpop ⟨true, none⟩ 1) 1 ∧
    decode (some .a) [0x82802802] = .ok (.bqpush ⟨true, none⟩ 5) 1 ∧
    decode (some .a) [0x82B7ABCE] = .ok (.brq ⟨true, none⟩ 5 true 0x1abc 14) 1 ∧
    decode (some .a) [0xA2C00000, 0x0001ABCE] = .ok (.fork ⟨true, none⟩ 0x1abc 14) 2 ∧
    decode (some .a) [0x82C10000] = .ok (.rdv ⟨true, none⟩) 1 ∧
    decode (some .a) [0x82C20000] = .ok (.exit ⟨true, none⟩) 1 ∧
    decode (some .a) [0xA2C30001, 0x89ABCDEF] = .ok (.yield ⟨true, none⟩ true 0x89abcdef) 2 ∧
    decode (some .a) [0x82C4401E] = .ok (.await ⟨true, none⟩ 4 30) 1 ∧
    decode (some .a) [0x82C50000] = .ok (.nop ⟨true, none⟩) 1 ∧
    decode (some .a) [0x82C608D3] = .ok (.qcancel ⟨true, none⟩ 1 0xd3) 1 ∧
    decode (some .a) [0x8300A5C3] = .ok (.trap ⟨true, none⟩ 0xa5c3) 1 ∧
    decode (some .a) [0x83010000] = .ok (.eret ⟨true, none⟩) 1 ∧
    decode (some .a) [0x8302A5C3] = .ok (.brk ⟨true, none⟩ 0xa5c3) 1 := by
  refine ⟨?_, ?_, ?_, ?_, ?_, ?_, ?_, ?_, ?_, ?_, ?_, ?_, ?_, ?_, ?_, ?_, ?_, ?_, ?_, ?_⟩ <;> rfl

/-- Branches, queues, task control, traps, control registers, SHAPE (majors 0x10 to 0x1B), and BRMZ (0x60): each word is S, LEN, the major and the minor at their places in R133, plus the fields of the entry at theirs. -/
theorem test_decodeControl2 :
    decode (some .a) [0xA3200800, 0x00000AD3] = .ok (.sysrd ⟨true, none⟩ 1 0xad3) 2 ∧
    decode (some .a) [0xA3400800, 0x00000AD3] = .ok (.syswr ⟨true, none⟩ 1 0xad3) 2 ∧
    decode (some .a) [0x83600FA0] = .ok (.shape ⟨true, none⟩ 1 30 32) 1 ∧
    decode (some .x) [0x8C03ABCE] = .ok (.brmz ⟨true, none⟩ true 0x1abc 14) 1 := by
  refine ⟨?_, ?_, ?_, ?_⟩ <;> rfl

/-- Loads, stores, atomics, synchronisation, fences, ranges, groups, rings, translation (majors 0x20 to 0x29): each word is S, LEN, the major and the minor at their places in R133, plus the fields of the entry at theirs. -/
theorem test_decodeMemory1 :
    decode (some .a) [0x8401F6A7] = .ok (.ld ⟨true, none⟩ 1 30 6 0xa7) 1 ∧
    decode (some .a) [0x8421F2A7] = .ok (.st ⟨true, none⟩ 1 30 2 0xa7) 1 ∧
    decode (some .a) [0xA4400FA2, 0x000006C0] = .ok (.aadd ⟨true, none⟩ 1 30 17 2 1 3) 2 ∧
    decode (some .a) [0xA4410FA2, 0x00000920] = .ok (.afadd ⟨true, none⟩ 1 30 17 1 2 4) 2 ∧
    decode (some .a) [0xA4420FA2, 0x000015A0] = .ok (.amin ⟨true, none⟩ 1 30 17 1 3 2 true) 2 ∧
    decode (some .a) [0xA4430FA2, 0x000015A0] = .ok (.amax ⟨true, none⟩ 1 30 17 1 3 2 true) 2 ∧
    decode (some .a) [0xA4440FA2, 0x000005A0] = .ok (.aand ⟨true, none⟩ 1 30 17 1 3 2) 2 ∧
    decode (some .a) [0xA4450FA2, 0x000005A0] = .ok (.aor ⟨true, none⟩ 1 30 17 1 3 2) 2 ∧
    decode (some .a) [0xA4460FA2, 0x000005A0] = .ok (.axor ⟨true, none⟩ 1 30 17 1 3 2) 2 ∧
    decode (some .a) [0xA4470FA2, 0x000005A0] = .ok (.aswp ⟨true, none⟩ 1 30 17 1 3 2) 2 ∧
    decode (some .a) [0xA4480FA2, 0x000005A5] = .ok (.acas ⟨true, none⟩ 1 30 17 1 3 2 5) 2 ∧
    decode (some .a) [0x84600F98] = .ok (.sldf ⟨true, none⟩ 1 30 3) 1 ∧
    decode (some .a) [0x84610F98] = .ok (.sldw ⟨true, none⟩ 1 30 3) 1 ∧
    decode (some .a) [0x84620F98] = .ok (.sste ⟨true, none⟩ 1 30 3) 1 ∧
    decode (some .a) [0x84630F98] = .ok (.sstf ⟨true, none⟩ 1 30 3) 1 ∧
    decode (some .a) [0x84640040] = .ok (.seclr ⟨true, none⟩ 1) 1 ∧
    decode (some .a) [0x84806000] = .ok (.fence ⟨true, none⟩ 3) 1 ∧
    decode (some .a) [0xA4816000, 0x0000A5C3] = .ok (.fencer ⟨true, none⟩ 3 0xa5c3) 2 ∧
    decode (some .a) [0x84820005] = .ok (.drain ⟨true, none⟩ 5) 1 ∧
    decode (some .a) [0xA4A05F40, 0x00000000] = .ok (.rngbind ⟨true, none⟩ 5 30 true false 0) 2 := by
  refine ⟨?_, ?_, ?_, ?_, ?_, ?_, ?_, ?_, ?_, ?_, ?_, ?_, ?_, ?_, ?_, ?_, ?_, ?_, ?_, ?_⟩ <;> rfl

/-- Loads, stores, atomics, synchronisation, fences, ranges, groups, rings, translation (majors 0x20 to 0x29): each word is S, LEN, the major and the minor at their places in R133, plus the fields of the entry at theirs. -/
theorem test_decodeMemory2 :
    decode (some .a) [0xA4A1E000, 0x00000000] = .ok (.rngfree ⟨true, none⟩ 14) 2 ∧
    decode (some .a) [0x84C00F80] = .ok (.gjoin ⟨true, none⟩ 1 30) 1 ∧
    decode (some .a) [0x84C10F80] = .ok (.gleave ⟨true, none⟩ 1 30) 1 ∧
    decode (some .a) [0x84C20F98] = .ok (.gbar ⟨true, none⟩ 1 30 3) 1 ∧
    decode (some .a) [0x84E00FA2] = .ok (.rres ⟨true, none⟩ 1 30 17) 1 ∧
    decode (some .a) [0x84E10FA2] = .ok (.rpub ⟨true, none⟩ 1 30 17) 1 ∧
    decode (some .a) [0x84E20F8C] = .ok (.rtake ⟨true, none⟩ 1 30 6) 1 ∧
    decode (some .a) [0x84E30F80] = .ok (.rfree ⟨true, none⟩ 1 30) 1 ∧
    decode (some .a) [0x85000FA2] = .ok (.xroute ⟨true, none⟩ 1 30 17) 1 ∧
    decode (some .a) [0x85200FA3] = .ok (.xinv ⟨true, none⟩ 1 30 17 true) 1 ∧
    decode (some .a) [0x85210FA2] = .ok (.xpin ⟨true, none⟩ 1 30 17) 1 ∧
    decode (some .a) [0x85220FA2] = .ok (.xunpin ⟨true, none⟩ 1 30 17) 1 := by
  refine ⟨?_, ?_, ?_, ?_, ?_, ?_, ?_, ?_, ?_, ?_, ?_, ?_⟩ <;> rfl

/-- The copy engine, exchange and jobs (majors 0x30 to 0x3B): each word is S, LEN, the major and the minor at their places in R133, plus the fields of the entry at theirs. -/
theorem test_decodeCopy1 :
    decode (some .a) [0xC6000FA2, 0xA5C3B377, 0x0000001E] = .ok (.fetch ⟨true, none⟩ 1 30 17 0xa5c3 22 13 6 true true true 30) 3 ∧
    decode (some .a) [0xC6010FA2, 0xA5C3B377, 0x0000001E] = .ok (.fetchT ⟨true, none⟩ 1 30 17 0xa5c3 22 13 6 true true true 30) 3 ∧
    decode (some .a) [0xC6020FA2, 0xA5C3B377, 0x000000BE] = .ok (.fetchMc ⟨true, none⟩ 1 30 17 0xa5c3 22 13 6 true true true 30 5) 3 ∧
    decode (some .a) [0xC6030FA2, 0x00004834, 0x00000005] = .ok (.fetchRf ⟨true, none⟩ 1 30 17 9 6 true 5) 3 ∧
    decode (some .a) [0xA6200FA3, 0x0000A5C3] = .ok (.talloc ⟨true, none⟩ 1 30 17 true 0xa5c3) 2 ∧
    decode (some .a) [0xA6400FA2, 0x00003AC9] = .ok (.tstore ⟨true, none⟩ 1 30 17 9 22 6 true) 2 ∧
    decode (some .a) [0x86600040] = .ok (.tcon ⟨true, none⟩ 1) 1 ∧
    decode (some .a) [0x86610040] = .ok (.trel ⟨true, none⟩ 1) 1 ∧
    decode (some .a) [0x8662007C] = .ok (.tadj ⟨true, none⟩ 1 30) 1 ∧
    decode (some .a) [0x86630048] = .ok (.tsettle ⟨true, none⟩ 1 4) 1 ∧
    decode (some .a) [0x86640F8A] = .ok (.tquery ⟨true, none⟩ 1 30 5) 1 ∧
    decode (some .a) [0x86800FB4] = .ok (.park ⟨true, none⟩ 1 30 6 true) 1 ∧
    decode (some .a) [0x86810FB4] = .ok (.unpark ⟨true, none⟩ 1 30 6 true) 1 ∧
    decode (some .a) [0x86A0C000] = .ok (.cgrp ⟨true, none⟩ 6) 1 ∧
    decode (some .a) [0x86A1C000] = .ok (.cwait ⟨true, none⟩ 6) 1 ∧
    decode (some .a) [0xA6C00FA2, 0x0000000E] = .ok (.ccopy ⟨true, none⟩ 1 30 17 6 true) 2 ∧
    decode (some .a) [0xA6E00FA2, 0x39B6A5C3] = .ok (.cgath ⟨true, none⟩ 1 30 17 0xa5c3 22 13 6 true) 2 ∧
    decode (some .a) [0xA6E1083C, 0x39310000] = .ok (.cscat ⟨true, none⟩ 1 30 17 9 6 true) 2 ∧
    decode (some .a) [0x87000A62] = .ok (.btnext ⟨true, none⟩ 1 9 17) 1 ∧
    decode (some .a) [0x87200040] = .ok (.dpost ⟨true, none⟩ 1) 1 := by
  refine ⟨?_, ?_, ?_, ?_, ?_, ?_, ?_, ?_, ?_, ?_, ?_, ?_, ?_, ?_, ?_, ?_, ?_, ?_, ?_, ?_⟩ <;> rfl

/-- The copy engine, exchange and jobs (majors 0x30 to 0x3B): each word is S, LEN, the major and the minor at their places in R133, plus the fields of the entry at theirs. -/
theorem test_decodeCopy2 :
    decode (some .a) [0x87210F80] = .ok (.dcal ⟨true, none⟩ 1 30) 1 ∧
    decode (some .a) [0x87227452] = .ok (.drun ⟨true, none⟩ 6 true 17 9) 1 ∧
    decode (some .a) [0x87230F88] = .ok (.dstat ⟨true, none⟩ 1 30 4) 1 ∧
    decode (some .a) [0x87400074] = .ok (.fred ⟨true, none⟩ 1 6 true) 1 ∧
    decode (some .a) [0x87600FA2] = .ok (.jpost ⟨true, none⟩ 1 30 17) 1 ∧
    decode (some .a) [0x87610FA2] = .ok (.jwait ⟨true, none⟩ 1 30 17) 1 := by
  refine ⟨?_, ?_, ?_, ?_, ?_, ?_⟩ <;> rfl

/-- The matrix engine (majors 0x40 to 0x47): each word is S, LEN, the major and the minor at their places in R133, plus the fields of the entry at theirs. -/
theorem test_decodeMatrix :
    decode (some .x) [0x88005480] = .ok (.mset ⟨true, none⟩ 5 4 4) 1 ∧
    decode (some .x) [0x88200C00] = .ok (.mzero ⟨true, none⟩ 1 true) 1 ∧
    decode (some .x) [0x88210000] = .ok (.mstart ⟨true, none⟩) 1 ∧
    decode (some .x) [0x88400FA3] = .ok (.mmul ⟨true, none⟩ 1 30 17 true) 1 ∧
    decode (some .x) [0x88600FA3] = .ok (.mmulc ⟨true, none⟩ 1 30 17 true) 1 ∧
    decode (some .x) [0x88610F80] = .ok (.mrot ⟨true, none⟩ 1 30) 1 ∧
    decode (some .x) [0xA8800F88, 0x12345678] = .ok (.mdrain ⟨true, none⟩ 1 30 2 0 0x12345678) 2 ∧
    decode (some .x) [0x88A00FB4] = .ok (.mtopk ⟨true, none⟩ 1 30 6 true) 1 ∧
    decode (some .x) [0x88A10F80] = .ok (.mtopkrd ⟨true, none⟩ 1 30) 1 ∧
    decode (some .x) [0x88A10804] = .ok (.mtopkrdT ⟨true, none⟩ 1) 1 ∧
    decode (some .x) [0xC8C0A5C3, 0x89ABCDEF, 0x12345678] = .ok (.mkat ⟨true, none⟩ 0xa5c3 0x89abcdef 0x12345678) 3 ∧
    decode (some .x) [0x88E00FA0] = .ok (.macc ⟨true, none⟩ 1 30 true) 1 ∧
    decode (some .x) [0x88E10FA0] = .ok (.mldacc ⟨true, none⟩ 1 30 true) 1 ∧
    decode (some .x) [0x88E20FA0] = .ok (.mstacc ⟨true, none⟩ 1 30 true) 1 := by
  refine ⟨?_, ?_, ?_, ?_, ?_, ?_, ?_, ?_, ?_, ?_, ?_, ?_, ?_, ?_⟩ <;> rfl

/-- The vector engine (majors 0x50 to 0x5F): each word is S, LEN, the major and the minor at their places in R133, plus the fields of the entry at theirs. -/
theorem test_decodeVector1 :
    decode (some .x) [0x8A01F470] = .ok (.vadd ⟨true, none⟩ 1 30 17 6) 1 ∧
    decode (some .x) [0x8A01F471] = .ok (.vsub ⟨true, none⟩ 1 30 17 6) 1 ∧
    decode (some .x) [0x8A01F472] = .ok (.vmul ⟨true, none⟩ 1 30 17 6) 1 ∧
    decode (some .x) [0x8A01F473] = .ok (.vmin ⟨true, none⟩ 1 30 17 6) 1 ∧
    decode (some .x) [0x8A01F474] = .ok (.vmax ⟨true, none⟩ 1 30 17 6) 1 ∧
    decode (some .x) [0x8A21F470] = .ok (.vfma ⟨true, none⟩ 1 30 17 6) 1 ∧
    decode (some .x) [0x8A21F471] = .ok (.vfmaN ⟨true, none⟩ 1 30 17 6) 1 ∧
    decode (some .x) [0x8A41F030] = .ok (.vabs ⟨true, none⟩ 1 30 6) 1 ∧
    decode (some .x) [0x8A41F031] = .ok (.vneg ⟨true, none⟩ 1 30 6) 1 ∧
    decode (some .x) [0x8A41F032] = .ok (.vrcp ⟨true, none⟩ 1 30 6) 1 ∧
    decode (some .x) [0x8A41F033] = .ok (.vrsq ⟨true, none⟩ 1 30 6) 1 ∧
    decode (some .x) [0x8A41F034] = .ok (.vexp2 ⟨true, none⟩ 1 30 6) 1 ∧
    decode (some .x) [0x8A41F035] = .ok (.vlog2 ⟨true, none⟩ 1 30 6) 1 ∧
    decode (some .x) [0x8A41F476] = .ok (.vscale ⟨true, none⟩ 1 30 17 6) 1 ∧
    decode (some .x) [0x8A638A72] = .ok (.vcmp ⟨true, none⟩ 3 2 17 9 6) 1 ∧
    decode (some .x) [0x8A81F470] = .ok (.vsel ⟨true, none⟩ 1 30 17 6) 1 ∧
    decode (some .x) [0xAAA00FA2, 0x00000076] = .ok (.viadd ⟨true, none⟩ 1 30 17 6 2 true true) 2 ∧
    decode (some .x) [0xAAA10FA2, 0x00000076] = .ok (.visub ⟨true, none⟩ 1 30 17 6 2 true true) 2 ∧
    decode (some .x) [0xAAA20FA2, 0x00000076] = .ok (.vimul ⟨true, none⟩ 1 30 17 6 2 true true) 2 ∧
    decode (some .x) [0xAAA30FA2, 0x00000036] = .ok (.vshl ⟨true, none⟩ 1 30 17 6 2 true) 2 := by
  refine ⟨?_, ?_, ?_, ?_, ?_, ?_, ?_, ?_, ?_, ?_, ?_, ?_, ?_, ?_, ?_, ?_, ?_, ?_, ?_, ?_⟩ <;> rfl

/-- The vector engine (majors 0x50 to 0x5F): each word is S, LEN, the major and the minor at their places in R133, plus the fields of the entry at theirs. -/
theorem test_decodeVector2 :
    decode (some .x) [0xAAA40FA2, 0x00000036] = .ok (.vshr ⟨true, none⟩ 1 30 17 6 2 true) 2 ∧
    decode (some .x) [0xAAA50FA2, 0x00000036] = .ok (.vsar ⟨true, none⟩ 1 30 17 6 2 true) 2 ∧
    decode (some .x) [0xAAA60FA2, 0x00000036] = .ok (.vand ⟨true, none⟩ 1 30 17 6 2 true) 2 ∧
    decode (some .x) [0xAAA70FA2, 0x00000036] = .ok (.vor ⟨true, none⟩ 1 30 17 6 2 true) 2 ∧
    decode (some .x) [0xAAA80FA2, 0x00000036] = .ok (.vxor ⟨true, none⟩ 1 30 17 6 2 true) 2 ∧
    decode (some .x) [0x8AC1F473] = .ok (.vaddw ⟨true, none⟩ 1 30 17 6 3) 1 ∧
    decode (some .x) [0xAAE1F030, 0x00000016] = .ok (.vcvt ⟨true, none⟩ 1 30 6 6 1) 2 ∧
    decode (some .x) [0xAB01F033, 0x0000001D] = .ok (.vscan ⟨true, none⟩ 1 30 6 3 1 true true true) 2 ∧
    decode (some .x) [0xAB21F034, 0x00000000] = .ok (.vred ⟨true, none⟩ 1 30 6 4 0 false false false) 2 ∧
    decode (some .x) [0x8B41F030] = .ok (.vbcast ⟨true, none⟩ 1 30 6) 1 ∧
    decode (some .x) [0x8B41F471] = .ok (.vbcastL ⟨true, none⟩ 1 30 17 6) 1 ∧
    decode (some .x) [0x8B41F472] = .ok (.vperm ⟨true, none⟩ 1 30 17 6) 1 ∧
    decode (some .x) [0x8B41F473] = .ok (.vrotl ⟨true, none⟩ 1 30 17 6) 1 ∧
    decode (some .x) [0x8B41F034] = .ok (.viota ⟨true, none⟩ 1 30 6) 1 ∧
    decode (some .x) [0x8B61F030] = .ok (.vcompress ⟨true, none⟩ 1 30 6) 1 ∧
    decode (some .x) [0x8B61F031] = .ok (.vexpand ⟨true, none⟩ 1 30 6) 1 ∧
    decode (some .x) [0xAB800FA3, 0x00000006] = .ok (.vld ⟨true, none⟩ 1 30 17 true 6) 2 ∧
    decode (some .x) [0xAB810FA3, 0x00000006] = .ok (.vldx ⟨true, none⟩ 1 30 17 true 6) 2 ∧
    decode (some .x) [0xABA00FA2, 0x00000006] = .ok (.vst ⟨true, none⟩ 1 30 17 6) 2 ∧
    decode (some .x) [0x8BC00FA2] = .ok (.vins ⟨true, none⟩ 1 30 17) 1 := by
  refine ⟨?_, ?_, ?_, ?_, ?_, ?_, ?_, ?_, ?_, ?_, ?_, ?_, ?_, ?_, ?_, ?_, ?_, ?_, ?_, ?_⟩ <;> rfl

/-- The vector engine (majors 0x50 to 0x5F): each word is S, LEN, the major and the minor at their places in R133, plus the fields of the entry at theirs. -/
theorem test_decodeVector3 :
    decode (some .x) [0x8BC10FA3] = .ok (.vext ⟨true, none⟩ 1 30 17 true) 1 ∧
    decode (some .x) [0x8BE00030] = .ok (.vmpush ⟨true, none⟩ 6) 1 ∧
    decode (some .x) [0x8BE00001] = .ok (.vminv ⟨true, none⟩) 1 ∧
    decode (some .x) [0x8BE00002] = .ok (.vmpop ⟨true, none⟩) 1 := by
  refine ⟨?_, ?_, ?_, ?_⟩ <;> rfl


/-! ### States that meet the hypotheses of the statements -/

/-- Registers by list, the rest zero. -/
def regs (v : List Nat) : Vector Word 32 := Vector.ofFn fun i => BitVec.ofNat 64 (v.getD i.val 0)

/-- A held translation of a 64 KiB page of address space 1. -/
def page (n : Nat) (l : Leaf) : Nat × Option Leaf := (tlbKey 1 16 (0x10000 * n), some l)

/-- Slot 0 runs a privileged task in address space 1 whose handler takes TRAP. -/
def demoSlot : Slot where
  st := .solo
  task := { taskId := 1, tenant := 1, asid := 1, priv := true, base := 0x10000, lines := 8, entry := 0x10004, handler := 0x10044,
            trapMask := 0x80000, part := 64 }
  quotaT := 512
  grantT := 512
  quotaA := 32
  grantA := 32
  grantV := 32

/-- An instruction at 0x10004 of that task is in issue, with the registers given. -/
def demo (st : Stream) (v : List Nat) (k : Slot) : State :=
  { State.reset with
    slots := [(0, k)]
    tlb := [page 2 { base := 0x100000, write := true }, page 3 { base := 0x10000, write := true, kind := 3, tier := 2 },
            page 4 { base := 0x120000, write := true, kind := 1 }, page 5 { base := 0x130000 },
            page 6 { write := true, tier := 3, pkg := 1 }, page 7 { base := 0x40000, write := true, tier := 1 },
            page 8 { base := 0x20000, kind := 3, tier := 2 }]
    cur := { slot := 0, st := st, pc := 0x10004, next := 0x10008, bundle := 0x10004, g := regs v, p := 0x05 } }

/-- The Boolean form of Ready. -/
theorem ready_of {s : State} {h : Hdr} {gs : List Reg} {ps : List PReg}
    (q : (tokQueuesOk h .seq s.cur.st && !s.mySeq.awaits gs ps && s.me.hasTok h.wait) = true) : Ready s h gs ps := by
  simp only [Bool.and_eq_true, Bool.not_eq_true'] at q
  exact ⟨q.1.1, q.1.2, q.2⟩

/-- The Boolean form of EngReady. -/
theorem engReady_of {s : State} {e : Engine} {h : Hdr} {gs : List Reg} {ps : List PReg}
    (q : (tokQueuesOk h (engineAgent e) s.cur.st && !s.mySeq.awaits gs ps && !s.me.queueFull e && !s.me.a.shaping) = true) :
    EngReady s e h gs ps := by
  simp only [Bool.and_eq_true, Bool.not_eq_true'] at q
  exact ⟨q.1.1.1, q.1.1.2, q.1.2, .inr q.2⟩

/-- The Boolean form of Accessible. -/
def accessible (s : State) (va n : Nat) (ok : Leaf → Bool) : Bool :=
  decide (va + n ≤ 2 ^ 48) && (List.range n).all fun i =>
    match s.translate s.me.task.asid (va + i) with
    | .ok l => ok l && (l.tier != 0 || decide ((l.loc (va + i)).pa < 3 * 2 ^ 40)) && (s.linkHolds (l.loc (va + i))).isNone
    | .error _ => false

theorem accessible_of {s : State} {va n : Nat} {ok : Leaf → Bool} (h : accessible s va n ok = true) : Accessible s va n ok := by
  simp only [accessible, Bool.and_eq_true, decide_eq_true_eq, List.all_eq_true, List.mem_range] at h
  refine ⟨h.1, fun a h1 h2 => ?_⟩
  have := h.2 (a - va) (by omega)
  rw [show va + (a - va) = a by omega] at this
  split at this
  · rename_i l e
    simp only [Bool.and_eq_true, Bool.or_eq_true, bne_iff_ne, ne_eq, decide_eq_true_eq, Option.isNone_iff_eq_none] at this
    exact ⟨l, e, this.1.1, fun h => this.1.2.resolve_left (· h), this.2⟩
  · exact absurd this (by simp)

/-- EncodeDecodeAgree: well-formed instructions with a header, every kind of length. -/
theorem test_EncodeDecodeAgree : ∀ i ∈ [Instr.add plain 1 2 3, .li plain 4 5 6, .aadd (tokH 0x80 0x40 1 0) 1 2 3 2 0 0,
    .fetchMc plain 28 2 3 1 4 5 0 false false false 6 15], WellFormed i ∧ i.hdr? ≠ none := by decide

/-- RefusedWords: headers of LEN 3, and of LEN 1 and 2 at the end of a line. -/
theorem test_RefusedWords : 0x60000000 / 0x20000000 % 4 = 3 ∧ 0xFFFFFFFF / 0x20000000 % 4 = 3 ∧ 0xA0000000 / 0x20000000 % 4 = 1 ∧
    0xC0000000 / 0x20000000 % 4 = 2 := by decide

/-- A line of 15 NOPs of the A stream, and its state. -/
def nops : Nat := placedLine false (List.replicate 15 0x82C50000)
def nopState : State := ((State.reset.placePages.wrPhys 0x10000 64 nops).placeTask false 0x10004)

/-- FetchReadsTheImage: the first and the last syllable of a full line, and the X stream. -/
theorem test_FetchReadsTheImage_first : nopState.codeLine 0 .a 0 0x10004 = .ok nops ∧ nops / 2 ^ 25 % 16 = 14 ∧ nops / 2 ^ 30 % 4 = 0 ∧
    decode (some .a) ((List.range' 0 15).map fun j => nops / 2 ^ (32 + 32 * j) % 2 ^ 32) = .ok (.nop plain) 1 ∧
    (nopState.slotAt 0).task.base = 0x10000 ∧ (nopState.slotAt 0).task.lines = 1 := by decide +kernel
theorem test_FetchReadsTheImage_last : nopState.codeLine 0 .a 0 0x1003C = .ok nops ∧ BitVec.ofNat 64 (0x10000 + 64 * 0 + 4 + 4 * 14) = 0x1003C ∧
    decode (some .a) ((List.range' 14 1).map fun j => nops / 2 ^ (32 + 32 * j) % 2 ^ 32) = .ok (.nop plain) 1 := by decide +kernel

/-- An ADD of the A stream and an MSTART of the X stream, where the next step fetches. -/
def addPlaced : State := State.reset.withFetchWord 32 0x802110C0
def mstartPlaced : State := State.reset.withFetchWord 32 0x88210000

theorem test_FetchReadsTheImage_x : (∃ line, mstartPlaced.codeLine 0 .x 0 0x10004 = .ok line ∧ line / 2 ^ 25 % 16 = 0 ∧ line / 2 ^ 30 % 4 = 1 ∧
    decode (some .x) ((List.range' 0 1).map fun j => line / 2 ^ (32 + 32 * j) % 2 ^ 32) = .ok (.mstart plain) 1) :=
  ⟨placedLine true [0x88210000], by decide +kernel, by decide +kernel, by decide +kernel, by decide +kernel⟩

/-- StepRunsTheInstruction: both streams. -/
theorem test_StepRunsTheInstruction_a : addPlaced.agenda = .grant 0 .a :: [] ∧
    ∃ t f, State.arbitrate { addPlaced with agenda := [] } 0 .seqA (State.seqRequesters { addPlaced with agenda := [] } 0 .a) = some (t, 0) ∧
      (let u := t.updSlot 0 fun k => k.retrySigs .a (k.seq .a).held;
       (u.slotAt 0).a.held = [] ∧ u.deliverable 0 = false ∧ (u.slotAt 0).st ≠ .meetX ∧
       u.fetchAt 0 .a (u.slotAt 0).a.pc = .ok f ∧ f.pc = (u.slotAt 0).a.pc) :=
  ⟨by decide +kernel, _, ⟨.add plain 1 2 3, 0x10004, 0x10008, true⟩, rfl, by decide +kernel⟩
theorem test_StepRunsTheInstruction_x : mstartPlaced.agenda = .grant 0 .x :: [] ∧
    ∃ t f, State.arbitrate { mstartPlaced with agenda := [] } 0 .seqX (State.seqRequesters { mstartPlaced with agenda := [] } 0 .x) = some (t, 0) ∧
      (let u := t.updSlot 0 fun k => k.retrySigs .x (k.seq .x).held;
       (u.slotAt 0).x.held = [] ∧ u.fetchBundle 0 (u.slotAt 0).x.pc = .ok [f] ∧ Instr.isDrain f.instr = false) :=
  ⟨by decide +kernel, _, ⟨.mstart plain, 0x10004, 0x10008, true⟩, rfl, by decide +kernel⟩

/-- StepTakesItsTurn: an event, a tick, and a cycle that is over. -/
theorem test_StepTakesItsTurn : ({ State.reset with agenda := [.event .standbyTakeover] }).agenda = .event .standbyTakeover :: [] ∧
    ({ State.reset with agenda := [.tick 1000] }).agenda = .tick 1000 :: [] ∧
    ({ State.reset with turn := 1000 }).agenda = [] ∧ ({ State.reset with turn := 1000 }).cycle.length ≤ 1000 := by decide +kernel

/-- MemoryStaysCanonical: reset memory is canonical, and a step with a program placed goes on. -/
theorem test_MemoryStaysCanonical : MemoryOk State.reset ∧ Goes (step addPlaced) := by
  refine ⟨reset_memoryOk, ?_⟩
  have : (match step addPlaced with | .next _ => true | _ => false) = true := by decide +kernel
  revert this
  cases h : step addPlaced with
  | next t => exact fun _ => ⟨t, rfl⟩
  | fault _ => simp
  | refused _ => simp

/-- The registers g1 to g9 of the scalar witnesses: 0, 1, 2, -1, the most negative number, 100, 64, an instruction address. -/
def scalars (st : Stream) : State :=
  demo st [0, 0, 1, 2, 2 ^ 64 - 1, 2 ^ 63, 100, 64, 0x10010] { demoSlot with tok := #v[0, 0, 0, 0, 0, 0, 1, 1] }

/-- RegisterArithmetic: division of the most negative number by -1, division by zero, a shift by 64; both streams, with tokens
popped and pushed. -/
theorem test_RegisterArithmetic : Ready (scalars .a) (tokH 0x80 0x40 0 0) [9, 5, 4] [] ∧ Ready (scalars .x) (tokH 0x40 0x80 0 0) [9, 5, 1] [] ∧
    Ready (scalars .a) plain [0, 6, 7] [2] ∧ (scalars .a).rg 5 = 0x8000000000000000 ∧ (scalars .a).rg 4 = 0xFFFFFFFFFFFFFFFF ∧
    (scalars .a).rg 1 = 0 ∧ (scalars .a).rg 7 = 64 ∧ (scalars .a).rp 2 = true :=
  ⟨ready_of (by decide), ready_of (by decide), ready_of (by decide), by decide⟩

/-- ImmediateArithmetic, BitFieldOperations and Comparisons ask for the same. -/
theorem test_ImmediateArithmetic : Ready (scalars .a) plain [9, 4] [] ∧ (scalars .a).rg 4 = -1 := ⟨ready_of (by decide), by decide⟩
theorem test_BitFieldOperations : Ready (scalars .x) plain [9, 5, 7] [] ∧ (scalars .x).rg 7 = 64 := ⟨ready_of (by decide), by decide⟩
theorem test_Comparisons : Ready (scalars .a) plain [5, 4] [3] ∧ Ready (scalars .a) plain [5, 5] [0] ∧ 9 ≤ 9 :=
  ⟨ready_of (by decide), ready_of (by decide), by decide⟩
theorem test_PredicateOperations : Ready (scalars .a) plain [] [7, 2, 0] := ready_of (by decide)

/-- ConditionalBranches: taken by p2 and not by p1; both with neg. RegisterBranches and LoopCounts: counts of 0, 1 and 2. -/
theorem test_ConditionalBranches : Ready (scalars .a) plain [31] [2] ∧ (scalars .a).rp 2 = true ∧ Ready (scalars .a) plain [31] [1] ∧
    (scalars .a).rp 1 = false := ⟨ready_of (by decide), by decide, ready_of (by decide), by decide⟩
theorem test_RegisterBranches : Ready (scalars .x) plain [31, 8] [] ∧ Ready (scalars .x) plain [8, 8] [] :=
  ⟨ready_of (by decide), ready_of (by decide)⟩
theorem test_LoopCounts : (∀ c ∈ ([1, 2, 3] : List Reg), Ready (scalars .a) plain [c] []) ∧ (scalars .a).rg 1 = 0 ∧ (scalars .a).rg 2 = 1 ∧
    (scalars .a).rg 3 = 2 := by
  refine ⟨fun c h => ?_, by decide⟩
  simp only [List.mem_cons, List.not_mem_nil, or_false] at h
  rcases h with rfl | rfl | rfl <;> exact ready_of (by decide)

/-- SequencerQueues: full queues, queues with room for one entry, empty queues and queues with one entry, in both streams. -/
def queued (st : Stream) (ax xa bax bxa : Nat) : State :=
  demo st [0, 7] { demoSlot with st := .both, dqAx := List.replicate ax 5, dqXa := List.replicate xa 6, bqAx := List.replicate bax true,
                                 bqXa := List.replicate bxa false }
theorem test_SequencerQueues_a : Ready (queued .a 32 0 64 0) plain [1] [1] ∧ (queued .a 32 0 64 0).me.dqAx.length = 32 ∧
    (queued .a 32 0 64 0).me.bqAx.length = 64 ∧ (queued .a 32 0 64 0).me.dqXa = [] ∧ Ready (queued .a 31 1 63 1) plain [1] [1] ∧
    (queued .a 31 1 63 1).me.dqAx.length = 31 ∧ (queued .a 31 1 63 1).me.bqAx.length = 63 ∧ (queued .a 31 1 63 1).me.dqXa = 6 :: [] ∧
    (queued .a 31 1 63 1).me.bqXa = false :: [] := ⟨ready_of (by decide), by decide, by decide, by decide, ready_of (by decide), by decide⟩
theorem test_SequencerQueues_x : Ready (queued .x 0 16 0 64) plain [1] [1] ∧ (queued .x 0 16 0 64).me.dqXa.length = 16 ∧
    (queued .x 0 16 0 64).me.dqAx = [] ∧ Ready (queued .x 1 15 1 63) plain [1] [1] ∧ (queued .x 1 15 1 63).me.dqXa.length = 15 ∧
    (queued .x 1 15 1 63).me.dqAx = 5 :: [] ∧ (queued .x 1 15 1 63).me.bqAx = true :: [] :=
  ⟨ready_of (by decide), by decide, by decide, ready_of (by decide), by decide⟩

/-- TaskControl: SOLO, BOTH, MEET with A-seq waiting, MEET with X-seq waiting at its RDV. -/
def inState (st : Stream) (k : SlotSt) : State := demo st [] { demoSlot with st := k }
/-- X-seq waits at a line that holds an RDV in a bundle of its own. -/
def rdvMeet : State :=
  let line := placedLine true [0x82C10000]
  { (demo .a [] { demoSlot with st := .meetX, x := { pc := 0x10084 } }) with
    tlb := [page 1 { base := 0x10000 }], mem := writeBytes [] 0x10080 (leBytes 64 line) }
theorem test_TaskControl : Ready (inState .a .solo) plain [] [] ∧ (inState .a .solo).cur.st = .a ∧ (inState .a .solo).me.st = .solo ∧
    Ready (inState .a .both) plain [] [] ∧ (inState .a .both).me.st = .both ∧ Ready (inState .x .both) plain [] [] ∧
    Ready (inState .x .meetA) plain [] [] ∧ (inState .x .meetA).cur.st = .x ∧ (inState .x .meetA).me.st = .meetA :=
  ⟨ready_of (by decide), by decide, by decide, ready_of (by decide), by decide, ready_of (by decide), ready_of (by decide), by decide⟩
theorem test_TaskControl_meetX : Ready rdvMeet plain [] [] ∧ rdvMeet.cur.st = .a ∧ rdvMeet.me.st = .meetX ∧
    rdvMeet.xRdvAlone rdvMeet.cur.slot = true := ⟨ready_of (by decide), by decide, by decide, by decide +kernel⟩

/-- QueueCancellation: queues of three entries, one of them started, two with the tag. -/
def cancelled : State := demo .a [] { demoSlot with
  cq := [{ instr := .tcon (tokH 0 0 7 0) 1, started := true }, { instr := .tcon (tokH 0 0 7 0) 1 }, { instr := .tcon plain 1 }]
  vAside := [{ instr := .vmpop (tokH 0 0 7 0) }] }
theorem test_QueueCancellation : Ready cancelled plain [3] [] := ready_of (by decide)

/-- TrapEntersHandler, ReturnFromHandler, IllegalIsTaken. -/
theorem test_TrapEntersHandler : Ready (inState .a .solo) plain [] [] ∧ (inState .a .solo).cur.st = .a ∧ (inState .a .solo).me.routes 0x13 = true :=
  ⟨ready_of (by decide), by decide, by decide⟩
def handling : State := demo .a [] { demoSlot with fault := { cause := 0x13, ret := 0x10008, handler := true }, xHeld := true }
theorem test_ReturnFromHandler : Ready handling plain [] [] ∧ handling.me.fault.handler = true ∧ Ready (inState .a .solo) plain [] [] ∧
    (inState .a .solo).me.fault.handler = false := ⟨ready_of (by decide), by decide, ready_of (by decide), by decide⟩
theorem test_IllegalIsTaken : (inState .a .both).me.st.issues .a = true ∧ (inState .x .both).me.st.issues .x = true ∧
    (inState .x .both).cur.st = .x ∧ (inState .a .both).me.routes 0x01 = false ∧ tokQueuesOk (tokH 0x01 0 0 0) .seq .a = false ∧
    tokQueuesOk (tokH 0x80 0 0 0) .matrix .x = false ∧ tokQueuesOk (tokH 0x01 0 0 0) .vector .x = false ∧
    tokQueuesOk (tokH 0x80 0 0 0) .copy .a = false := by decide

/-- EmptyTokenQueueStalls: an empty queue that WAIT names, and a register an engine is still to write. -/
def awaiting : State := demo .a [] { demoSlot with a := { awG := 4 } }
theorem test_EmptyTokenQueueStalls : tokQueuesOk (tokH 0x80 0 0 0) .seq (inState .a .solo).cur.st = true ∧
    (tokH 0x80 0 0 0).wait.getLsbD 7 = true ∧ (inState .a .solo).me.tok.get 7 = 0 ∧ tokQueuesOk plain .seq awaiting.cur.st = true ∧
    awaiting.mySeq.awG.getLsbD (2 : Reg).toNat = true := by decide

/-- ControlRegisterReads and ControlRegisterWrites, with privilege and without; the ends of the ranges that fault. -/
def unprivileged : State := demo .a [0, 8] { demoSlot with task := { demoSlot.task with priv := false } }
theorem test_ControlRegisterReads : Ready (scalars .a) plain [9] [] ∧ (scalars .a).me.task.priv = true ∧ Ready unprivileged plain [9] [] ∧
    unprivileged.me.task.priv = false ∧
    (∀ n ∈ [0x0C0, 0x0FF, 0x180, 0x1FF], (0x0C0 ≤ n ∧ n ≤ 0x0FF) ∨ (0x180 ≤ n ∧ n ≤ 0x1FF)) ∧
    (∀ n ∈ [0x009, 0x03F, 0x048, 0x07F, 0x200, 0xFFF], (0x009 ≤ n ∧ n ≤ 0x03F) ∨ (0x048 ≤ n ∧ n ≤ 0x07F) ∨ 0x200 ≤ n) :=
  ⟨ready_of (by decide), by decide, ready_of (by decide), by decide⟩
theorem test_ControlRegisterWrites : Ready handling plain [1] [] ∧ handling.me.task.priv = true ∧ Ready unprivileged plain [1] [] ∧
    unprivileged.rg 1 = 8 ∧ unprivileged.me.fault.handler = false ∧ Ready (scalars .a) plain [5] [] ∧ (scalars .a).rg 5 = 0x8000000000000000 :=
  ⟨ready_of (by decide), by decide, ready_of (by decide), by decide, by decide, ready_of (by decide), by decide⟩

/-- ShapeGrants: empty queues, and an entry in the matrix queue. -/
def busyMatrix : State := demo .a [0, 0x200100] { demoSlot with mq := [{ instr := .mstart plain }] }
theorem test_ShapeGrants : Ready unprivileged plain [2, 1] [] ∧ unprivileged.me.mq = [] ∧ unprivileged.me.vq = [] ∧ unprivileged.me.mAside = [] ∧
    unprivileged.me.vAside = [] ∧ Ready busyMatrix plain [2, 1] [] ∧ busyMatrix.me.mq ≠ [] :=
  ⟨ready_of (by decide), by decide, by decide, by decide, by decide, ready_of (by decide), by decide⟩

/-- WaitsAndYields: a time that has come and one that has not; an accumulator beyond the GRANT in KEEP. -/
theorem test_WaitsAndYields : Ready (scalars .a) plain [1] [] ∧ (scalars .a).rg 1 = 0 ∧ (scalars .a).time = 0 ∧ Ready (scalars .a) plain [2] [] ∧
    (scalars .a).rg 2 = 1 ∧ (scalars .a).me.pre = none ∧ (scalars .a).offerApplies 0 = false ∧
    ((scalars .a).jobAt (scalars .a).me.task.job).buddy = false ∧ (scalars .a).me.grantA = 32 ∧
    ((scalars .a).me.cg.get 0).land = ((scalars .a).me.cg.get 0).exp ∧ ((scalars .a).me.cg.get 0).pend = 0 :=
  ⟨ready_of (by decide), by decide, by decide, ready_of (by decide), by decide⟩
def lowGrant : State := demo .a [] { demoSlot with grantA := 4, cg := Vector.replicate 8 { pend := 1 } }
theorem test_WaitsAndYields_keep : Ready lowGrant plain [1] [] ∧ (0x10 : BitVec 32).getLsbD 4 = true ∧ lowGrant.me.grantA ≤ 4 ∧
    (∀ j, j < 4 → (0x10 : BitVec 32).getLsbD j = true → j < lowGrant.me.grantA) ∧ (lowGrant.me.cg.get 0).pend ≠ 0 :=
  ⟨ready_of (by decide), by decide, by decide, by decide, by decide⟩

/-- MatrixInstructionsQueue: accumulator 31 within a GRANT of 32, and accumulator 4 at a GRANT of 4. -/
theorem test_MatrixInstructionsQueue : EngReady (scalars .x) .matrix (tokH 0x09 0x14 1 0) [5, 6] [] ∧ (31 : Reg).toNat < (scalars .x).me.grantA ∧
    (30 : Reg).toNat < (scalars .x).me.grantA ∧ EngReady lowGrant .matrix plain [1, 2] [] ∧ ¬ (4 : Reg).toNat < lowGrant.me.grantA :=
  ⟨engReady_of (by decide), by decide, by decide, engReady_of (by decide), by decide⟩

/-- VectorLaneInstructionsQueue, VectorMoveInstructionsQueue: vector register 31 within a GRANT of 32, 8 at a GRANT of 8; BRMZ with an
entry that writes a mask, with an empty stack, and with a zero mask on top. -/
def eightVectors : State := demo .x [] { demoSlot with grantV := 8 }
def masks (v : List Cmd) (m : List Mask) : State := demo .x [] { demoSlot with vq := v, mstack := m }
theorem test_VectorLaneInstructionsQueue : EngReady (scalars .x) .vector (tokH 0x06 0x28 1 0) [] [] ∧ (31 : Reg).toNat < (scalars .x).me.grantV ∧
    EngReady eightVectors .vector plain [] [] ∧ eightVectors.me.grantV ≤ (8 : Reg).toNat :=
  ⟨engReady_of (by decide), by decide, engReady_of (by decide), by decide⟩
theorem test_VectorMoveInstructionsQueue : EngReady (scalars .x) .vector plain [5, 6] [] ∧ (31 : Reg).toNat < (scalars .x).me.grantV ∧
    Ready (masks [{ instr := .vmpop plain }] []) plain [] [] ∧
    ((masks [{ instr := .vmpop plain }] []).me.vq ++ (masks [{ instr := .vmpop plain }] []).me.vAside).any Cmd.writesMask = true ∧
    Ready (masks [] []) plain [] [] ∧ (masks [] []).me.mstack.headD (BitVec.allOnes 128) ≠ 0 ∧
    Ready (masks [] [0]) plain [] [] ∧ (masks [] [0]).me.mstack.headD (BitVec.allOnes 128) = 0 :=
  ⟨engReady_of (by decide), by decide, ready_of (by decide), by decide, ready_of (by decide), by decide, ready_of (by decide), by decide⟩

/-- A core that holds the descriptors of tensors 5 (BF16) and 6 (CB4). -/
def tensor (f : Nat) : TDesc := { tid := 5, base := 0x20000, fmt := f, rank := 2, d0 := 128, d1 := 128, s1 := 256, scales := 0x28000 }
def copying (f : Nat) (v : List Nat) : State :=
  { demo .a v demoSlot with cores := [(0, { desc := [(descKey 1 5, tensor f)] })] }

/-- PlainCopyInstructionsQueue and CopiesQueue: a BF16 and a CB4 tensor, shares that fit, copies of 1 and of 2^40 bytes, lists of 1 and 128. -/
theorem test_PlainCopyInstructionsQueue : EngReady (copying 2 [0, 5, 0x1001]) .copy (tokH 0x30 0x03 1 0) [3, 1, 2] [] ∧
    modNb (tokH 0x30 0x03 1 0) = false ∧
    (copying 2 [0, 5, 0x1001]).descFor 0 (((copying 2 [0, 5, 0x1001]).rg 1).toNat % 65536) = .ok (copying 2 [0, 5, 0x1001], tensor 2) ∧
    sharesOk 1 ((copying 2 [0, 5, 0x1001]).rg 2) = true := ⟨engReady_of (by decide), by decide, by simp only [State.descFor]; decide +kernel, by decide⟩

theorem tagsFull_empty (k : Slot) (f : BitVec 16) (h : k.locals = []) (h' : k.homes = []) : k.tagsFull f = false := by
  simp [Slot.tagsFull, h, h']

/-- Registers of a copy: g1 the tensor 5, g2 the row 96, g3 the column 32, g4 no shares, g5 an address, g6 a length, g7 1 or 128, g8 zero. -/
def copyRegs (len n : Nat) : List Nat := [0, 5, 96, 32, 0, 0x30000, len, n, 0]
theorem test_CopiesQueue_tensor : ∀ f ∈ [2, 3], EngReady (copying f (copyRegs 1 1)) .copy plain ([10, 1, 2, 3, 6, 4, 5, 8, 7] ++ mcRegs 10 5) [] ∧
    modNb plain = false ∧ ((copying f (copyRegs 1 1)).rg 2).toNat < 2 ^ 32 ∧ ((copying f (copyRegs 1 1)).rg 3).toNat < 2 ^ 32 ∧
    ((copying f (copyRegs 1 1)).rg 3).toNat % 32 = 0 ∧ sharesOk 0xFFFF ((copying f (copyRegs 1 1)).rg 4) = true ∧
    (copying f (copyRegs 1 1)).descFor 0 (((copying f (copyRegs 1 1)).rg 1).toNat % 65536) = .ok (copying f (copyRegs 1 1), tensor f) ∧
    ∀ g, (copying f (copyRegs 1 1)).me.tagsFull g = false := by
  intro f h
  simp only [List.mem_cons, List.not_mem_nil, or_false] at h
  rcases h with rfl | rfl <;>
    exact ⟨engReady_of (by decide), by decide, by decide, by decide, by decide, by decide, by decide +kernel, fun g => tagsFull_empty _ g (by rfl) (by rfl)⟩
theorem test_CopiesQueue_bytes : ∀ l ∈ [1, 2 ^ 40], ∀ n ∈ [1, 128], let s := copying 2 [0, 2 ^ 41, l, 0, n, 9]
    EngReady s .copy plain ([1, 3, 4, 6, 2, 7, 8, 9, 3] ++ mcRegs 1 1) [] ∧ 1 ≤ (s.rg 2).toNat ∧ (s.rg 2).toNat ≤ 2 ^ 40 ∧
    (s.rg 3).toNat + (s.rg 2).toNat ≤ (s.rg 1).toNat ∧ 1 ≤ (s.rg 4).toNat ∧ (s.rg 4).toNat ≤ 128 := by
  intro l hl n hn
  simp only [List.mem_cons, List.not_mem_nil, or_false] at hl hn
  rcases hl with rfl | rfl <;> rcases hn with rfl | rfl <;>
    exact ⟨engReady_of (by decide), by decide, by decide, by decide, by decide, by decide⟩

/-- FredIssue: a descriptor of FORMAT 1 and one of FORMAT 2 to be refused of FORMAT 3, and an address off its alignment. -/
def reducing (f : Nat) : State := { demo .a [0, 0x40000, 0x40020] demoSlot with mem := SMap.set [] 0 0x120004 (BitVec.ofNat 8 f) }
theorem test_FredIssue : ∀ f ∈ [1, 2, 3, 7], EngReady (reducing f) .copy plain [1] [] ∧ ((reducing f).rg 1).toNat % 64 = 0 ∧
    ((reducing f).rg 2).toNat % 64 ≠ 0 ∧
    (let u := (reducing f).pushWriteBack 0 [(0x40000, 128)];
     ∃ w, u.fredWords u.me.task.asid 0x40000 = .ok w ∧ w.getD 0 0 / 2 ^ 32 % 16 = f ∧ u.me.locals = [] ∧ u.me.homes = []) := by
  intro f h
  simp only [List.mem_cons, List.not_mem_nil, or_false] at h
  rcases h with rfl | rfl | rfl | rfl <;>
    exact ⟨engReady_of (by decide), by decide, by decide, [_, 0, 0, 0, 0, 0, 0, 0, 0, 0, 0, 0, 0, 0, 0, 0], rfl, by decide, by rfl, by rfl⟩

/-- The registers of the memory witnesses: g1 cached, g2 synchronisation, g3 uncached, g4 read-only, g5 peer, g6 host, g7 the last bytes of the
cached page, g8 not mapped, g9 beyond the address space, g10 a read-only synchronisation page, g11 the end of a line, g12 to g14 data. -/
def places : List Nat :=
  [0, 0x20000, 0x30000, 0x40000, 0x50000, 0x60000, 0x70000, 0x2FFFC, 0x90000, 2 ^ 48, 0x80000, 0x20078, 5, 7, 2 ^ 63]
def mem0 : State := demo .a places demoSlot

/-- LoadsReadMemory: every size on every kind of page that may be read, and across the end of a page. -/
theorem test_LoadsReadMemory : ∀ z ∈ List.range 7, ∀ b ∈ ([1, 2, 3, 4, 6, 7] : List Reg),
    Ready mem0 plain [20, b] [] ∧ (BitVec.ofNat 3 z).toNat ≤ 6 ∧
      Accessible mem0 (mem0.rg b).toNat (2 ^ (z % 4)) (fun l => l.tier != 3) ∧
      mem0.me.tagsFull (mem0.me.tagsOf [((mem0.rg b).toNat, 2 ^ (z % 4))]) = false ∧
      (BitVec.ofInt 64 ((mem0.rg b).toInt + (0 : BitVec 8).toInt * (2 ^ (z % 4) : Nat))).toNat = (mem0.rg b).toNat := by
  have e : ∀ z ∈ List.range 7, ∀ b ∈ ([1, 2, 3, 4, 6, 7] : List Reg),
      (tokQueuesOk plain .seq mem0.cur.st && !mem0.mySeq.awaits [20, b] [] && mem0.me.hasTok plain.wait) = true ∧
      accessible mem0 (mem0.rg b).toNat (2 ^ (z % 4)) (fun l => l.tier != 3) = true ∧ (BitVec.ofNat 3 z).toNat ≤ 6 ∧
      (BitVec.ofInt 64 ((mem0.rg b).toInt + (0 : BitVec 8).toInt * (2 ^ (z % 4) : Nat))).toNat = (mem0.rg b).toNat := by decide +kernel
  exact fun z hz b hb => ⟨ready_of (e z hz b hb).1, (e z hz b hb).2.2.1, accessible_of (e z hz b hb).2.1, tagsFull_empty _ _ rfl rfl,
    (e z hz b hb).2.2.2⟩

/-- StoresWriteMemory: every size on a cached, an uncached and a host page. -/
theorem test_StoresWriteMemory : ∀ z ∈ List.range 4, ∀ b ∈ ([1, 3, 6] : List Reg),
    Ready mem0 plain [12, b] [] ∧ Accessible mem0 (mem0.rg b).toNat (2 ^ z) (fun l => l.tier < 2 && l.write) ∧ mem0.me.copiesDone = true ∧
      ∀ i j, i < 2 ^ z → j < 2 ^ z → i ≠ j → mem0.locAt ((mem0.rg b).toNat + i) ≠ mem0.locAt ((mem0.rg b).toNat + j) := by
  have e : ∀ z ∈ List.range 4, ∀ b ∈ ([1, 3, 6] : List Reg),
      (tokQueuesOk plain .seq mem0.cur.st && !mem0.mySeq.awaits [12, b] [] && mem0.me.hasTok plain.wait) = true ∧
      accessible mem0 (mem0.rg b).toNat (2 ^ z) (fun l => l.tier < 2 && l.write) = true ∧
      ∀ i ∈ List.range (2 ^ z), ∀ j ∈ List.range (2 ^ z), i ≠ j →
        mem0.locAt ((mem0.rg b).toNat + i) ≠ mem0.locAt ((mem0.rg b).toNat + j) := by decide +kernel
  exact fun z hz b hb => ⟨ready_of (e z hz b hb).1, accessible_of (e z hz b hb).2.1, by decide,
    fun i j hi hj => (e z hz b hb).2.2 i (List.mem_range.2 hi) j (List.mem_range.2 hj)⟩

/-- AccessFaults: no translation, a peer page, a page that may not be written, a synchronisation page, an address beyond 2^48, and an
atomic off its alignment by one. -/
theorem test_AccessFaults : (∀ b ∈ ([2, 4, 5, 8, 9, 12] : List Reg), Ready mem0 plain [20, b, 13, 0] []) ∧
    mem0.translate 1 0x90000 = .error 1 ∧ (∃ l, mem0.translate 1 0x60000 = .ok l ∧ l.tier = 3) ∧
    (∃ l, mem0.translate 1 0x50000 = .ok l ∧ l.tier ≠ 3 ∧ l.write = false) ∧ (∃ l, mem0.translate 1 0x30000 = .ok l ∧ l.tier = 2 ∧ l.write = true) ∧
    2 ^ 48 ≤ (mem0.rg 9).toNat ∧ (mem0.rg 12).toNat % 2 ^ ((0 : BitVec 2).toNat + 1) ≠ 0 := by
  refine ⟨?_, by decide +kernel, ⟨_, by rfl, by decide⟩, ⟨_, by rfl, by decide⟩, ⟨_, by rfl, by decide⟩, by decide +kernel,
    by decide⟩
  have e : ∀ b ∈ ([2, 4, 5, 8, 9, 12] : List Reg), (tokQueuesOk plain .seq mem0.cur.st && !mem0.mySeq.awaits [20, b, 13, 0] [] &&
    mem0.me.hasTok plain.wait) = true := by decide +kernel
  exact fun b hb => ready_of (e b hb)

/-- AtomicsAtHome: every width, at the start and at the end of a line; an acquire and release. -/
theorem test_AtomicsAtHome : ∀ z ∈ List.range 3, ∀ a ∈ ([1, 11] : List Reg),
    Ready mem0 plain [20, a, 12, 13] [] ∧ (mem0.rg a).toNat % 2 ^ (z + 1) = 0 ∧
      Accessible mem0 (mem0.rg a).toNat (2 ^ (z + 1)) (fun l => l.tier == 0 && l.write) ∧
      (∀ i, i < 2 ^ (z + 1) → mem0.locAt ((mem0.rg a).toNat + i) = ⟨0, 0, (mem0.locAt (mem0.rg a).toNat).pa + i⟩) ∧
      (mem0.locAt (mem0.rg a).toNat).pa % 128 + 2 ^ (z + 1) ≤ 128 ∧ mem0.me.copiesDone = true := by
  have e : ∀ z ∈ List.range 3, ∀ a ∈ ([1, 11] : List Reg),
      (tokQueuesOk plain .seq mem0.cur.st && !mem0.mySeq.awaits [20, a, 12, 13] [] && mem0.me.hasTok plain.wait) = true ∧
      (mem0.rg a).toNat % 2 ^ (z + 1) = 0 ∧ accessible mem0 (mem0.rg a).toNat (2 ^ (z + 1)) (fun l => l.tier == 0 && l.write) = true ∧
      (∀ i ∈ List.range (2 ^ (z + 1)), mem0.locAt ((mem0.rg a).toNat + i) = ⟨0, 0, (mem0.locAt (mem0.rg a).toNat).pa + i⟩) ∧
      (mem0.locAt (mem0.rg a).toNat).pa % 128 + 2 ^ (z + 1) ≤ 128 := by decide +kernel
  exact fun z hz a ha => ⟨ready_of (e z hz a ha).1, (e z hz a ha).2.1, accessible_of (e z hz a ha).2.2.1,
    fun i hi => (e z hz a ha).2.2.2.1 i (List.mem_range.2 hi), (e z hz a ha).2.2.2.2, by decide⟩

/-- Synchronisation words of the page at 0x30000 begin at word 0x2000: its first word is W, with or without waiters, a group or a ring. -/
def onWord (y : Sync) : State := { mem0 with sync := y }
def aWaiter (slot : Nat) (k : WantKind) : Waiter := ⟨slot, k, plain, 5, 0x20004, 0x20008, 0, 2⟩
def fullWord : Sync := { word := [(0x2000, 41)], full := [(0x2000, true)] }
def emptyWord : Sync := { word := [(0x2000, 41)] }
def aGroup (y : Sync) (m : List (Word × Bool × Bool)) : Sync := { y with groups := [(0x2000, { live := true, members := m })] }
theorem test_AtomicsOnSyncWords : ∀ y ∈ [fullWord, emptyWord, aGroup fullWord [(1, false, false)]], Ready (onWord y) plain [20, 2, 12, 13] [] ∧
    ((onWord y).rg 2).toNat % 8 = 0 ∧ syncKey ((onWord y).locAt 0x30000).pa = 0x2000 ∧ ((onWord y).locAt 0x30000).pa % 8 = 0 ∧
    (onWord y).me.tagsFull ((onWord y).me.tagsOf [(0x30000, 8)]) = false ∧ SMap.get y.wait [] 0x2000 = [] ∧
    ((onWord y).objectWord 0x2000 = true ↔ y ≠ fullWord ∧ y ≠ emptyWord) ∧
    Accessible (onWord y) 0x30000 8 (fun l => l.tier == 2 && l.write) := by
  intro y hy
  simp only [List.mem_cons, List.not_mem_nil, or_false] at hy
  rcases hy with rfl | rfl | rfl <;>
    exact ⟨ready_of (by decide), by decide, by decide, by decide, tagsFull_empty _ _ rfl rfl, by decide, by decide,
      accessible_of (by decide +kernel)⟩

/-- SyncWordInstructions: a full and an empty word, and one of a group. SyncWaiterIsServed: an SLDF of slot 4 waits. -/
theorem test_SyncWordInstructions : ∀ y ∈ [fullWord, emptyWord, aGroup fullWord [(1, false, false)]], Ready (onWord y) plain [12, 2] [] ∧
    ((onWord y).rg 2).toNat % 8 = 0 ∧ (onWord y).me.copiesDone = true ∧ SMap.get (onWord y).sync.wait [] 0x2000 = [] ∧
    Accessible (onWord y) 0x30000 8 (fun l => l.tier == 2 && l.write) := by
  intro y hy
  simp only [List.mem_cons, List.not_mem_nil, or_false] at hy
  rcases hy with rfl | rfl | rfl <;> 
    exact ⟨ready_of (by decide), by decide, by decide, by decide, accessible_of (by decide +kernel)⟩
theorem test_SyncWaiterIsServed : let s := onWord { emptyWord with wait := [(0x2000, [aWaiter 4 .sldf])] }
    Ready s plain [12, 2] [] ∧ (s.rg 2).toNat % 8 = 0 ∧ s.objectWord 0x2000 = false ∧ s.me.copiesDone = true ∧
    SMap.get s.sync.wait [] (syncKey (s.locAt 0x30000).pa) = [aWaiter 4 .sldf] ∧ (aWaiter 4 .sldf).kind = .sldf ∧ (aWaiter 4 .sldf).slot ≠ s.cur.slot ∧
    (aWaiter 4 .sldf).d ≠ 0 ∧ Accessible s 0x30000 8 (fun l => l.tier == 2 && l.write) :=
  ⟨ready_of (by decide), by decide, by decide, by decide, by decide, by decide, by decide, by decide, accessible_of (by decide +kernel)⟩

/-- Groups: an object that can become a group, a group without the task, and groups with it, alone and with another. -/
def fourFull : Sync := { full := [(0x2000, true), (0x2001, true), (0x2002, true), (0x2003, true)] }
theorem test_Groups : Ready (onWord fourFull) plain [20, 2] [] ∧ (onWord fourFull).cur.st = .a ∧ ((onWord fourFull).rg 2).toNat % 32 = 0 ∧
    (onWord fourFull).groupReady 0x2000 = true ∧ (onWord fourFull).ringOf 0x2000 = none ∧ ((onWord fourFull).groupAt 0x2000).has 1 = false ∧
    (onWord fourFull).me.groups.length < 8 ∧ ((onWord (aGroup fourFull [(2, false, false)])).groupAt 0x2000).has 1 = false ∧
    ((onWord (aGroup fourFull [(2, false, false), (1, false, false)])).groupAt 0x2000).has 1 = true ∧
    ((onWord (aGroup fourFull [(1, false, false)])).groupAt 0x2000).members.map (·.1) = [1] ∧
    ((onWord (aGroup fourFull [(1, false, false)])).groupAt 0x2000).opened = false ∧
    ((onWord (aGroup fourFull [(1, false, false)])).groupAt 0x2000).waiters = [] ∧ (onWord fourFull).me.copiesDone = true ∧
    Accessible (onWord fourFull) 0x30000 8 (fun l => l.tier == 2 && l.write) :=
  ⟨ready_of (by decide), by decide, by decide, by decide, by decide, by decide, by decide, by decide, by decide, by decide, by decide, by decide,
    by decide, accessible_of (by decide +kernel)⟩

/-- Rings: LOGC 1 and 16; RES at FREEP, and so far on that one entry, or none, is left; entries reserved, published, a hole, taken. -/
def aRing (logc res fill take : Nat) (e : SMap (Option EntSt)) : State :=
  { demo .a [0, 0, 0x30000, 1, 0, 2 ^ logc, 2 ^ logc + 1] demoSlot with
    sync := { word := [(0x2000, BitVec.ofNat 64 logc), (0x2001, BitVec.ofNat 64 res), (0x2002, BitVec.ofNat 64 fill), (0x2003, BitVec.ofNat 64 take)]
              full := [(0x2000, true)], rings := [(0x2000, { ent := e })] } }
theorem test_Rings : ∀ l ∈ [1, 16], let s := aRing l 0 0 0 []; let full := aRing l (2 ^ l) 0 0 []; let one := aRing l (2 ^ l - 1) 0 0 []
    Ready s plain [7, 2, 5, 4] [3] ∧ (s.rg 2).toNat % 64 = 0 ∧ s.syncFull 0x2000 = true ∧ (s.syncWord 0x2000).toNat % 32 = l ∧
    (s.ringAt 0x2000).waiters = [] ∧ (s.rg 4).toNat = 0 ∧ (s.rg 5).toNat = 2 ^ l ∧ 2 ^ l < (s.rg 6).toNat ∧
    (s.syncWord 0x2001).toNat + (s.rg 5).toNat ≤ (s.syncWord 0x2004).toNat + 2 ^ l ∧
    (one.syncWord 0x2001).toNat + (one.rg 3).toNat ≤ (one.syncWord 0x2004).toNat + 2 ^ l ∧
    ¬ (full.syncWord 0x2001).toNat + (full.rg 3).toNat ≤ (full.syncWord 0x2004).toNat + 2 ^ l ∧
    SMap.get (s.ringAt 0x2000).ent none 0 = none ∧
    syncKey (s.locAt (s.rg 2).toNat).pa = 0x2000 ∧ Accessible s 0x30000 8 (fun l => l.tier == 2 && l.write) := by
  intro l hl
  simp only [List.mem_cons, List.not_mem_nil, or_false] at hl
  rcases hl with rfl | rfl <;>
    exact ⟨ready_of (by decide), by decide +kernel, by decide +kernel, by decide +kernel, by decide +kernel, by decide +kernel, by decide +kernel,
      by decide +kernel, by decide +kernel, by decide +kernel, by decide +kernel, by decide +kernel, by decide +kernel, accessible_of (by decide +kernel)⟩
theorem test_Rings_entries : (∀ i, 0 ≤ i → i < 0 + 1 → SMap.get ((aRing 1 1 0 0 [(0, some (.reserved 1))]).ringAt 0x2000).ent none i = some (.reserved 1)) ∧
    ((aRing 1 1 1 0 [(0, some .hole)]).syncWord 0x2003).toNat < ((aRing 1 1 1 0 [(0, some .hole)]).syncWord 0x2002).toNat ∧
    SMap.get ((aRing 1 1 1 1 [(0, some (.taken 1 true))]).ringAt 0x2000).ent none 0 = some (.taken 1 true) ∧
    (aRing 1 1 0 0 []).me.task.taskId = 1 :=
  ⟨fun i _ h => by rw [show i = 0 by omega]; decide, by decide⟩

/-- FencesAndDrains: copies outstanding and not, LOCAL and HOME counters at zero and not, entries before a DRAIN and none. -/
def aCopy : Cmd := { instr := .ccopy plain 1 2 3 0 false, started := true, ops := [0x20000, 0x70000, 128], sent := 1 }
def copyOut : State := demo .a places { demoSlot with cq := [aCopy], locals := [(15, 1)], homes := [(15, 1)], nextCmd := 1 }
theorem test_FencesAndDrains : Ready mem0 plain [] [] ∧ 2 ≤ (2 : BitVec 3).toNat ∧ (1 : BitVec 3).toNat < 2 ∧ mem0.me.copiesDone = true ∧
    mem0.me.drained 7 0 = true ∧ (∀ i : Fin 16, (0xFFFF : BitVec 16).getLsbD i = true → SMap.get mem0.me.locals 0 i = 0) ∧
    mem0.me.tagsZero 0xFFFF 2 = true ∧ Ready copyOut plain [] [] ∧ copyOut.me.copiesDone = false ∧ SMap.get copyOut.me.locals 0 15 ≠ 0 ∧
    (copyOut.writeBackWhere 0 fun l => copyOut.me.covered 0x8000 l.va).me.tagsZero 0x8000 5 = false ∧ copyOut.me.drained 1 1 = false :=
  ⟨ready_of (by decide), by decide, by decide, by decide, by decide, by decide, by decide, ready_of (by decide), by decide, by decide,
    by decide, by decide⟩

/-- RangeBindings: lengths 0, 1, 2^40 and one more in g4 to g7; a counter at zero and one that is not; a tensor. -/
def ranges (k : Slot) : State :=
  { demo .a [0, 5, 0x20000, 0, 0, 1, 2 ^ 40, 2 ^ 40 + 1] k with cores := [(0, { desc := [(descKey 1 5, tensor 2)] })] }
theorem test_RangeBindings : ∀ k ∈ [demoSlot, { demoSlot with homes := [(3, 1)] }], Ready (ranges k) plain [2, 7] [] ∧ 1 ≤ (1 : BitVec 31).toNat ∧
    ((ranges k).rg 4).toNat = 0 ∧ 1 ≤ ((ranges k).rg 5).toNat ∧ ((ranges k).rg 6).toNat = 2 ^ 40 ∧ 2 ^ 40 < ((ranges k).rg 7).toNat ∧
    (ranges k).descFor 0 (((ranges k).rg 1).toNat % 65536) = .ok (ranges k, tensor 2) := by
  intro k hk
  simp only [List.mem_cons, List.not_mem_nil, or_false] at hk
  rcases hk with rfl | rfl <;> exact ⟨ready_of (by decide), by decide, by decide, by decide, by decide, by decide, by decide +kernel⟩

/-- ExpertRouting: the rank 0xFFFF, and the rank of word 0x2000 with one place left. -/
def routing (c : Word) (rank : Nat) : State :=
  { demo .a [0, rank, 0, 0x30000] demoSlot with sync := { word := [(0x2000, c)], full := [(0x2000, true)] } }
theorem test_ExpertRouting : (∀ r ∈ [0, 0xFFFF], Ready (routing 0x400000003 r) plain [20, 1, 1 + 1, 3] [] ∧ (routing 0x400000003 r).me.copiesDone = true ∧
      1 ≤ (routing 0x400000003 r).me.routeDepth.toNat ∧ ((routing 0x400000003 r).rg 1).toNat % 65536 = r) ∧
    ((routing 0x400000003 0).rg 3).toNat % 8 = 0 ∧ (routing 0x400000003 0).objectWord 0x2000 = false ∧
    SMap.get (routing 0x400000003 0).sync.wait [] 0x2000 = [] ∧ Accessible (routing 0x400000003 0) 0x30000 8 (fun l => l.tier == 2 && l.write) ∧
    ((routing 0x400000003 0).syncWord 0x2000).toNat % 2 ^ 32 < ((routing 0x400000003 0).syncWord 0x2000).toNat / 2 ^ 32 := by
  refine ⟨fun r hr => ?_, by decide, by decide, by decide, accessible_of (by rfl), by decide⟩
  simp only [List.mem_cons, List.not_mem_nil, or_false] at hr
  rcases hr with rfl | rfl <;> exact ⟨ready_of (by decide), by decide, by decide, by decide⟩

/-- TranslationInstructions: page 1 of address space 0 is mapped with 64 KiB; pins held and 1,024 of them; g2 names SIZE 0 and ASID 0, g3 a page
that is not mapped. -/
def mapping (p : List (Nat × Nat × Nat)) (priv : Bool) : State :=
  { (demo .a [0, 0x10000, 0, 0x90000] { demoSlot with task := { demoSlot.task with priv := priv } }).placePages with pins := p }
def pins1024 : List (Nat × Nat × Nat) := List.replicate 1024 (7, 16, 9)
theorem test_TranslationInstructions : (∀ p ∈ [[], pins1024, [(0, 16, 1)]], Ready (mapping p true) plain [20, 1, 2] [] ∧
      (mapping p true).me.task.priv = true ∧ ((mapping p true).rg 2).toNat / 4096 % 4 ≠ 3 ∧
      (∃ l, (mapping p true).walk 0 0x10000 = .ok l ∧ l.bits = 16) ∧ (mapping p true).walk 0 0x90000 = .error 1 ∧
      (mapping p true).invWaits (invSel ((mapping p true).rg 1) ((mapping p true).rg 2)) = false) ∧
    Ready (mapping [] false) plain [20, 1, 2] [] ∧ (mapping [] false).me.task.priv = false ∧
    (0, 16, 0x10000 / 2 ^ 16) ∉ pins1024 ∧ 1024 ≤ pins1024.length ∧ (0, 16, 0x10000 / 2 ^ 16) ∈ [(0, 16, 1)] ∧
    [(0, 16, 1)].any (invSel 0x10000 0).pinNamed = true ∧ (pins1024.any (invSel 0x10000 0).pinNamed) = false := by
  refine ⟨fun p hp => ?_, ready_of (by decide), by decide, by decide +kernel, by decide +kernel, by decide, by decide +kernel, by decide +kernel⟩
  simp only [List.mem_cons, List.not_mem_nil, or_false] at hp
  rcases hp with rfl | rfl | rfl <;>
    exact ⟨ready_of (by decide +kernel), by decide +kernel, by decide +kernel, ⟨{ base := 0x10000, write := true, pte := 0x4008 }, by decide +kernel, by decide⟩, by decide +kernel,
      by decide +kernel⟩

/-- Engine entries of the first slot of core 1 (slot 4), started, at the head of their queues with another behind. -/
def running (e : Engine) (i : Instr) (k : Slot) : State :=
  let q : List Cmd := [{ instr := i, started := true, ops := [100, 200, 300] }, { instr := i }]
  { State.reset with slots := [(4, k.setQueue e q)] }
def started (i : Instr) : Cmd := { instr := i, started := true, ops := [100, 200, 300] }

/-- VectorLaneResults: an entry of every kind the statement names. -/
theorem test_VectorLaneResults : ∀ i ∈ [Instr.viadd (tokH 0x06 0x28 0 0) 1 2 3 7 0 true false, .visub plain 1 1 2 0 0 true false,
    .vimul plain 31 2 3 1 0 true false, .vand plain 1 2 3 0 0 true, .vor plain 1 2 3 0 0 true, .vxor plain 1 2 3 0 0 true, .vsel plain 1 2 3 1,
    .vbcast plain 1 2 0, .vbcastL plain 1 2 3 0, .vperm plain 1 1 1 0, .vrotl plain 1 1 3 0, .viota plain 1 2 7, .vins plain 1 2 3],
    Runs (running .vector i demoSlot) 1 .vector (started i) [{ instr := i }] := by
  intro i hi
  simp only [List.mem_cons, List.not_mem_nil, or_false] at hi
  rcases hi with rfl | rfl | rfl | rfl | rfl | rfl | rfl | rfl | rfl | rfl | rfl | rfl | rfl <;>
    exact ⟨by rfl, by rfl, by rfl, by rfl, by decide⟩

/-- MaskStackResults: an empty stack, a stack of one and of 16. -/
theorem test_MaskStackResults : (∀ m ∈ [[], [5], List.replicate 16 5], ∀ i ∈ [Instr.vmpush plain 2, .vminv plain, .vmpop plain],
      Runs (running .vector i { demoSlot with mstack := m }) 1 .vector (started i) [{ instr := i }]) ∧
    16 ≤ ((running .vector (.vmpop plain) { demoSlot with mstack := List.replicate 16 5 }).slotAt 4).mstack.length ∧
    ((running .vector (.vmpop plain) demoSlot).slotAt 4).mstack = [] ∧
    ((running .vector (.vmpop plain) { demoSlot with mstack := [5] }).slotAt 4).mstack = 5 :: [] := by
  refine ⟨fun m hm i hi => ?_, by decide, by decide, by decide⟩
  simp only [List.mem_cons, List.not_mem_nil, or_false] at hm hi
  rcases hm with rfl | rfl | rfl <;> rcases hi with rfl | rfl | rfl <;> exact ⟨by rfl, by rfl, by rfl, by rfl, by decide⟩

/-- MatrixStateResults. -/
theorem test_MatrixStateResults : ∀ i ∈ [Instr.mset plain 5 4 4, .mzero (tokH 0 0x14 0 0) 31 true, .macc plain 1 1 false, .macc plain 0 31 false],
    Runs (running .matrix i demoSlot) 1 .matrix (started i) [{ instr := i }] := by
  intro i hi
  simp only [List.mem_cons, List.not_mem_nil, or_false] at hi
  rcases hi with rfl | rfl | rfl | rfl <;> exact ⟨by rfl, by rfl, by rfl, by rfl, by decide⟩

/-- The next state of an outcome, and how its instruction went. -/
def went (o : Host.Outcome State Fault Refusal) : Option Went :=
  match o with
  | .next t => some t.cur.went
  | _ => none
theorem went_next {o : Host.Outcome State Fault Refusal} {w : Went} (h : went o = some w) : ∃ t, o = .next t ∧ t.cur.went = w := by
  cases o with
  | next t => exact ⟨t, rfl, by simpa [went] using h⟩
  | fault _ => simp [went] at h
  | refused _ => simp [went] at h

/-- SequencerInstructionsTouchNoMemory: an instruction that retires and one that waits. -/
theorem test_SequencerInstructionsTouchNoMemory : (∃ t, exec (.add plain 9 5 4) (scalars .a) = .next t ∧ t.cur.went = .retired) ∧
    (∃ t, exec (.dqpop plain 9) (scalars .a) = .next t ∧ t.cur.went = .stalled) :=
  ⟨went_next (by decide +kernel), went_next (by decide +kernel)⟩

/-- EngineStepsHappen: a CCOPY of two lines that can start, one that moves its first line, one with a line sent (at the head, and in flight),
an ended entry, and a tile that settles. -/
def copyCmd : Cmd := { instr := .ccopy (tokH 0x30 0x03 0 0) 1 2 3 0 false, ops := [0x20000, 0x70000, 200], tags := 0x8000 }
def copyIn (q f : List Cmd) : State :=
  demo .a [] { demoSlot with tok := #v[0, 0, 0, 0, 1, 1, 0, 0], cq := q, flight := f, locals := [(15, 2)], homes := [(15, 2)] }
def sentLine : Cmd := { copyCmd with started := true, sent := 1, buf := [(0, 0x55)] }
def othersIdle (f : Nat → Bool) : Bool := [1, 2, 3].all f
theorem others_of {p : Nat → Prop} (h1 : p 1) (h2 : p 2) (h3 : p 3) : ∀ m ∈ slotsOf 0, m ≠ 0 → p m := by
  intro m hm hn
  have : m ∈ [0, 1, 2, 3] := hm
  simp only [List.mem_cons, List.not_mem_nil, or_false] at this
  rcases this with rfl | rfl | rfl | rfl <;> first | exact absurd rfl hn | assumption
theorem test_EngineSteps_start : (copyIn [copyCmd] []).startable .copy 0 = some copyCmd ∧
    (∀ m ∈ slotsOf 0, m ≠ 0 → (copyIn [copyCmd] []).startable .copy m = none) ∧
    ∃ u t d, (copyIn [copyCmd] []).arbitrate 0 (arbOfEngine .copy) [0] = some (u, 0) ∧ ((copyIn [copyCmd] []).headOf .copy 0 copyCmd).waits = false ∧
      u.headOf .copy 0 copyCmd = .runs t d :=
  ⟨by decide +kernel, others_of (by decide +kernel) (by decide +kernel) (by decide +kernel), _, _, _, rfl, by decide +kernel, rfl⟩
theorem test_EngineSteps_finish : let c := { copyCmd with started := true, ended := true }
    ((copyIn [c, copyCmd] []).slotAt 0).queue .copy = c :: [copyCmd] ∧ ((copyIn [c, copyCmd] []).slotAt 0).tokFits c.hdr.sig = true ∧
    ∀ m ∈ slotsOf 0, m ≠ 0 → (copyIn [c, copyCmd] []).finishHead .copy m = none :=
  ⟨by rfl, by decide, others_of (by rfl) (by rfl) (by rfl)⟩
theorem test_EngineSteps_line : let c := { copyCmd with started := true }
    (copyIn [c] []).moving 0 = some c ∧ (∀ m ∈ slotsOf 0, m ≠ 0 → (copyIn [c] []).moving m = none) ∧
    ∃ t d, (copyIn [c] []).moveNext 0 c = .ok t d :=
  ⟨by decide +kernel, others_of (by decide +kernel) (by decide +kernel) (by decide +kernel), _, _, rfl⟩
theorem test_EngineSteps_performed : (copyIn [sentLine] []).performable 0 sentLine = true ∧ ((copyIn [sentLine] []).slotAt 0).flight = [] ∧
    (copyIn [] [sentLine]).performable 0 sentLine = true ∧ ((copyIn [] [sentLine]).slotAt 0).flight = sentLine :: [] := by decide +kernel
def settling : State := { State.reset with cores := [(3, { tiles := [(511, { st := .settling, serial := 9, owner := 12 })] })] }
theorem test_EngineSteps_tile : (settling.tileAt 3 511).st = .settling ∧
    settling.inFlight (mkHandle 3 (settling.tileAt 3 511).owner 511 (settling.tileAt 3 511).serial) = false := by decide +kernel

/-- TaskEvents. -/
def starting : State :=
  demo .a [] { demoSlot with st := .start, task := { demoSlot.task with args := 0x20000, recsz := 16, record := 3, member := 1 } }
theorem test_TaskEvents_start : (starting.slotAt 0).st = .start ∧ ∃ t bs, starting.readArgs 0 = .ok (t, bs) := ⟨by decide, _, _, rfl⟩
theorem test_TaskEvents_closing : ((inState .a .closing).slotAt 0).st = .closing ∧ (inState .a .closing).quiet 0 = true ∧
    ((inState .a .closing).slotAt 0).pending = [] := by decide +kernel
/-- A routed DEMAND (the header routes TRAP, so TRAP is used), and a cause that is not routed. -/
def aTrap (c : BitVec 8) : Trap := { cause := c, pc := 0x10040, source := 2, async := true }
def faulted (c : BitVec 8) : State := demo .a [] { demoSlot with pending := [aTrap c] }
theorem test_TaskEvents_fault : ∀ c ∈ [0x13, 0x0B], ((faulted c).slotAt 0).nextFault = some (aTrap c) ∧ ((faulted c).slotAt 0).st.runs = true ∧
    ((faulted c).slotAt 0).meetsPreempt 0 (aTrap c) = false ∧ (aTrap c).cause ≠ 0x12 ∧ (aTrap c).cause ≠ 0x09 ∧ (aTrap c).cause ≠ 0x0E ∧
    (((faulted c).slotAt 0).routes c = true ↔ c = 0x13) := by decide
/-- A-seq waits at AWAIT of kind 4 on g2, which holds 50, at time 50. -/
def timed : State :=
  { demo .a [] { demoSlot with a := { pc := 0x10084, parked := true, g := regs [0, 0, 50] } } with
    time := 50, tlb := [page 1 { base := 0x10000 }], mem := writeBytes [] 0x10080 (leBytes 64 (placedLine false [0x82C44002])) }
theorem test_TaskEvents_await : (timed.slotAt 0).st.issues .a = true ∧ (timed.slotAt 0).a.parked = true ∧ (timed.slotAt 0).a.held = [] ∧
    timed.deliverable 0 = false ∧ timed.fetchAt 0 .a (timed.slotAt 0).a.pc = .ok ⟨.await plain 4 2, 0x10084, 0x10088, true⟩ ∧
    tokQueuesOk plain .seq .a = true ∧ (timed.slotAt 0).a.awaits [2] [] = false ∧ (timed.slotAt 0).hasTok 0 = true ∧
    timed.time.ult ((timed.slotAt 0).a.rd 2) = false := by decide +kernel
/-- A job of one record of 16 bytes at 0x20000 whose header lies at 0x20100, read or not. -/
def khdr : KHdr := { base := 0x20140, lines := 1, entry := 0x20144, handler := 0x20144, trapMask := 0, part := 4, priv := false }
def dealing (h : Option KHdr) : State :=
  let hdr := 0x484B394B + 2 ^ 32 + 2 ^ 64 * 0x40 + 2 ^ 128 + 2 ^ 192 * 0xFFFFFFFF + 2 ^ 256 * (2 ^ 32 * 16 + 2 ^ 48 * 4)
  { State.reset with
    tlb := [page 2 { base := 0x100000, write := true }], mem := writeBytes [] 0x100100 (leBytes 64 hdr)
    tens := [(1, { valid := true, weight := 1 })]
    jobs := [(7, { st := .eligible, dieMask := 15, hdr := h,
                   field := [(0, 0x20100), (1, 0x20000), (2, 0x100000010), (8, 0x101), (9, 0xF0), (10, 0x40401)] })] }
theorem test_TaskEvents_deal : ∀ h ∈ [some khdr, none], (((dealing h).finishEmpty.fillChunks 2).schedule 2 = some (.deal 7 96)) ∧
    (((dealing h).finishEmpty.fillChunks 2).jobAt 7).hdr = h ∧
    ((dealing h).finishEmpty.fillChunks 2).readHeader (((dealing h).finishEmpty.fillChunks 2).jobAt 7) = some (.ok khdr) := by decide +kernel

/-- RESTORE: a saved task of job 7 that RESUME has returned, alone, in die 1. -/
def restoring : State :=
  { dealing (some khdr) with
    jobs := [(7, { st := .running, dieMask := 2, hdr := some khdr, field := [(9, 0xF0)] })]
    saved := [(0x200000, some { task := { taskId := 9, job := 7, lines := 1 }, head := true, resume := some 0 })] }
theorem test_TaskEvents_restore : ∃ w slots t u, restoring.schedule 1 = some (.restore w slots) ∧ restoring.kernelOf w = some (.ok t) ∧
    t.restoreSet w slots = some u := ⟨⟨0x200000, { task := { taskId := 9, job := 7, lines := 1 }, head := true, resume := some 0 }⟩, [192], restoring, _,
    by decide +kernel, by decide +kernel, rfl⟩
/-- PREEMPT_TIMEOUT: a request whose deadline is now. -/
def preempted : State := demo .a [] { demoSlot with pre := some { deadline := 0 } }
theorem test_TaskEvents_preempt : (preempted.slotAt 0).pre = some { deadline := 0 } ∧ (preempted.slotAt 0).st.runs = true ∧
    preempted.time.ult 0 = false ∧ (preempted.boundaries 0).canStop 0 = true := by decide +kernel

/-- MailboxOperations. -/
def mapped (p : List (Nat × Nat × Nat)) : State := { State.reset.placePages with pins := p }
theorem test_MailboxOperations_pages : selSize 0 ≠ 3 ∧ (mapped []).invWaits (invSel 0x10000 0) = false ∧
    (mapped []).pins.any (invSel 0x10000 0).pinNamed = false ∧ (mapped [(0, 16, 1)]).pins.any (invSel 0x10000 0).pinNamed = true ∧
    selSize 0x3000 = 3 ∧ badSelector false 0 = false ∧ (0, 16, 0x10000 / 2 ^ 16) ∉ (mapped []).pins ∧ (mapped []).pins.length < 1024 ∧
    (0, 16, 0x10000 / 2 ^ 16) ∈ (mapped [(0, 16, 1)]).pins ∧
    (mapped []).walk 0 0x10000 = .ok { base := 0x10000, write := true, pte := 0x4008 } := by decide +kernel
theorem test_MailboxOperations_tasks : 0 < 768 ∧ ((inState .a .solo).slotAt 0).st.savable = true ∧ ((inState .a .solo).slotAt 0).st.runs = true ∧
    0x1000 / 4096 % 4 = 1 ∧ 0x12000 / 4096 % 4 = 2 ∧ 0x12000 / 65536 % 2 ^ 24 ≠ 0 ∧
    (∃ v, SMap.get restoring.saved none 0x200000 = some v ∧ v.head = true ∧ v.resume ≠ none) ∧
    (∃ v, SMap.get { restoring with saved := [(0x200000, some { head := true })] }.saved none 0x200000 = some v ∧ v.head = true ∧ v.resume = none) ∧
    0x200000 % 65536 = 0 ∧ 0x200000 + (State.reset.tenAt 1).saveSize ≤ 3 * 2 ^ 40 := by
  refine ⟨by decide, by decide, by decide, by decide, by decide, by decide, ⟨_, rfl, by decide⟩, ⟨_, rfl, by decide⟩, by decide, by decide⟩
def devQueue : JQ := { device := true, enable := true, logSize := 12, logC := 4, status := 0, base := 0x20000, acl := 0x23000, owner := 1 }
def adopting : State :=
  { State.reset with queues := [(5, devQueue)], fab := { dead := [(9, true)] }, cores := [(191, { health := 2 })] }
theorem test_MailboxOperations_fleet : adopting.isDead (0x5009 % 512) = true ∧ (adopting.queueAt (0x5009 / 4096 % 4096)).opened = true ∧
    (adopting.queueAt (0x5009 / 4096 % 4096)).device = true ∧ (adopting.coreAt 191).health = 2 ∧ 0x10000 % 64 = 0 ∧
    0x10000 + 36304 ≤ 3 * 2 ^ 40 := by decide

/-- QueuesAndLaunches: a host queue with one entry, whole; one whose MASK leaves fields out; one whose tenant is another; a full doorbell. -/
def entryWords (mask ten : Nat) : List Nat := [mask * 2 ^ 48 + 7 * 2 ^ 40 + 1, 0x20100, 0x20000, 0x100000010, 0, 0x100 + ten, 0x40401]
def hostQueue : JQ := { enable := true, logSize := 12, logC := 4, status := 0, base := 0x20000, sblk := 0x21000, cring := 0x22000, owner := 1, write := 56 }
def queueState (q : JQ) (mask ten : Nat) : State :=
  { State.reset with
    boot := { stage := 4 }
    tlb := [(tlbKey 0 16 0x20000, some { base := 0x100000, write := true })]
    mem := writeBytes (writeBytes (writeBytes [] 32 (leBytes 8 1 ++ leBytes 8 1)) 0x100000 ((entryWords mask ten).flatMap (leBytes 8)))
      0x103000 (leBytes 8 (2 ^ 63 + 5 + 2 ^ 10))
    tens := [(1, { valid := true })], queues := [(4095, q)] }
theorem test_QueuesAndLaunches_open :
    hostQueue.opened = true ∧ hostQueue.device = false ∧ hostQueue.waiting.length < 64 ∧ 8 ≤ (hostQueue.write - hostQueue.read).toNat ∧
    hostQueue.overrun = false := by decide
theorem test_QueuesAndLaunches_entry : ∀ e ∈ [(0x0587, 1), (0x0587, 2), (0x0586, 1)],
    (let m := e.1
     let t := e.2
     let s := queueState hostQueue m t
     let hb := leBytes 8 ((entryWords m t).headD 0)
     let bs := ((entryWords m t).tail).flatMap (leBytes 8)
     let h := entryHdr (leNat hb)
     let j : Job := { queue := 4095, seq := BitVec.ofNat 32 h.seq, field := mergeFields hostQueue.before h.mask ((entryWords m t).tail) }
     s.rdRing hostQueue 0 8 = some hb ∧ (hostQueue.headStatus h = none ↔ m = 0x0587) ∧ h.size ≤ 56 ∧
       (m = 0x0587 → s.rdRing hostQueue 8 (h.size - 8) = some bs ∧ (s.bodyStatus hostQueue h j = none ↔ t = 1))) := by decide +kernel
theorem test_QueuesAndLaunches_registers : (queueState hostQueue 0 0).boot.stage = 4 ∧ hostQueue.linkStop = false ∧
    ({ hostQueue with write := 4096 }.opened && { hostQueue with write := 4096 }.overrun) = false := by decide
def aRecord : CRec := { jobSeq := 1, cause := 0, recs := 1, user := [1, 2, 3] }
theorem test_QueuesAndLaunches_record : { hostQueue with waiting := [aRecord] }.waiting = aRecord :: [] ∧
    (queueState { hostQueue with waiting := [aRecord], cwrite := 15 } 0 0).recordReady 4095 = true := by decide +kernel
theorem test_QueuesAndLaunches_launch : (queueState devQueue 0 0).admits devQueue 5 1 = true ∧ (queueState hostQueue 0 0).admits hostQueue 5 1 = false ∧ devQueue.takes = true ∧
    (∃ h j, (queueState devQueue 0 0).image 4095 (entryWords 0x0587 1) = .ok (h, j)) :=
  ⟨by decide +kernel, by decide +kernel, by decide, _, _, rfl⟩
/-- JPOST of an entry image at 0x20000 in address space 1, to a device queue whose table admits the task's tenant of package 0. -/
def posting : State :=
  { demo .a [0, 4095, 0x20000] demoSlot with
    tlb := [(tlbKey 0 16 0x20000, some { base := 0x200000, write := true }), page 2 { base := 0x100000, write := true }]
    mem := writeBytes (writeBytes (writeBytes [] 32 (leBytes 8 1 ++ leBytes 8 1)) 0x100000 ((entryWords 0x0587 1).flatMap (leBytes 8)))
      0x203000 (leBytes 8 (2 ^ 63 + 2 ^ 9 + 2 ^ 16))
    tens := [(1, { valid := true })], queues := [(4095, devQueue)] }
set_option maxRecDepth 100000 in
theorem test_QueuesAndLaunches_jpost : Ready posting plain [9, 1, 2] [] ∧ ∃ hd bs eh j,
    (let x := (posting.rg 2).toNat
     let m := (posting.rg 1).toNat % 4096
     let u := posting.releaseCache posting.cur.slot 5 false
     let asid := u.me.task.asid
     let ws := u.imageWords bs
     let w := u.holdAll asid bs
     x % 8 = 0 ∧ posting.me.copiesDone = true ∧ u.access asid x 8 lsXl noPr = .ok hd ∧
     u.access asid x (8 * max 1 (entryHdr ((u.imageWords hd).headD 0)).len) lsXl noPr = .ok bs ∧ w.image m ws = .ok (eh, j) ∧
     w.admits (w.queueAt m) w.pkg w.me.task.tenant = true ∧ (w.queueAt m).takes = true) :=
  ⟨ready_of (by decide), _, _, _, _, by decide, by decide, rfl, rfl, rfl, by decide +kernel, by decide +kernel⟩
/-- JWAIT: SEQ 1 running, 2 failed with its record waiting, 3 kept in the history, 4 unknown. -/
def waitingFor (n : Nat) : State :=
  { demo .a [0, 4095, n] demoSlot with
    queues := [(4095, { hostQueue with history := [(3, BitVec.ofNat 64 (2 ^ 63 + 2 ^ 41 + 5 * 2 ^ 32 + 3))], waiting := [{ jobSeq := 2 }] })]
    jobs := [(1, { st := .running, queue := 4095, seq := 1 }), (2, { st := .failed, queue := 4095, seq := 2, cause := 7, recorded := true })] }
theorem test_QueuesAndLaunches_jwait : (∀ n ∈ [1, 2, 3, 4], Ready (waitingFor n) plain [9, 1, 2] []) ∧
    (∃ j, (waitingFor 1).jobBySeq 4095 1 = some j ∧ j.st ≠ .done ∧ j.st ≠ .failed) ∧
    (∃ j, (waitingFor 2).jobBySeq 4095 2 = some j ∧ j.st = .failed ∧ (waitingFor 2).recordWaits 4095 j = true) ∧
    (waitingFor 3).jobBySeq 4095 3 = none ∧ (waitingFor 4).jobBySeq 4095 4 = none ∧
    ((SMap.get ((waitingFor 3).queueAt 4095).history 0 3).toNat / 2 ^ 63 = 1 ∧ (SMap.get ((waitingFor 3).queueAt 4095).history 0 3).toNat % 2 ^ 32 = 3) ∧
    (SMap.get ((waitingFor 4).queueAt 4095).history 0 4).toNat / 2 ^ 63 ≠ 1 := by
  refine ⟨fun n hn => ?_, ⟨_, rfl, by decide⟩, ⟨_, rfl, by decide⟩, by decide, by decide, by decide +kernel, by decide +kernel⟩
  simp only [List.mem_cons, List.not_mem_nil, or_false] at hn
  rcases hn with rfl | rfl | rfl | rfl <;> exact ready_of (by decide)

/-- ControlWindow. -/
theorem test_ControlWindow : State.reset.boot.mbBusy = false ∧ (0x80000001 : Word).getLsbD 31 = true ∧ ({ mbBusy := true } : Boot).mbBusy = true ∧
    (queueState hostQueue 0 0).boot.stage = 4 ∧ 2 ^ 36 - 8 + 8 ≤ 2 ^ 36 ∧ State.reset.boot.memWin + (2 ^ 36 - 8) + 8 ≤ 3 * 2 ^ 40 ∧
    State.reset.apertureHeld (State.reset.boot.memWin + (2 ^ 36 - 8)) = false ∧ (State.reset.tenAt 63).keyWords ≠ 15 ∧
    State.reset.boot.stage = 0 ∧ State.reset.retired = [] ∧ State.reset.quarantined = [] := by decide
theorem reset_rdPhys (pa : Nat) : State.reset.rdPhys pa 8 = 0 := by simp [State.rdPhys, State.reset, upto, leNat]
theorem test_ControlWindow_aperture (i : Nat) : State.reset.devOnlyFrame (2 ^ 36 - 8 + i) = false := by
  simp [State.devOnlyFrame, reset_rdPhys, bit]
theorem test_ControlWindow_stages : ∀ k ∈ [0, 1, 2, 3], { State.reset with boot := { stage := k } }.boot.stage = k ∧
    { State.reset with boot := { stage := k } }.retired = [] ∧ { State.reset with boot := { stage := k } }.quarantined = [] := by decide

/-- CapacityEvents: core 191 idle; in each phase; with slot 511 to be moved, and under migration. -/
def phase (r : Ret) (ts : SMap Tile) : State := { State.reset with cores := [(191, { ret := r, tiles := ts, frame := [(511, none)] })] }
theorem test_CapacityEvents_request : (State.reset.coreAt 191).ret.phase = 0 ∧ (State.reset.coreAt 191).ret.queue = [] ∧
    State.reset.retirable 191 0 31 = true ∧ State.reset.retirable 191 0 32 = false ∧ State.reset.retirable 144 16 15 = true := by decide
theorem test_CapacityEvents_phases : ((phase { phase := 1 } []).coreAt 191).ret.phase = 1 ∧ ((phase { phase := 1 } []).coreAt 191).ret.array = 0 ∧
    ((phase { phase := 2 } []).coreAt 191).ret.phase = 2 ∧ (phase { phase := 2 } []).time.ult ((phase { phase := 2 } []).coreAt 191).ret.deadline = false ∧
    ((phase { phase := 4 } []).coreAt 191).ret.moving = none ∧ ((phase { phase := 4 } []).coreAt 191).ret.todo = [] ∧
    ((phase { phase := 5, bank := 31 } []).coreAt 191).ret.phase = 5 ∧ ((phase { phase := 5, bank := 31 } []).coreAt 191).ret.queue = [] ∧
    ((phase { phase := 5, bank := 31 } []).coreAt 191).ret.bank < 32 ∧ ((phase { phase := 1, array := 5, bank := 3 } []).coreAt 191).ret.array = 5 ∧
    ((phase { phase := 1, array := 1, bank := 3 } []).coreAt 191).ret.array = 1 ∧ ((phase { phase := 1, array := 2 } []).coreAt 191).ret.array = 2 := by decide
theorem test_CapacityEvents_move : ∀ p ∈ [3, 4],
    (let s := phase { phase := p, todo := [510] } [(510, { st := .live })]
     ((s.coreAt 191).ret.phase = 3 ∨ (s.coreAt 191).ret.phase = 4) ∧ (s.coreAt 191).ret.moving = none ∧ (s.coreAt 191).ret.todo = 510 :: [] ∧
       (s.tileAt 191 510).st ≠ .free ∧ s.writing 191 510 = false) ∧
    (let s := phase { phase := p, todo := [510], moving := some 510 } [(510, { st := .live })]
     (s.coreAt 191).ret.moving = some 510 ∧ (s.coreAt 191).ret.phase = p ∧ ∃ j rest, (s.coreAt 191).freeFrames = j :: rest) := by
  intro p hp
  simp only [List.mem_cons, List.not_mem_nil, or_false] at hp
  rcases hp with rfl | rfl <;> exact ⟨by decide +kernel, by decide, by decide, List.exists_cons_of_ne_nil (by decide +kernel)⟩
def syncMoving : State :=
  { State.reset with cores := [(48, { ret := { phase := 4, array := 16, bank := 15 } })], sync := { spill := [(0xF8000, 32766)] } }
theorem test_CapacityEvents_sync : let s := syncMoving
    48 % 48 = 0 ∧ (s.coreAt 48).ret.phase = 4 ∧ (s.coreAt 48).ret.array = 16 ∧
    SMap.get s.sync.spill 0 (48 / 48 * 2 ^ 19 + (s.coreAt 48).ret.bank * 2 ^ 15) + 1 < 2 ^ 15 := by decide
theorem test_CapacityEvents_quota : 3 < 4 ∧ (mem0.coreAt 0).ret.phase = 0 ∧ (mem0.slotAt 0).st ≠ .free ∧ (mem0.slotAt 3).st = .free := by decide

/-- ErrorEvents: an injector armed on bank 3 of the data cache of core 2; a matrix command that runs in an open window and in none;
a suspect core. -/
def armed (e : Nat) : State := { State.reset with cores := [(2, { errInj := BitVec.ofNat 64 (2 ^ 31 + e * 2 ^ 16 + 3 * 2 ^ 8 + 4) })] }
theorem test_ErrorEvents_inject : ∀ e ∈ [0, 1, 2, 3], ((armed e).coreAt 2).errInj.toNat / 2 ^ 31 % 2 = 1 ∧
    ((armed e).coreAt 2).errInj.toNat % 256 = 4 ∧ ((armed e).coreAt 2).errInj.toNat / 256 % 256 = 3 ∧
    ((armed e).coreAt 2).errInj.toNat / 2 ^ 16 % 4 = e := by decide
theorem test_ErrorEvents_replay : ∀ w ∈ [true, false],
    (let s := running .matrix (.mzero plain 3 false) { demoSlot with win := { opened := w } }
     s.running .matrix 4 = some (started (.mzero plain 3 false)) ∧ coreOf 4 = 1 ∧ bankExists 0 31 = true ∧ bankExists 2 7 = true ∧
       (s.slotAt 4).win.opened = w ∧ s.replayable 4 (started (.mzero plain 3 false)) false = true) := by decide +kernel
theorem test_ErrorEvents_service : ({ State.reset with cores := [(2, { health := 1 })] }.coreAt 2).health = 1 := by decide

/-- LinkEvents. -/
def downSince : State :=
  { State.reset with time := 50000001, mlinks := [(31, { down := some 1 })], lomnik := { down := some 1 }
                     fab := { links := [(15, { retrain := some 1 })] } }
theorem test_LinkEvents_failure : 31 < 32 ∧ (State.reset.mLink 31).down = none ∧ State.reset.lomnik.down = none ∧ 15 < 16 ∧
    (State.reset.fLink 15).up = true ∧ (State.reset.fLink 15).retrain = none := by decide
theorem test_LinkEvents_timeout : 50000000 ≤ downSince.time.toNat - (1 : Word).toNat ∧ (downSince.mLink 31).down = some 1 ∧
    (downSince.mLink 31).lost = false ∧ downSince.lomnik.down = some 1 ∧ downSince.lomnik.lost = false ∧
    (downSince.fLink 15).retrain = some 1 ∧ (downSince.fLink 15).retrain ≠ none := by decide
/-- A page of address space 0 that may move to a frame on top of the other tier's stack. -/
def moving : State :=
  let t := (State.reset.placePages.wrPhys 0x4008 8 (0x10000 + 0x87)).wrPhys 8 8 1
  { (t.wrPhys 0x9000 8 1).wrPhys 0x9008 8 0x50000 with tens := [(1, { poolM := 0x8000, poolH := 0x9000 })] }
theorem test_LinkEvents_move : ∃ leaf, moving.walk 0 0x10000 = .ok leaf ∧
    (let ten := moving.rdPhys (moving.asidEntry 0 + 8) 8 % 64
     let e := moving.tenAt ten
     ten = 1 ∧ leaf.tier = 0 ∧ moving.stackTop e.poolH = some 0x50000 ∧ moving.movable 0 0x10000 leaf = true ∧ e.poolM ≠ 0 ∧
       0x50000 % 2 ^ leaf.bits = 0) :=
  ⟨{ base := 0x10000, write := true, dev := true, pte := 0x4008 }, by decide +kernel, by decide +kernel⟩

/-- DomainEvents: package 0 is arbiter, standby or neither; package 287 has been silent for 30 us. -/
def domain (arb sby : Nat) : State :=
  { State.reset with time := 30000, fab := { arbiter := arb, standby := sby }, tens := [(1, { xset := [0, 5, 287] })] }
theorem test_DomainEvents_beats : 30000 ≤ (domain 5 0).time.toNat - (SMap.get (domain 5 0).fab.beatAt 0 287).toNat ∧ 287 ≠ (domain 5 0).pkg ∧
    287 < 288 ∧ (domain 5 0).isDead 287 = false ∧ (domain 5 6).fab.arbiter ≠ (domain 5 6).pkg ∧ (domain 5 6).fab.standby ≠ (domain 5 6).pkg ∧
    (domain 0 5).fab.arbiter = (domain 0 5).pkg ∧ (domain 287 0).fab.standby = (domain 287 0).pkg ∧ (domain 287 0).fab.arbiter ≠ (domain 287 0).pkg ∧
    (domain 287 0).fab.arbiter = 287 ∧ 287 ∈ (domain 0 5).liveMembers 1 := by decide +kernel
/-- Two entries of a calendar, one to send and one to receive, of an exchange that runs and was committed at 0. -/
def calendar : List CalEntry := [{ phase := 0, src := 0, dst := 5, bytes := 64, start := 0, length := 1 }, { phase := 0, src := 5, dst := 0, bytes := 64, start := 0, length := 1 }]
def exchanging : State := { domain 5 6 with xtags := [(tagKey 1 9, { cal := some calendar, commit := some 0, running := true })] }
theorem test_DomainEvents_entry : ∀ e ∈ [0, 1], ((exchanging.xtagAt (tagKey 1 9)).cal.getD [])[e]? = calendar[e]? ∧
    (calendar[e]?).all (fun ent => exchanging.entryOpen (exchanging.xtagAt (tagKey 1 9)) e ent) = true ∧ (calendar[e]?).isSome = true := by decide +kernel
/-- A reduction of two members of 64 bytes, open since 0 with its wait of 30,000 ns. -/
def fredOf : FredDesc := { rid := 3, fmt := 1, src := 0x20000, len := 64, dst := 0x30000, dpkg := 0, wait := 30000, status := 0x40000, members := [0, 5] }
def reducingState : State := { domain 5 6 with reds := [(2, some { red := fredOf, first := 0 })] }
theorem test_DomainEvents_reduction : 5 ≠ (domain 5 6).pkg ∧ (domain 5 6).isDead 5 = false ∧ (List.replicate 64 (0 : Byte)).length = fredOf.len ∧
    (domain 5 6).openReds < 256 ∧ (∃ r, SMap.get reducingState.reds none 2 = some r ∧ r.ended = false ∧
      (if r.red.wait = 0 then 200000 else r.red.wait) ≤ reducingState.time.toNat - r.first.toNat) :=
  ⟨by decide, by decide, by decide, by decide, _, rfl, by decide, by decide⟩
/-- Remote atomics: from package 5, new, cached, and held behind a full cache of 2 ms; and of this package, in issue and not. -/
def addOne : AtomOp := { kind := .add, size := 8, uns := false, pa := 0x100000, y := 1, z := 0 }
def fullHome : RHome := { cache := (List.range 1024).map fun n => (n, 0, 0), held := [(1024, addOne)] }
def homes (h : RHome) : State := { domain 5 6 with time := 2000000, rhomes := [(5, h)] }
theorem test_DomainEvents_homes : (homes {}).isDead 5 = false ∧ (SMap.get (homes {}).rhomes {} 5).cache.find? (fun e => e.1 == 7) = none ∧
    (SMap.get (homes {}).rhomes {} 5).floor ≤ 7 ∧ (SMap.get (homes {}).rhomes {} 5).held = [] ∧ (SMap.get (homes {}).rhomes {} 5).cache.length < 1024 ∧
    (homes {}).homeReached addOne = true ∧ addOne.pa < 3 * 2 ^ 40 ∧
    (SMap.get (homes { cache := [(7, 9, 0)] }).rhomes {} 5).cache.find? (fun e => e.1 == 7) = some (7, 9, 0) ∧
    (SMap.get (homes fullHome).rhomes {} 5).held = (1024, addOne) :: [] ∧ 1024 ≤ (SMap.get (homes fullHome).rhomes {} 5).cache.length ∧
    (∃ e es, (SMap.get (homes fullHome).rhomes {} 5).cache = e :: es ∧ 2000000 ≤ (homes fullHome).time.toNat - e.2.2.toNat) := by
  refine ⟨by decide, by decide, by decide, by decide, by decide, by decide +kernel, by decide, by decide, by decide +kernel, by decide +kernel,
    (0, 0, 0), ((List.range 1024).map fun n => (n, (0 : Word), (0 : Word))).tail, by decide +kernel, by decide +kernel⟩
def remote (pc : Word) : State :=
  { demo .a [] { demoSlot with a := { pc := pc }, ratom := some 8 } with
    time := 50000, ratoms := [(8, some { slot := 0, op := addOne, h := plain, d := 4, next := 0x1000C, pc := 0x10004, dst := 5, tries := 3 })] }
theorem test_DomainEvents_atomics : ∀ pc ∈ ([0x10004, 0x10008] : List Word), ∃ r, SMap.get (remote pc).ratoms none 8 = some r ∧ r.slot ≠ 768 ∧ r.live = true ∧
    ((remote pc).atAtomic r = true ↔ pc = 0x10004) ∧ r.heldHome = false ∧ r.old = none ∧
    50000 ≤ (remote pc).time.toNat - r.sentAt.toNat ∧ r.tries < 4 := by
  intro pc h
  simp only [List.mem_cons, List.not_mem_nil, or_false] at h
  rcases h with rfl | rfl <;> exact ⟨_, rfl, by decide, by decide, by decide, by decide, by decide, by decide, by decide⟩

/-! ### One step, by the spec's own examples and by hand calculation -/

/-- What a register of the issuing sequencer holds after an instruction. -/
def result (o : Host.Outcome State Fault Refusal) (st : Stream) (r : Reg) : Option Word :=
  match o with
  | .next t => some ((t.slotAt 0).seq st |>.rd r)
  | _ => none
/-- The cause and reason with which slot 0 has been told of a fault. -/
def faultOf (o : Host.Outcome State Fault Refusal) : Option (BitVec 8 × BitVec 8) :=
  match o with
  | .next t => some ((t.slotAt 0).fault.cause, (t.slotAt 0).fault.info.extractLsb' 0 8)
  | _ => none

/-- R152: an addition wraps; g0 discards; the most negative number by -1 wraps, its remainder is 0; division by zero. -/
theorem test_add_wraps : result (exec (.add plain 9 4 2) (scalars .a)) .a 9 = some 0 := by decide +kernel
theorem test_add_g0 : result (exec (.add plain 0 4 4) (scalars .a)) .a 0 = some 0 := by decide +kernel
theorem test_div_overflow : result (exec (.div plain 9 5 4) (scalars .a)) .a 9 = some 0x8000000000000000 ∧
    result (exec (.rem plain 9 5 4) (scalars .a)) .a 9 = some 0 := by decide +kernel
theorem test_div_zero : result (exec (.div plain 9 6 1) (scalars .a)) .a 9 = some 0xFFFFFFFFFFFFFFFF ∧
    result (exec (.rem plain 9 6 1) (scalars .a)) .a 9 = some 100 := by decide +kernel
/-- A shift by 64 shifts by 0; the high half of (-1) * (-1) is 0 signed and 2^64 - 2 unsigned. -/
theorem test_shift_modulo : result (exec (.shl plain 9 6 7) (scalars .x)) .x 9 = some 100 := by decide +kernel
theorem test_mulh_signs : result (exec (.mulh plain 9 4 4) (scalars .a)) .a 9 = some 0 ∧
    result (exec (.mulhu plain 9 4 4) (scalars .a)) .a 9 = some 0xFFFFFFFFFFFFFFFE := by decide +kernel
/-- LD of a byte 0x80 sign-extends under .b and zero-extends under .bu; the bytes of a word are little-endian (R5, R180). -/
def loading : State := { mem0 with mem := writeBytes [] 0x100000 (leBytes 8 0x1122334455667780) }
theorem test_ld_extends : result (exec (.ld plain 20 1 4 0) loading) .a 20 = some 0xFFFFFFFFFFFFFF80 ∧
    result (exec (.ld plain 20 1 0 0) loading) .a 20 = some 0x80 := by decide +kernel
theorem test_ld_bytes : result (exec (.ld plain 20 1 2 0) loading) .a 20 = some 0x55667780 ∧
    result (exec (.ld plain 20 1 0 1) loading) .a 20 = some 0x77 := by decide +kernel
/-- A store that has its line stays in the data cache until a release (R99, R103); a load of the slot sees it. -/
theorem test_st_cached : (match exec (.st plain 12 1 3 0) loading with
    | .next t => some (t.rdPhys 0x100000 8, (t.viewByte 0 ⟨0, 0, 0x100000⟩).toNat)
    | _ => none) = some (0x1122334455667780, 5) := by decide +kernel
/-- An atomic add returns the old value and leaves the sum at home (R182, R183). -/
theorem test_aadd : (match exec (.aadd plain 20 1 13 2 0 0) loading with
    | .next t => some ((t.slotAt 0).a.rd 20, t.rdPhys 0x100000 8)
    | _ => none) = some (0x1122334455667780, 0x1122334455667787) := by decide +kernel
/-- SLDF empties a full word (R123). -/
theorem test_sldf : (match exec (.sldf plain 20 2 5) (onWord fullWord) with
    | .next t => some ((t.slotAt 0).a.rd 20, t.syncFull 0x2000)
    | _ => none) = some (41, false) := by decide +kernel
/-- XROUTE with one place left takes it: count 3 and rank 0 (R197). -/
theorem test_xroute : result (exec (.xroute plain 20 1 3) (routing 0x400000003 0)) .a 20 = some 0x0000000300000000 := by decide +kernel
/-- TRAP 7 enters the handler with cause 0x13 (R171); ERET returns behind it (R172). -/
theorem test_trap_eret : faultOf (exec (.trap plain 7) (inState .a .solo)) = some (0x13, 0) ∧
    (match exec (.eret plain) handling with
      | .next t => some (t.slotAt 0).a.pc
      | _ => none) = some 0x10008 := by decide +kernel
/-- A privileged instruction without privilege is refused with PRIV: the task is killed (R177, R198). -/
theorem test_priv : (match exec (.xpin plain 20 1 2) (mapping [] false) with
    | .next t => some (t.slotAt 0).st
    | _ => none) ≠ some .solo := by decide +kernel
/-- BF16 and FP32 sums at a home (R73): 1.0 + 1.0 in BF16, 1.5 + 2.25 in FP32. -/
theorem test_float_add : fadd16 0x3F80 0x3F80 = 0x4000 ∧ fadd32 0x3FC00000 0x40100000 = 0x40700000 := by decide +kernel
/-- SHAKE256 of the empty string begins 46 B9 DD 2B (FIPS 202). -/
theorem test_shake256 : shake256 [] 4 = [0x46, 0xB9, 0xDD, 0x2B] := by decide +kernel

end Sys2Proof.Tests
end

/-! The proof of O7. Memory is written through few operations, whose laws stand in `Sys2Proof/Laws/Memory.lean`.
Here every other operation of the model either touches no memory (`memoryOk_f`, an equivalence for `simp`) or keeps
canonical memories canonical (`f_memoryOk`), up to the instructions (`execF_ok`) and the turns of a step. -/

namespace Sys2Proof

open Machine

/-! ### What the invariant speaks of -/

/-- Three memories in canonical form: a package's own, its host's, and those of its peers. -/
def MemsOk (m h : Memory) (p : SMap Memory) : Prop :=
  m.wf ∧ h.wf ∧ SMap.wf ([] : Memory) p = true ∧ ∀ e ∈ p, Memory.wf e.2

@[simp] theorem memsOk_self (s : State) : MemsOk s.mem s.host s.peer ↔ MemoryOk s := Iff.rfl

/-- The rule for `{ s with … }`: of a state that is put together, only the three memories matter. It takes a binder
per field because `simp` has to meet the constructor itself. -/
@[simp] theorem memoryOk_mk : ∀ t n m h p x1 x2 x3 x4 x5 x6 x7 x8 x9 x10 x11 x12 x13 x14 x15 x16 x17 x18 x19
    x20 x21 x22 x23 x24 x25 x26 x27 x28 x29 x30 x31 x32 x33 x34 x35 x36 x37 x38 x39,
    MemoryOk (State.mk t n m h p x1 x2 x3 x4 x5 x6 x7 x8 x9 x10 x11 x12 x13 x14 x15 x16 x17 x18 x19
      x20 x21 x22 x23 x24 x25 x26 x27 x28 x29 x30 x31 x32 x33 x34 x35 x36 x37 x38 x39) ↔ MemsOk m h p := by
  intros; rfl

@[simp] theorem memoryOk_ite (c : Prop) [Decidable c] (s t : State) :
    MemoryOk (if c then s else t) ↔ if c then MemoryOk s else MemoryOk t := by split <;> rfl

@[simp] theorem memoryOk_fst_ite {α : Type} (c : Prop) [Decidable c] (s t : State × α) :
    MemoryOk (if c then s else t).1 ↔ if c then MemoryOk s.1 else MemoryOk t.1 := by split <;> rfl

/-- An operation that touches no memory touches none when it is repeated along a list. -/
@[simp] theorem memoryOk_foldl {α : Type} {f : State → α → State} (hf : ∀ s x, MemoryOk (f s x) ↔ MemoryOk s)
    (l : List α) (s : State) :
    MemoryOk (l.foldl f s) ↔ MemoryOk s := by
  induction l generalizing s with
  | nil => rfl
  | cons x r ih => exact (ih _).trans (hf s x)

@[simp] theorem memoryOk_foldl_fst {α β : Type} {f : State × β → α → State × β}
    (hf : ∀ a x, MemoryOk (f a x).1 ↔ MemoryOk a.1) (l : List α) (a : State × β) :
    MemoryOk (l.foldl f a).1 ↔ MemoryOk a.1 := by
  induction l generalizing a with
  | nil => rfl
  | cons x r ih => exact (ih _).trans (hf a x)

/-! ### What the parts of a step answer

Where the answer holds a state, that state's memories are in order. -/

def OutOk : Out → Prop
  | .next t => MemoryOk t
  | .fault _ | .refused _ => True

@[simp] theorem outOk_next (t) : OutOk (.next t) ↔ MemoryOk t := Iff.rfl
@[simp] theorem outOk_fault (e) : OutOk (.fault e) := trivial
@[simp] theorem outOk_ite (c : Prop) [Decidable c] (a b : Out) :
    OutOk (if c then a else b) ↔ if c then OutOk a else OutOk b := by split <;> rfl

def BodyOk : Body → Prop
  | .done t | .served t | .stall t | .badWith t _ => MemoryOk t
  | .bad _ | .void _ => True

@[simp] theorem bodyOk_done (t) : BodyOk (.done t) ↔ MemoryOk t := Iff.rfl
@[simp] theorem bodyOk_served (t) : BodyOk (.served t) ↔ MemoryOk t := Iff.rfl
@[simp] theorem bodyOk_stall (t) : BodyOk (.stall t) ↔ MemoryOk t := Iff.rfl
@[simp] theorem bodyOk_badWith (t b) : BodyOk (.badWith t b) ↔ MemoryOk t := Iff.rfl
@[simp] theorem bodyOk_bad (b) : BodyOk (.bad b) := trivial
@[simp] theorem bodyOk_void (pa) : BodyOk (.void pa) := trivial
@[simp] theorem bodyOk_ite (c : Prop) [Decidable c] (a b : Body) :
    BodyOk (if c then a else b) ↔ if c then BodyOk a else BodyOk b := by split <;> rfl

def PushedOk : Pushed → Prop
  | .cmd t _ | .stall t => MemoryOk t
  | .bad _ | .void _ => True

@[simp] theorem pushedOk_cmd (t c) : PushedOk (.cmd t c) ↔ MemoryOk t := Iff.rfl
@[simp] theorem pushedOk_stall (t) : PushedOk (.stall t) ↔ MemoryOk t := Iff.rfl
@[simp] theorem pushedOk_bad (b) : PushedOk (.bad b) := trivial
@[simp] theorem pushedOk_void (pa) : PushedOk (.void pa) := trivial
@[simp] theorem pushedOk_ite (c : Prop) [Decidable c] (a b : Pushed) :
    PushedOk (if c then a else b) ↔ if c then PushedOk a else PushedOk b := by split <;> rfl

def HeadOk : Head → Prop
  | .runs t _ | .over_ t _ | .refused t _ => MemoryOk t
  | .wait _ | .bad _ | .void _ => True

@[simp] theorem headOk_runs (t c) : HeadOk (.runs t c) ↔ MemoryOk t := Iff.rfl
@[simp] theorem headOk_over (t c) : HeadOk (.over_ t c) ↔ MemoryOk t := Iff.rfl
@[simp] theorem headOk_refused (t c) : HeadOk (.refused t c) ↔ MemoryOk t := Iff.rfl
@[simp] theorem headOk_wait (w) : HeadOk (.wait w) := trivial
@[simp] theorem headOk_bad (b) : HeadOk (.bad b) := trivial
@[simp] theorem headOk_void (pa) : HeadOk (.void pa) := trivial
@[simp] theorem headOk_ite (c : Prop) [Decidable c] (a b : Head) :
    HeadOk (if c then a else b) ↔ if c then HeadOk a else HeadOk b := by split <;> rfl

def MovedOk : Moved → Prop
  | .ok t _ => MemoryOk t
  | .bad _ | .wait _ | .void _ => True

@[simp] theorem movedOk_ok (t c) : MovedOk (.ok t c) ↔ MemoryOk t := Iff.rfl
@[simp] theorem movedOk_bad (b) : MovedOk (.bad b) := trivial
@[simp] theorem movedOk_wait (w) : MovedOk (.wait w) := trivial
@[simp] theorem movedOk_void (pa) : MovedOk (.void pa) := trivial
@[simp] theorem movedOk_ite (c : Prop) [Decidable c] (a b : Moved) :
    MovedOk (if c then a else b) ↔ if c then MovedOk a else MovedOk b := by split <;> rfl

section

variable (s : State)

/-! ### Operations that touch no memory: registers, descriptors and tiles -/

@[simp] theorem memoryOk_updSlot (n f) : MemoryOk (s.updSlot n f) ↔ MemoryOk s := Iff.rfl
@[simp] theorem memoryOk_updCore (c f) : MemoryOk (s.updCore c f) ↔ MemoryOk s := Iff.rfl
@[simp] theorem memoryOk_updTen (t f) : MemoryOk (s.updTen t f) ↔ MemoryOk s := Iff.rfl
@[simp] theorem memoryOk_updJob (j f) : MemoryOk (s.updJob j f) ↔ MemoryOk s := Iff.rfl
@[simp] theorem memoryOk_updQueue (q f) : MemoryOk (s.updQueue q f) ↔ MemoryOk s := Iff.rfl
@[simp] theorem memoryOk_updSeq (n st f) : MemoryOk (s.updSeq n st f) ↔ MemoryOk s := Iff.rfl
@[simp] theorem memoryOk_updMe (f) : MemoryOk (s.updMe f) ↔ MemoryOk s := Iff.rfl
@[simp] theorem memoryOk_wg (r v) : MemoryOk (s.wg r v) ↔ MemoryOk s := Iff.rfl
@[simp] theorem memoryOk_wp (r b) : MemoryOk (s.wp r b) ↔ MemoryOk s := Iff.rfl
@[simp] theorem memoryOk_retire (h) : MemoryOk (s.retire h) ↔ MemoryOk s := Iff.rfl
@[simp] theorem memoryOk_stalled : MemoryOk s.stalled ↔ MemoryOk s := Iff.rfl
@[simp] theorem memoryOk_faulted : MemoryOk s.faulted ↔ MemoryOk s := Iff.rfl
@[simp] theorem memoryOk_jump (target) : MemoryOk (s.jump target) ↔ MemoryOk s := Iff.rfl
@[simp] theorem memoryOk_branch (target) : MemoryOk (s.branch target) ↔ MemoryOk s := Iff.rfl
@[simp] theorem memoryOk_stallCause (core t c) : MemoryOk (s.stallCause core t c) ↔ MemoryOk s := by
  simp [State.stallCause]
@[simp] theorem memoryOk_hold (asid va l) : MemoryOk (s.hold asid va l) ↔ MemoryOk s := Iff.rfl
@[simp] theorem memoryOk_holdAll (asid l) : MemoryOk (s.holdAll asid l) ↔ MemoryOk s := by
  induction l generalizing s with
  | nil => rfl
  | cons x r ih => exact (ih _).trans (by simp)
@[simp] theorem memoryOk_updTile (core idx f) : MemoryOk (s.updTile core idx f) ↔ MemoryOk s := Iff.rfl
@[simp] theorem memoryOk_updTileOf (h f) : MemoryOk (s.updTileOf h f) ↔ MemoryOk s := Iff.rfl
@[simp] theorem memoryOk_commit (l) : MemoryOk (s.commit l) ↔ MemoryOk s := by
  induction l generalizing s with
  | nil => rfl
  | cons x r ih => exact (ih _).trans (by simp)
@[simp] theorem memoryOk_discard (l) : MemoryOk (s.discard l) ↔ MemoryOk s := by
  induction l generalizing s with
  | nil => rfl
  | cons x r ih => exact (ih _).trans (by simp)
@[simp] theorem memoryOk_discardWindow (slot) : MemoryOk (s.discardWindow slot) ↔ MemoryOk s := by
  simp [State.discardWindow]
@[simp] theorem memoryOk_allocate (slot core idx f) : MemoryOk (s.allocate slot core idx f).1 ↔ MemoryOk s :=
  Iff.rfl

/-! ### Operations that touch no memory: waiters, groups and rings -/

@[simp] theorem memoryOk_setSync (key v) : MemoryOk (s.setSync key v) ↔ MemoryOk s := Iff.rfl
@[simp] theorem memoryOk_setFull (key b) : MemoryOk (s.setFull key b) ↔ MemoryOk s := Iff.rfl
@[simp] theorem memoryOk_depMet (key) : MemoryOk (s.depMet key) ↔ MemoryOk s := by simp [State.depMet]
@[simp] theorem memoryOk_completeA (w f) : MemoryOk (s.completeA w f) ↔ MemoryOk s := Iff.rfl
@[simp] theorem memoryOk_settleTask (slot) : MemoryOk (s.settleTask slot).1 ↔ MemoryOk s := by
  simp [State.settleTask]
@[simp] theorem memoryOk_leaveWaits (slot) : MemoryOk (s.leaveWaits slot) ↔ MemoryOk s := by simp [State.leaveWaits]
@[simp] theorem memoryOk_setGroup (o g) : MemoryOk (s.setGroup o g) ↔ MemoryOk s := Iff.rfl
@[simp] theorem memoryOk_showGroup (o) : MemoryOk (s.showGroup o) ↔ MemoryOk s := by simp [State.showGroup]
@[simp] theorem memoryOk_joinGroup (o slot) : MemoryOk (s.joinGroup o slot) ↔ MemoryOk s := by
  simp [State.joinGroup]
@[simp] theorem memoryOk_withdraw (slot) : MemoryOk (s.withdraw slot) ↔ MemoryOk s :=
  memoryOk_foldl (fun _ _ => by simp) _ _
@[simp] theorem memoryOk_setRing (o r) : MemoryOk (s.setRing o r) ↔ MemoryOk s := Iff.rfl
@[simp] theorem memoryOk_setPos (o i v) : MemoryOk (s.setPos o i v) ↔ MemoryOk s := Iff.rfl
@[simp] theorem memoryOk_advanceRing (o n) : MemoryOk (s.advanceRing o n) ↔ MemoryOk s := by
  induction n generalizing s with
  | zero => rfl
  | succ n ih =>
    refine (ih _).trans ?_
    repeat' split
    all_goals simp
@[simp] theorem memoryOk_ringReserve (o n task) : MemoryOk (s.ringReserve o n task) ↔ MemoryOk s := Iff.rfl
@[simp] theorem memoryOk_ringTake (o task) : MemoryOk (s.ringTake o task).1 ↔ MemoryOk s := Iff.rfl

/-! ### Operations that touch no memory: tasks, faults and atomics -/

@[simp] theorem memoryOk_returnRecord (id record) : MemoryOk (s.returnRecord id record) ↔ MemoryOk s := Iff.rfl
@[simp] theorem memoryOk_mbDone (st) : MemoryOk (s.mbDone st) ↔ MemoryOk s := Iff.rfl
@[simp] theorem memoryOk_freeSlot (slot) : MemoryOk (s.freeSlot slot) ↔ MemoryOk s := by
  unfold State.freeSlot
  split <;> simp
@[simp] theorem memoryOk_orphanAtomics (slot) : MemoryOk (s.orphanAtomics slot) ↔ MemoryOk s := Iff.rfl
@[simp] theorem memoryOk_raise (slot t) : MemoryOk (s.raise slot t) ↔ MemoryOk s := Iff.rfl
@[simp] theorem memoryOk_headFault (slot e c b) : MemoryOk (s.headFault slot e c b) ↔ MemoryOk s := Iff.rfl
@[simp] theorem memoryOk_retireRdv (slot st) : MemoryOk (s.retireRdv slot st) ↔ MemoryOk s := Iff.rfl
@[simp] theorem memoryOk_memWait (cause) : MemoryOk (s.memWait cause) ↔ MemoryOk s := by simp [State.memWait]
@[simp] theorem memoryOk_sendAtomic (dst op h d ord scope) :
    MemoryOk (s.sendAtomic dst op h d ord scope) ↔ MemoryOk s := by
  unfold State.sendAtomic
  split <;> simp
@[simp] theorem memoryOk_endAtomic (slot num) : MemoryOk (s.endAtomic slot num) ↔ MemoryOk s := Iff.rfl
@[simp] theorem memoryOk_joinWord (key w) : MemoryOk (s.joinWord key w) ↔ MemoryOk s := by simp [State.joinWord]
@[simp] theorem memoryOk_joinRing (o w) : MemoryOk (s.joinRing o w) ↔ MemoryOk s := by simp [State.joinRing]
@[simp] theorem memoryOk_dropRoute (d i) : MemoryOk (s.dropRoute d i) ↔ MemoryOk s := Iff.rfl
@[simp] theorem memoryOk_park : MemoryOk s.park ↔ MemoryOk s := Iff.rfl

/-! ### Operations that touch no memory: pins, exchange and commands -/

@[simp] theorem memoryOk_xpin (asid sh va) : MemoryOk (s.xpin asid sh va).1 ↔ MemoryOk s := by
  unfold State.xpin
  split
  · rfl
  · simp
@[simp] theorem memoryOk_xunpin (asid sh va) : MemoryOk (s.xunpin asid sh va).1 ↔ MemoryOk s := by
  simp [State.xunpin]
@[simp] theorem memoryOk_updXtag (key f) : MemoryOk (s.updXtag key f) ↔ MemoryOk s := Iff.rfl
@[simp] theorem memoryOk_updArbTag (key f) : MemoryOk (s.updArbTag key f) ↔ MemoryOk s := Iff.rfl
@[simp] theorem memoryOk_send (m) : MemoryOk (s.send m) ↔ MemoryOk s := Iff.rfl
@[simp] theorem memoryOk_landFor (r n) : MemoryOk (s.landFor r n) ↔ MemoryOk s := by
  cases r <;> simp [State.landFor]
@[simp] theorem memoryOk_dropRed (rid) : MemoryOk (s.dropRed rid) ↔ MemoryOk s := by
  unfold State.dropRed
  split <;> simp
@[simp] theorem memoryOk_landLine (slot c v) : MemoryOk (s.landLine slot c v) ↔ MemoryOk s := by
  simp [State.landLine]
@[simp] theorem memoryOk_refillFailed (slot c) : MemoryOk (s.refillFailed slot c) ↔ MemoryOk s := by
  simp [State.refillFailed]
@[simp] theorem memoryOk_moveFault (slot c b) : MemoryOk (s.moveFault slot c b) ↔ MemoryOk s := by
  simp [State.moveFault]
@[simp] theorem memoryOk_multiply (slot cfg n ha hb tb) : MemoryOk (s.multiply slot cfg n ha hb tb) ↔ MemoryOk s :=
  Iff.rfl
@[simp] theorem memoryOk_multiplyChain (slot sr d src hb tb) :
    MemoryOk (s.multiplyChain slot sr d src hb tb) ↔ MemoryOk s :=
  Iff.rfl
@[simp] theorem memoryOk_katFailed (slot c sig) : MemoryOk (s.katFailed slot c sig) ↔ MemoryOk s := by
  simp [State.katFailed]
@[simp] theorem memoryOk_closeWindow (slot) : MemoryOk (s.closeWindow slot) ↔ MemoryOk s := by
  simp [State.closeWindow]
@[simp] theorem memoryOk_countWait (core slot h) : MemoryOk (s.countWait core slot h) ↔ MemoryOk s := by
  unfold State.countWait
  split <;> simp
@[simp] theorem memoryOk_started (e slot c) : MemoryOk (s.started e slot c) ↔ MemoryOk s := Iff.rfl
@[simp] theorem memoryOk_leaveQueue (e slot c) : MemoryOk (s.leaveQueue e slot c) ↔ MemoryOk s := Iff.rfl

/-! ### Operations that touch no memory: placing and saving tasks -/

@[simp] theorem memoryOk_placeMember (id record member slot) :
    MemoryOk (s.placeMember id record member slot) ↔ MemoryOk s :=
  Iff.rfl
@[simp] theorem memoryOk_placeRecord (id record slots) : MemoryOk (s.placeRecord id record slots) ↔ MemoryOk s := by
  simp [State.placeRecord]
@[simp] theorem memoryOk_fillChunk (id i n) : MemoryOk (s.fillChunk id i n) ↔ MemoryOk s := by
  induction n generalizing s with
  | zero => rfl
  | succ n ih =>
    unfold State.fillChunk
    dsimp only
    split
    · rfl
    · split
      · simp [ih]
      · rfl
@[simp] theorem memoryOk_fillChunks (die) : MemoryOk (s.fillChunks die) ↔ MemoryOk s := by simp [State.fillChunks]
@[simp] theorem memoryOk_dealTo (id die target) : MemoryOk (s.dealTo id die target) ↔ MemoryOk s := by
  simp [State.dealTo]
@[simp] theorem memoryOk_noteDrun (slot) : MemoryOk (s.noteDrun slot) ↔ MemoryOk s := Iff.rfl
@[simp] theorem memoryOk_leaveTiles (set slot) : MemoryOk (s.leaveTiles set slot) ↔ MemoryOk s := by
  simp [State.leaveTiles]
@[simp] theorem memoryOk_leaveSlot (slot area) : MemoryOk (s.leaveSlot slot area) ↔ MemoryOk s := by
  unfold State.leaveSlot
  dsimp only
  split <;> simp
@[simp] theorem memoryOk_dropFault (slot t) : MemoryOk (s.dropFault slot t) ↔ MemoryOk s := Iff.rfl
@[simp] theorem memoryOk_preFull (slot) : MemoryOk (s.preFull slot) ↔ MemoryOk s := by
  unfold State.preFull
  split <;> simp
@[simp] theorem memoryOk_landDruns (slot) : MemoryOk (s.landDruns slot) ↔ MemoryOk s := by simp [State.landDruns]
@[simp] theorem memoryOk_resendAtomic (slot) : MemoryOk (s.resendAtomic slot) ↔ MemoryOk s := by
  unfold State.resendAtomic
  split
  · rfl
  · split <;> simp

/-! ### Operations that touch no memory: registers of the package and capacity -/

@[simp] theorem memoryOk_setWeights (k v) : MemoryOk (s.setWeights k v) ↔ MemoryOk s := by simp [State.setWeights]
@[simp] theorem memoryOk_addJob (j) : MemoryOk (s.addJob j) ↔ MemoryOk s := Iff.rfl
@[simp] theorem memoryOk_mailboxGo (v) : MemoryOk (s.mailboxGo v) ↔ MemoryOk s := by simp [State.mailboxGo]
@[simp] theorem memoryOk_writeTenant (t off v) : MemoryOk (s.writeTenant t off v) ↔ MemoryOk s := by
  unfold State.writeTenant
  split <;> simp
@[simp] theorem memoryOk_writeMark (t off v) : MemoryOk (s.writeMark t off v) ↔ MemoryOk s := by
  simp [State.writeMark]
@[simp] theorem memoryOk_writeGlobal (off v) : MemoryOk (s.writeGlobal off v) ↔ MemoryOk s := by
  unfold State.writeGlobal
  split <;> simp
@[simp] theorem memoryOk_beginRetirement (core) : MemoryOk (s.beginRetirement core) ↔ MemoryOk s := by
  unfold State.beginRetirement
  dsimp only
  split
  · rfl
  · split <;> simp
@[simp] theorem memoryOk_endRetirement (core) : MemoryOk (s.endRetirement core) ↔ MemoryOk s := by
  simp [State.endRetirement]
@[simp] theorem memoryOk_raiseCapacity (core slot) : MemoryOk (s.raiseCapacity core slot) ↔ MemoryOk s := by
  unfold State.raiseCapacity
  split <;> simp
@[simp] theorem memoryOk_raiseOver (core) : MemoryOk (s.raiseOver core) ↔ MemoryOk s := by
  simp [State.raiseOver]
@[simp] theorem memoryOk_endStanding (core) : MemoryOk (s.endStanding core) ↔ MemoryOk s := by
  simp [State.endStanding]
@[simp] theorem memoryOk_tryStanding (core) : MemoryOk (s.tryStanding core) ↔ MemoryOk s := by
  simp [State.tryStanding]
@[simp] theorem memoryOk_settleOrphans (core) : MemoryOk (s.settleOrphans core) ↔ MemoryOk s := Iff.rfl
@[simp] theorem memoryOk_endMove (core f) : MemoryOk (s.endMove core f) ↔ MemoryOk s := Iff.rfl
@[simp] theorem memoryOk_tryOther (core) : MemoryOk (s.tryOther core) ↔ MemoryOk s := by simp [State.tryOther]

/-! ### Operations that touch no memory: errors, links and the domain -/

@[simp] theorem memoryOk_logError (e kind) : MemoryOk (s.logError e kind) ↔ MemoryOk s := by simp [State.logError]
@[simp] theorem memoryOk_countError (e kind) : MemoryOk (s.countError e kind) ↔ MemoryOk s := by
  unfold State.countError
  split <;> simp
@[simp] theorem memoryOk_matrixLost (slot c reason) : MemoryOk (s.matrixLost slot c reason) ↔ MemoryOk s := by
  simp [State.matrixLost]
@[simp] theorem memoryOk_readLost (x reason) : MemoryOk (s.readLost x reason) ↔ MemoryOk s := by
  unfold State.readLost
  split <;> simp
@[simp] theorem memoryOk_quarantine (core) : MemoryOk (s.quarantine core) ↔ MemoryOk s := Iff.rfl
@[simp] theorem memoryOk_updFLink (k f) : MemoryOk (s.updFLink k f) ↔ MemoryOk s := Iff.rfl
@[simp] theorem memoryOk_updMLink (k f) : MemoryOk (s.updMLink k f) ↔ MemoryOk s := Iff.rfl
@[simp] theorem memoryOk_loseFlight (slot) : MemoryOk (s.loseFlight slot) ↔ MemoryOk s := by simp [State.loseFlight]
@[simp] theorem memoryOk_loseHead (slot) : MemoryOk (s.loseHead slot) ↔ MemoryOk s := by
  unfold State.loseHead
  split <;> simp
@[simp] theorem memoryOk_loseLines : MemoryOk s.loseLines ↔ MemoryOk s := by simp [State.loseLines]
@[simp] theorem memoryOk_stopQueues : MemoryOk s.stopQueues ↔ MemoryOk s := by simp [State.stopQueues]
@[simp] theorem memoryOk_linkLog (k kind) : MemoryOk (s.linkLog k kind) ↔ MemoryOk s := by
  cases kind <;> simp [State.linkLog]
@[simp] theorem memoryOk_endEntries (key) : MemoryOk (s.endEntries key) ↔ MemoryOk s := by simp [State.endEntries]
@[simp] theorem memoryOk_loseTag (key) : MemoryOk (s.loseTag key) ↔ MemoryOk s := by
  refine memoryOk_foldl (fun t e => ?_) _ _
  split
  · simp
  · rfl
@[simp] theorem memoryOk_announce (p) : MemoryOk (s.announce p) ↔ MemoryOk s := by simp [State.announce]
@[simp] theorem memoryOk_heardArbiter : MemoryOk s.heardArbiter ↔ MemoryOk s := Iff.rfl
@[simp] theorem memoryOk_setRhome (p r) : MemoryOk (s.setRhome p r) ↔ MemoryOk s := Iff.rfl
@[simp] theorem memoryOk_measure (n m) : MemoryOk (s.measure n m) ↔ MemoryOk s := Iff.rfl
@[simp] theorem memoryOk_reapply (r) : MemoryOk (s.reapply r) ↔ MemoryOk s := by
  unfold State.reapply
  split <;> simp
@[simp] theorem memoryOk_reapplyAll : MemoryOk s.reapplyAll ↔ MemoryOk s := by simp [State.reapplyAll]

/-! ### Operations that touch no memory: the start of an instruction -/

@[simp] theorem memoryOk_begin (slot st pc next bundle q) : MemoryOk (s.begin slot st pc next bundle q) ↔ MemoryOk s :=
  Iff.rfl
@[simp] theorem memoryOk_markDrain (slot is) : MemoryOk (s.markDrain slot is) ↔ MemoryOk s := by
  simp [State.markDrain]

theorem needPriv_ok {f : Body} (hf : BodyOk f) : BodyOk (s.needPriv f) := by simp [State.needPriv, hf]

end

section

variable {s : State} (h : MemoryOk s)
include h

/-! ### Synchronisation objects -/

theorem serveOne_memoryOk (key w) : MemoryOk (s.serveOne key w) := by
  unfold State.serveOne
  split <;> simp [h, acquireCache_memoryOk]

theorem serveWord_memoryOk (key n) : MemoryOk (s.serveWord key n) := by
  induction n generalizing s with
  | zero => exact h
  | succ n ih =>
    unfold State.serveWord
    dsimp only
    split
    · exact h
    · exact ih (serveOne_memoryOk (by simpa using h) _ _)

theorem serve_memoryOk (key) : MemoryOk (s.serve key) := serveWord_memoryOk h _ _

theorem syncStore_memoryOk (key v full) : MemoryOk (s.syncStore key v full) := by
  unfold State.syncStore
  apply serve_memoryOk
  cases full <;> simpa using h

theorem closeGen_memoryOk (o) : MemoryOk (s.closeGen o) := by
  unfold State.closeGen
  dsimp only
  split
  · exact foldl_memoryOk (fun _ _ ht => acquireCache_memoryOk (by simpa using ht) _ _ _) _ (by simpa using h)
  · exact h

theorem settleGroup_memoryOk (o) : MemoryOk (s.settleGroup o) := by
  simp [State.settleGroup, closeGen_memoryOk, h]

theorem leaveGroup_memoryOk (o slot) : MemoryOk (s.leaveGroup o slot) := by
  simp [State.leaveGroup, settleGroup_memoryOk, h]

theorem arrive_memoryOk (o w) : MemoryOk (s.arrive o w) := by
  simp [State.arrive, settleGroup_memoryOk, h]

theorem serveRingOne_memoryOk (o w) : MemoryOk (s.serveRingOne o w) := by
  unfold State.serveRingOne
  split <;> simp [h, acquireCache_memoryOk]

theorem serveRing_memoryOk (o n) : MemoryOk (s.serveRing o n) := by
  induction n generalizing s with
  | zero => exact h
  | succ n ih =>
    unfold State.serveRing
    dsimp only
    split
    · exact h
    · exact ih (serveRingOne_memoryOk (by simpa using h) _ _)

theorem settleRing_memoryOk (o) : MemoryOk (s.settleRing o) := serveRing_memoryOk (by simpa using h) _ _

theorem ringPublish_memoryOk (o e n) : MemoryOk (s.ringPublish o e n) := settleRing_memoryOk (by simpa using h) _

theorem ringFree_memoryOk (o e) : MemoryOk (s.ringFree o e) := settleRing_memoryOk (by simpa using h) _

theorem endSync_memoryOk (slot) : MemoryOk (s.endSync slot) := by
  unfold State.endSync
  exact foldl_memoryOk (fun _ _ ht => leaveGroup_memoryOk ht _ _) _
    (foldl_memoryOk (fun _ _ ht => settleRing_memoryOk (by simpa using ht) _) _ h)

/-! ### Jobs -/

theorem finishJob_memoryOk (id) : MemoryOk (s.finishJob id) := by
  unfold State.finishJob
  dsimp only
  split <;> simp [h, syncStore_memoryOk]

theorem jobCheck_memoryOk (id) : MemoryOk (s.jobCheck id) := by
  unfold State.jobCheck
  dsimp only
  split <;> simp [h, finishJob_memoryOk]

theorem failJob_memoryOk (id cause reason) : MemoryOk (s.failJob id cause reason) :=
  jobCheck_memoryOk (by simpa using h) _

theorem memberDone_memoryOk (id record spr ovr) : MemoryOk (s.memberDone id record spr ovr) :=
  jobCheck_memoryOk (by simpa using h) _

/-! ### The end of a task -/

theorem releaseTin_memoryOk (slot) : MemoryOk (s.releaseTin slot) := by
  unfold State.releaseTin
  dsimp only
  split <;> simp [h, pushPool_memoryOk]

theorem performLines_memoryOk (slot c n) : MemoryOk (s.performLines slot c n).1 := by
  induction n generalizing s c with
  | zero => exact h
  | succ n ih => exact ih (performLine_memoryOk h _ _) _

theorem performFlight_memoryOk (slot) : MemoryOk (s.performFlight slot) := by
  unfold State.performFlight
  exact (memoryOk_updSlot _ _ _).2 (foldl_memoryOk (fun _ _ ht => performLines_memoryOk ht _ _ _) _ h)

theorem stopTask_memoryOk (slot) : MemoryOk (s.stopTask slot) := by
  have settled : MemoryOk (((((s.performFlight slot).writeBackWhere slot fun _ => true).leaveWaits slot).discardWindow
      slot).settleTask slot).1 := by
    simp [writeBackWhere_memoryOk, performFlight_memoryOk, h]
  simp [State.stopTask, endSync_memoryOk, releaseTin_memoryOk, settled]

theorem killTask_memoryOk (slot cause reason) : MemoryOk (s.killTask slot cause reason) := by
  unfold State.killTask
  exact jobCheck_memoryOk (failJob_memoryOk (stopTask_memoryOk h _) _ _ _) _

theorem stopAndRelaunch_memoryOk (slot cause) : MemoryOk (s.stopAndRelaunch slot cause).1 := by
  have stopped : MemoryOk ((s.groupSlots slot).foldl (fun u n => u.stopTask n) s) :=
    foldl_memoryOk (fun _ _ ht => stopTask_memoryOk ht _) _ h
  simp [State.stopAndRelaunch, jobCheck_memoryOk, failJob_memoryOk, stopped]

theorem endTask_memoryOk (slot) : MemoryOk (s.endTask slot) := by
  have settled : MemoryOk ((((s.writeBackWhere slot fun _ => true).leaveWaits slot).discardWindow
      slot).settleTask slot).1 := by
    simp [writeBackWhere_memoryOk, h]
  exact memberDone_memoryOk (by simp [endSync_memoryOk, releaseTin_memoryOk, settled]) _ _ _ _

/-! ### Faults -/

theorem takeFault_memoryOk (slot t ret) : MemoryOk (s.takeFault slot t ret) := by
  simp [State.takeFault, stopAndRelaunch_memoryOk, killTask_memoryOk, h]

theorem issueFault_memoryOk (b code ret) : MemoryOk (s.issueFault b code ret) := by
  unfold State.issueFault
  split <;> simp [takeFault_memoryOk, h]

theorem badQueue_ok : OutOk s.badQueue := issueFault_memoryOk h _ _ _

/-! ### Issue -/

theorem issueSeq_ok (hd gs ps) {body : State → Body} (hb : BodyOk (body s)) : OutOk (s.issueSeq hd gs ps body) := by
  unfold State.issueSeq
  split
  · exact badQueue_ok h
  · simpa using h
  · split <;> simp_all [issueFault_memoryOk]

theorem issuePure_ok (hd gs ps) {f : State → State} (hf : MemoryOk (f s)) : OutOk (s.issuePure hd gs ps f) :=
  issueSeq_ok h _ _ _ hf

theorem awaitOn_ok (hd gs) {body : State → Body} (hb : BodyOk (body s)) : OutOk (s.awaitOn hd gs body) := by
  unfold State.awaitOn
  split
  · simpa using h
  · exact issueSeq_ok h _ _ _ hb

theorem issueEng_ok (e hd gs ps ws wps) {mk : State → Pushed} (hm : PushedOk (mk s)) :
    OutOk (s.issueEng e hd gs ps ws wps mk) := by
  unfold State.issueEng
  split
  · exact badQueue_ok h
  · simpa using h
  · split <;> simp_all [issueFault_memoryOk]

theorem alu_ok (hd d a b op) : OutOk (s.alu hd d a b op) := issuePure_ok h _ _ _ (by simpa using h)
theorem alu1_ok (hd d a op) : OutOk (s.alu1 hd d a op) := issuePure_ok h _ _ _ (by simpa using h)
theorem plu_ok (hd d a b op) : OutOk (s.plu hd d a b op) := issuePure_ok h _ _ _ (by simpa using h)

theorem issueCopy_ok (i hd gs) {mk : State → Pushed} (hm : PushedOk (mk s)) : OutOk (s.issueCopy i hd gs mk) :=
  issueEng_ok h _ _ _ _ _ _ hm

theorem issueMatrix_ok (i hd accs gs) : OutOk (s.issueMatrix i hd accs gs) := by
  apply issueEng_ok h
  split <;> simp [h]

theorem issueVector_ok (i hd vs gs) : OutOk (s.issueVector i hd vs gs) := by
  apply issueEng_ok h
  split <;> simp [h]

end

section

variable {s : State} (h : MemoryOk s)
include h

/-! ### Sequencer instructions -/

theorem descFor_memoryOk (slot tid) : ∀ x, s.descFor slot tid = .ok x → MemoryOk x.1 := by
  intro x e
  unfold State.descFor at e
  dsimp only at e
  repeat' split at e
  all_goals cases e
  all_goals simpa using h

theorem bindRng_ok (n r) : BodyOk (s.bindRng n r) := by simp [State.bindRng, h]

theorem execDqpop_ok (hd d) : OutOk (execDqpop hd d s) := by
  apply issueSeq_ok h
  split <;> simp [h]

theorem execBrq_ok (hd p neg off syl) : OutOk (execBrq hd p neg off syl s) := by
  apply issueSeq_ok h
  split <;> simp [h]

theorem execRdv_ok (hd) : OutOk (execRdv hd s) := by
  apply issueSeq_ok h
  dsimp only
  split <;> simp [h]

theorem execTrap_ok (hd code) : OutOk (execTrap hd code s) := by
  unfold execTrap
  split
  · exact badQueue_ok h
  · simpa using h
  · exact issueFault_memoryOk h _ _ _

theorem execLd_ok (hd d b z o) : OutOk (execLd hd d b z o s) := by
  apply issueSeq_ok h
  dsimp only
  split <;> simp [h, touchAll_memoryOk, acquireCache_memoryOk]

/-- A store that releases first, and then walks its bytes. -/
theorem storeAll_touched_memoryOk (rel : Bool) (asid slot scope num tags so bs vs) :
    MemoryOk ((((if rel then s.releaseCache slot scope false else s).holdAll asid bs).touchAll slot bs).storeAll
      slot num tags so bs vs) :=
  storeAll_memoryOk (touchAll_memoryOk (by simp [releaseCache_memoryOk, h]) _ _) _ _ _ _ _ _

theorem execSt_ok (hd d b z o) : OutOk (execSt hd d b z o s) := by
  apply issueSeq_ok h
  dsimp only
  split <;> simp [h, storeAll_touched_memoryOk]

theorem execFence_ok (hd scope) : OutOk (execFence hd scope s) := by
  apply issueSeq_ok h
  simp [h, releaseCache_memoryOk, acquireCache_memoryOk]

theorem execFencer_ok (hd scope mask) : OutOk (execFencer hd scope mask s) := by
  apply issueSeq_ok h
  simp [h, writeBackWhere_memoryOk, invalidateWhere_memoryOk]

theorem execRngbind_ok (hd n a kind lreg len) : OutOk (execRngbind hd n a kind lreg len s) := by
  apply issueSeq_ok h
  dsimp only
  split
  · split
    · trivial
    · next u td e => exact bindRng_ok (descFor_memoryOk h _ _ _ e) _ _
  · simp [bindRng_ok, h]

/-! ### Atomics -/

theorem atomHome_memoryOk (tier op) : MemoryOk (s.atomHome tier op).1 := by
  unfold State.atomHome
  dsimp only
  split
  · split <;> simp [h, syncStore_memoryOk]
  · split <;> simp [h, wrPhys_memoryOk]

theorem atomHome_flushed_memoryOk (asid bs slot loc tier op) :
    MemoryOk (((s.holdAll asid bs).flushLoc slot loc).atomHome tier op).1 :=
  atomHome_memoryOk (flushLoc_memoryOk (by simpa using h) _ _) _ _

theorem atomic_ok (hd kind uns d a b c sz ord scope) : OutOk (s.atomic hd kind uns d a b c sz ord scope) := by
  apply issueSeq_ok h
  dsimp only
  split
  · trivial
  · split
    · trivial
    · simpa using h
    · trivial
    · split
      · exact h
      · have released : MemoryOk (if ord.getLsbD 1 then s.releaseCache s.cur.slot scope.toNat false else s) := by
          simp [releaseCache_memoryOk, h]
        generalize (if ord.getLsbD 1 then s.releaseCache s.cur.slot scope.toNat false else s) = u at released
        repeat' split
        all_goals simp [h, released, acquireCache_memoryOk, atomHome_flushed_memoryOk]

/-! ### Synchronisation words -/

theorem atWord_ok (x size xl pr) {f : State → Nat → Body} (hf : ∀ t key, MemoryOk t → BodyOk (f t key)) :
    BodyOk (s.atWord x size xl pr f) := by
  unfold State.atWord
  split
  · trivial
  · split
    · trivial
    · simpa using h
    · trivial
    · split
      · exact h
      · exact hf _ _ (by simpa using h)

theorem atRing_ok (x) {f : State → Nat → Body} (hf : ∀ t o, MemoryOk t → BodyOk (f t o)) : BodyOk (s.atRing x f) := by
  refine atWord_ok h _ _ _ _ fun t o ht => ?_
  dsimp only
  split
  · trivial
  · exact hf _ _ (by simpa using ht)

theorem probe_ok (d lo hi table i n) : BodyOk (s.probe d lo hi table i n) := by
  induction n generalizing s i with
  | zero => simpa [State.probe] using h
  | succ n ih =>
    unfold State.probe
    dsimp only
    split
    · simpa using h
    · refine atWord_ok h _ _ _ _ fun t key ht => ?_
      simp [syncStore_memoryOk, ht, ih]

theorem execSldf_ok (hd d a scope) : OutOk (execSldf hd d a scope s) :=
  issueSeq_ok h _ _ _ <| atWord_ok h _ _ _ _ fun t key ht => by
    simp [serve_memoryOk, acquireCache_memoryOk, ht]

theorem execSldw_ok (hd d a scope) : OutOk (execSldw hd d a scope s) :=
  issueSeq_ok h _ _ _ <| atWord_ok h _ _ _ _ fun t key ht => by
    simp [acquireCache_memoryOk, ht]

theorem execSste_ok (hd d a scope) : OutOk (execSste hd d a scope s) :=
  issueSeq_ok h _ _ _ <| atWord_ok h _ _ _ _ fun t key ht => by
    simp [releaseCache_memoryOk, syncStore_memoryOk, ht]

theorem execSstf_ok (hd d a scope) : OutOk (execSstf hd d a scope s) :=
  issueSeq_ok h _ _ _ <| atWord_ok h _ _ _ _ fun t key ht => by
    simp [releaseCache_memoryOk, syncStore_memoryOk, ht]

theorem execSeclr_ok (hd a) : OutOk (execSeclr hd a s) :=
  issueSeq_ok h _ _ _ <| atWord_ok h _ _ _ _ fun t key ht => by
    simp [serve_memoryOk, ht]

theorem execGjoin_ok (hd d a) : OutOk (execGjoin hd d a s) :=
  issueSeq_ok h _ _ _ <| atWord_ok h _ _ _ _ fun t o ht => by simp [ht]

theorem execGleave_ok (hd d a) : OutOk (execGleave hd d a s) :=
  issueSeq_ok h _ _ _ <| atWord_ok h _ _ _ _ fun t o ht => by simp [leaveGroup_memoryOk, ht]

theorem execGbar_ok (hd d a scope) : OutOk (execGbar hd d a scope s) :=
  issueSeq_ok h _ _ _ <| atWord_ok h _ _ _ _ fun t o ht => by
    simp [releaseCache_memoryOk, arrive_memoryOk, ht]

theorem execRres_ok (hd d a b) : OutOk (execRres hd d a b s) :=
  issueSeq_ok h _ _ _ <| atRing_ok h _ fun t o ht => by simp [ht]

theorem execRpub_ok (hd e a b) : OutOk (execRpub hd e a b s) :=
  issueSeq_ok h _ _ _ <| atRing_ok h _ fun t o ht => by
    simp [releaseCache_memoryOk, ringPublish_memoryOk, ht]

theorem execRtake_ok (hd d a p) : OutOk (execRtake hd d a p s) :=
  issueSeq_ok h _ _ _ <| atRing_ok h _ fun t o ht => by
    simp [acquireCache_memoryOk, ht]

theorem execRfree_ok (hd e a) : OutOk (execRfree hd e a s) :=
  issueSeq_ok h _ _ _ <| atRing_ok h _ fun t o ht => by
    split <;> simp [ringFree_memoryOk, ht]

theorem execXroute_ok (hd d a b) : OutOk (execXroute hd d a b s) := by
  apply issueSeq_ok h
  split
  · exact h
  · have probed := probe_ok (releaseCache_memoryOk h s.cur.slot 4 false) d (s.rg a) (s.rg (a + 1)) (s.rg b) 0
      s.me.routeDepth.toNat
    split <;> simp_all [acquireCache_memoryOk]

/-! ### Waits -/

theorem acquireGroup_memoryOk (cg) : MemoryOk (s.acquireGroup cg) := by
  simp [State.acquireGroup, acquireCache_memoryOk, h]

theorem execCwait_ok (hd cg) : OutOk (execCwait hd cg s) := by
  apply issueSeq_ok h
  simp [acquireGroup_memoryOk, h]

theorem execAwait_ok (hd kind reg) : OutOk (execAwait hd kind reg s) := by
  unfold execAwait
  split <;> apply awaitOn_ok h
  · simp [acquireGroup_memoryOk, h]
  · simp [h]
  · simp [h]
  · simp [h]
  · exact atWord_ok h _ _ _ _ fun t key ht => by simp [ht]
  · exact h

theorem execIllegal_ok (reason addr) : OutOk (execIllegal reason addr s) := by
  simp [execIllegal, issueFault_memoryOk, h]

/-! ### Translations -/

theorem flushPage_memoryOk (l) : MemoryOk (s.flushPage l) :=
  foldl_memoryOk (fun _ _ ht => foldl_memoryOk (fun _ _ hu => writeBack_memoryOk hu _ _) _ ht) _ h

theorem xinv_memoryOk (i force) : ∀ x ∈ s.xinv i force, MemoryOk x.1 := by
  intro x e
  unfold State.xinv at e
  dsimp only at e
  repeat' split at e
  all_goals cases e
  · exact h
  · refine (memsOk_self _).2 (foldl_memoryOk (fun t e ht => ?_) _ h)
    split
    · exact flushPage_memoryOk ht _
    · exact ht

theorem execXinv_ok (hd d a b force) : OutOk (execXinv hd d a b force s) := by
  apply issueSeq_ok h
  apply needPriv_ok
  split
  · trivial
  · split
    · exact h
    · next u st e => simpa using xinv_memoryOk h _ _ _ e

theorem pinOp_ok (hd d a b) {f : State → Nat → Nat → Nat → State × Nat}
    (hf : ∀ asid sh va, MemoryOk (f s asid sh va).1) :
    OutOk (s.pinOp hd d a b f) := by
  apply issueSeq_ok h
  apply needPriv_ok
  simp [hf]

/-! ### Issue into the copy engine's queue -/

theorem pushRead_memoryOk (slot o) : MemoryOk (s.pushRead slot o) := by
  cases o <;> simp [State.pushRead, pushWriteBack_memoryOk, writeBackWhere_memoryOk, h]

theorem pushCopy_ok (i ops td foot rd) : PushedOk (s.pushCopy i ops td foot rd) := by
  simp [State.pushCopy, pushRead_memoryOk, h]

theorem withTensor_ok (tv r c) {f : State → TDesc → Pushed} (hf : ∀ t td, MemoryOk t → PushedOk (f t td)) :
    PushedOk (s.withTensor tv r c f) := by
  unfold State.withTensor
  split
  · trivial
  · next u td e =>
    split
    · trivial
    · exact hf _ _ (descFor_memoryOk h _ _ _ e)

theorem issueFetch_ok (i hd t r c sh u n tr) : OutOk (s.issueFetch i hd t r c sh u n tr) :=
  issueCopy_ok h _ _ _ <| withTensor_ok h _ _ _ fun y td hy => by simp [pushCopy_ok, hy]

theorem execFetchRf_ok (hd d t r c cg cgv u) : OutOk (execFetchRf hd d t r c cg cgv u s) := by
  apply issueCopy_ok h
  exact withTensor_ok h _ _ _ fun y td hy => pushCopy_ok hy _ _ _ _ _

theorem execTalloc_ok (hd d t sh disc n) : OutOk (execTalloc hd d t sh disc n s) := by
  apply issueCopy_ok h
  split
  · trivial
  · next y td e => simp [State.pushPlain, descFor_memoryOk h _ _ _ e]

theorem execTstore_ok (hd t r c hh u cg cgv) : OutOk (execTstore hd t r c hh u cg cgv s) := by
  apply issueCopy_ok h
  exact withTensor_ok h _ _ _ fun y td hy => pushCopy_ok hy _ _ _ _ _

theorem execCgath_ok (hd d t l n r m cg cgv) : OutOk (execCgath hd d t l n r m cg cgv s) := by
  apply issueCopy_ok h
  split
  · trivial
  · next y td e => simp [pushCopy_ok, descFor_memoryOk h _ _ _ e]

theorem execFred_ok (hd a cg cgv) : OutOk (execFred hd a cg cgv s) := by
  apply issueCopy_ok h
  dsimp only
  split
  · trivial
  · split <;> simp [pushCopy_ok, pushWriteBack_memoryOk, h]

end

section

variable {s : State} (h : MemoryOk s)
include h

/-! ### Exchange and reductions -/

theorem takeCommit_memoryOk (tenant tag base) : MemoryOk (s.takeCommit tenant tag base) := by
  simp [State.takeCommit, wrVirt_memoryOk, h]

theorem commitTag_memoryOk (tenant tag base) : MemoryOk (s.commitTag tenant tag base) := by
  refine foldl_memoryOk (fun t m ht => ?_) _ (by simpa using h)
  simp [takeCommit_memoryOk, ht]

theorem takeAck_memoryOk (member tenant tag) : MemoryOk (s.takeAck member tenant tag) := by
  simp [State.takeAck, commitTag_memoryOk, h]

theorem takeCalendar_memoryOk (tenant tag phases repost es) :
    MemoryOk (s.takeCalendar tenant tag phases repost es) := by
  simp [State.takeCalendar, takeAck_memoryOk, h]

theorem tryDecompose_memoryOk (tenant tag) : MemoryOk (s.tryDecompose tenant tag) := by
  unfold State.tryDecompose
  dsimp only
  split
  · exact h
  · refine foldl_memoryOk (fun t m ht => ?_) _ (by simpa using h)
    simp [takeCalendar_memoryOk, ht]

theorem takePosting_memoryOk (member tenant tag accept demand) :
    MemoryOk (s.takePosting member tenant tag accept demand) := by
  unfold State.takePosting
  exact tryDecompose_memoryOk (by simpa using h) _ _

theorem sendPosting_memoryOk (tenant tag) : MemoryOk (s.sendPosting tenant tag) := by
  simp [State.sendPosting, takePosting_memoryOk, h]

theorem sendEntry_memoryOk (tenant tag e x ent) : MemoryOk (s.sendEntry tenant tag e x ent) := by
  unfold State.sendEntry
  dsimp only
  split
  · simpa using h
  · split <;> simpa using h
  · simpa using h
  · exact h

theorem recvEntry_memoryOk (tenant tag e x ent data ended) : MemoryOk (s.recvEntry tenant tag e x ent data ended) := by
  simp [State.recvEntry, wrVirt_memoryOk, h]

theorem contribute_memoryOk (member d data asid) : MemoryOk (s.contribute member d data asid) := by
  unfold State.contribute
  dsimp only
  split
  · simp [endRed_memoryOk, writeDst_memoryOk, h]
  · simp [endRed_memoryOk, writeDst_memoryOk, wrVirt_memoryOk, h]

/-! ### The heads of the copy queue -/

omit h in
theorem partHead_ok {α : Type} (p : Machine.Part α) {f : α → Head} (hf : ∀ v, HeadOk (f v)) : HeadOk (p.head f) := by
  cases p <;> simp [Part.head, hf]

omit h in
theorem withCheck_ok (o : Option Bad) {f : Head} (hf : HeadOk f) : HeadOk (withCheck o f) := by
  cases o <;> simp [withCheck, hf]

theorem headDpost_ok (slot c) : HeadOk (s.headDpost slot c) := by
  unfold State.headDpost
  extract_lets va
  split
  · trivial
  · generalize s.copyRead (s.asidOf slot) va 2368 = p
    refine partHead_ok p fun bs => ?_
    simp [sendPosting_memoryOk, h]

theorem headDcal_ok (slot c d) : HeadOk (s.headDcal slot c d) := by
  simp [State.headDcal, h]

theorem headDstat_ok (slot c d sel) : HeadOk (s.headDstat slot c d sel) := by
  simp [State.headDstat, h]

theorem headDrun_ok (slot c) : HeadOk (s.headDrun slot c) := by
  unfold State.headDrun
  dsimp only
  split
  · trivial
  · split
    · trivial
    · exact partHead_ok _ fun act => by simpa using h

theorem headFred_ok (slot c) : HeadOk (s.headFred slot c) := by
  refine partHead_ok _ fun w => ?_
  dsimp only
  split
  · trivial
  · split
    · trivial
    · exact partHead_ok _ fun bs => contribute_memoryOk h _ _ _ _

theorem allocTiles_memoryOk (slot f cores) : MemoryOk (s.allocTiles slot f cores).1 := by
  induction cores generalizing s with
  | nil => exact h
  | cons c r ih =>
    unfold State.allocTiles
    split
    · exact h
    · exact ih (by simpa using h)

theorem headAlloc_ok (slot c cores regs addr f) {go : State → Cmd → Head} (hg : ∀ t d, MemoryOk t → HeadOk (go t d)) :
    HeadOk (s.headAlloc slot c cores regs addr f go) := by
  unfold State.headAlloc
  split
  · exact hg _ _ (by simpa using allocTiles_memoryOk h _ _ _)
  · split
    · simpa using h
    · split <;> trivial

theorem headFetch_ok (slot c cores regs n sh disc rcmd) : HeadOk (s.headFetch slot c cores regs n sh disc rcmd) :=
  headAlloc_ok h _ _ _ _ _ _ fun _ _ ht => ht

theorem headRefill_ok (slot c) : HeadOk (s.headRefill slot c) :=
  withCheck_ok _ (by simp [h])

theorem headTstore_ok (slot c) : HeadOk (s.headTstore slot c) := by
  refine withCheck_ok _ ?_
  split
  · trivial
  · refine withCheck_ok _ ?_
    split
    · exact h
    · split <;> simp [h]

theorem headTcon_ok (slot c) : HeadOk (s.headTcon slot c) := by
  refine withCheck_ok _ ?_
  split <;> simp [h]

theorem headTrel_ok (slot c) : HeadOk (s.headTrel slot c) := withCheck_ok _ (by simpa using h)

theorem headTsettle_ok (slot c k) : HeadOk (s.headTsettle slot c k) := withCheck_ok _ (by simpa using h)

theorem headTadj_ok (slot c) : HeadOk (s.headTadj slot c) := by
  refine withCheck_ok _ ?_
  split <;> simp [h]

theorem headTquery_ok (slot c d sel) : HeadOk (s.headTquery slot c d sel) := withCheck_ok _ (by simpa using h)

theorem popPool_memoryOk (t) : ∀ x ∈ s.popPool t, MemoryOk x.1 := by
  simp [State.popPool, h]

theorem needTin_memoryOk (slot) : ∀ t ∈ s.needTin slot, MemoryOk t := by
  intro t e
  unfold State.needTin at e
  dsimp only at e
  repeat' split at e
  all_goals cases e
  · exact h
  · next u a e => simpa using popPool_memoryOk h _ _ e

theorem headPark_ok (slot c d) : HeadOk (s.headPark slot c d) := by
  refine withCheck_ok _ ?_
  dsimp only
  split
  · trivial
  · split
    · trivial
    · next u e =>
      split
      · trivial
      · simp [needTin_memoryOk h _ _ e]

theorem headUnpark_ok (slot c d) : HeadOk (s.headUnpark slot c d) := by
  unfold State.headUnpark
  dsimp only
  split
  · trivial
  · split
    · trivial
    · exact headAlloc_ok h _ _ _ _ _ _ fun t c ht => by simp [ht]

theorem headCcopy_ok (slot c) : HeadOk (s.headCcopy slot c) := by simp [State.headCcopy, h]

theorem headCgath_ok (slot c d n) : HeadOk (s.headCgath slot c d n) :=
  withCheck_ok _ (headAlloc_ok h _ _ _ _ _ _ fun _ _ ht => ht)

theorem headCscat_ok (slot c) : HeadOk (s.headCscat slot c) := by
  refine withCheck_ok _ (withCheck_ok _ ?_)
  split
  · trivial
  · exact withCheck_ok _ h

theorem headBtnext_ok (slot c d k) : HeadOk (s.headBtnext slot c d k) := partHead_ok _ fun r => by simpa using h

theorem copyHead_ok (slot c) : HeadOk (s.copyHead slot c) := by
  unfold State.copyHead
  split
  · trivial
  · split
    case h_1 | h_2 | h_3 => exact headFetch_ok h _ _ _ _ _ _ _ _
    · exact headRefill_ok h _ _
    · exact headAlloc_ok h _ _ _ _ _ _ fun _ _ ht => ht
    · exact headTstore_ok h _ _
    · exact headTcon_ok h _ _
    · exact headTrel_ok h _ _
    · exact headTadj_ok h _ _
    · exact headTsettle_ok h _ _ _
    · exact headTquery_ok h _ _ _ _
    · exact headPark_ok h _ _ _
    · exact headUnpark_ok h _ _ _
    · exact headCcopy_ok h _ _
    · exact headCgath_ok h _ _ _ _
    · exact headCscat_ok h _ _
    · exact headBtnext_ok h _ _ _ _
    · exact headDpost_ok h _ _
    · exact headDcal_ok h _ _ _
    · exact headDrun_ok h _ _
    · exact headDstat_ok h _ _ _ _
    · exact headFred_ok h _ _
    · exact h

end

section

variable {s : State} (h : MemoryOk s)
include h

/-! ### Lines of a copy -/

omit h in
theorem partMoved_ok {α : Type} (p : Machine.Part α) {f : α → Moved} (hf : ∀ v, p = .ok v → MovedOk (f v)) :
    MovedOk (p.moved f) := by
  cases p <;> simp [Part.moved, hf]

omit h in
theorem readLine_ok (hd l) {f : BitVec 1024 → Moved} (hf : ∀ v, MovedOk (f v)) : MovedOk (s.readLine hd l f) := by
  simp [State.readLine, hf]

theorem moveFetch_ok (slot c tr r0 c0 u) : MovedOk (s.moveFetch slot c tr r0 c0 u) :=
  partMoved_ok _ fun v _ => by simpa using h

theorem storeCell_memoryOk (e bs) : MemoryOk (s.storeCell e bs) := setHomes_memoryOk h _

theorem storeCells_memoryOk (asid es t) (e : s.storeCells asid es = .ok t) : MemoryOk t := by
  unfold State.storeCells Machine.Part.bind at e
  split at e <;> cases e
  exact foldl_memoryOk (fun _ _ ht => storeCell_memoryOk ht _ _) _ h

theorem copyWrite_memoryOk (asid va v t) (e : s.copyWrite asid va v = .ok t) : MemoryOk t := by
  unfold State.copyWrite at e
  split at e <;> cases e
  exact setHomes_memoryOk (by simpa using h) _

theorem moveTstore_ok (slot c) : MovedOk (s.moveTstore slot c) :=
  readLine_ok _ _ fun line => partMoved_ok _ fun t e => by simpa using storeCells_memoryOk h _ _ _ e

theorem wrTileLine_memoryOk (pa l v) : MemoryOk (s.wrTileLine pa l v) := wrPhys_memoryOk h _ _ _

theorem movePark_ok (slot c) : MovedOk (s.movePark slot c) :=
  readLine_ok _ _ fun line => partMoved_ok _ fun _ _ => by simpa using wrTileLine_memoryOk h _ _ _

theorem moveUnpark_ok (slot c) : MovedOk (s.moveUnpark slot c) := partMoved_ok _ fun _ _ => by simpa using h

theorem moveCcopy_ok (slot c) : MovedOk (s.moveCcopy slot c) :=
  partMoved_ok _ fun ds _ => partMoved_ok _ fun bs _ => by simpa using h

theorem moveCgath_ok (slot c m) : MovedOk (s.moveCgath slot c m) :=
  partMoved_ok _ fun row _ => partMoved_ok _ fun bs _ => by simpa using h

theorem moveCscat_ok (slot c m) : MovedOk (s.moveCscat slot c m) := by
  refine partMoved_ok _ fun row _ => ?_
  dsimp only
  split
  · simpa using h
  · split
    · simpa using h
    · exact readLine_ok _ _ fun line => partMoved_ok _ fun t e => by simpa using copyWrite_memoryOk h _ _ _ _ e

theorem moveNext_ok (slot c) : MovedOk (s.moveNext slot c) := by
  unfold State.moveNext
  split
  case h_1 | h_2 | h_3 | h_4 => exact moveFetch_ok h _ _ _ _ _ _
  · exact moveTstore_ok h _ _
  · exact movePark_ok h _ _
  · exact moveUnpark_ok h _ _
  · exact moveCcopy_ok h _ _
  · exact moveCgath_ok h _ _ _
  · exact moveCscat_ok h _ _ _
  · trivial

theorem landNext_ok (core l) : OutOk (s.landNext core l) := by
  induction l generalizing s with
  | nil => exact h
  | cons n r ih =>
    unfold State.landNext
    split
    · exact ih h
    · next c _ =>
      have moved := moveNext_ok h n c
      split
      · simp_all
      · simpa using h
      · exact ih h
      · exact ih (by simpa using h)
      · trivial

/-! ### The heads of the matrix and vector queues -/

theorem startMatrix_ok (slot c) : HeadOk (s.startMatrix slot c) := h

theorem reserveTile_memoryOk (slot w) : ∀ x ∈ s.reserveTile slot w, MemoryOk x.1 := by
  intro x e
  unfold State.reserveTile at e
  split at e <;> cases e
  simpa using h

theorem reserveAll_memoryOk (slot hs) : ∀ t ∈ s.reserveAll slot hs, MemoryOk t := by
  induction hs generalizing s with
  | nil => simp [State.reserveAll, h]
  | cons w r ih =>
    unfold State.reserveAll
    split
    · simp
    · next t ch e => exact ih (by simpa using reserveTile_memoryOk h _ _ _ e)

theorem headProduct_ok (slot c bad hs cbs) : HeadOk (s.headProduct slot c bad hs cbs) := by
  unfold State.headProduct
  split
  · trivial
  · split
    · trivial
    · split
      · trivial
      · split
        · trivial
        · next t e => exact startMatrix_ok (reserveAll_memoryOk h _ _ _ e) _ _

theorem headMmul_ok (slot c n) : HeadOk (s.headMmul slot c n) := by
  unfold State.headMmul
  exact headProduct_ok h _ _ _ _ _

theorem headMmulc_ok (slot c d e) : HeadOk (s.headMmulc slot c d e) := by
  unfold State.headMmulc
  exact headProduct_ok h _ _ _ _ _

theorem headMrot_ok (slot c d e) : HeadOk (s.headMrot slot c d e) := by
  unfold State.headMrot
  exact headProduct_ok h _ _ _ _ _

theorem headPlain_ok (slot c hs bads) : HeadOk (s.headPlain slot c hs bads) := by
  unfold State.headPlain
  split
  · trivial
  · exact startMatrix_ok h _ _

theorem matrixHead_ok (slot c) : HeadOk (s.matrixHead slot c) := by
  unfold State.matrixHead
  dsimp only
  split
  · exact h
  · split
    case h_1 => exact headMmul_ok h _ _ _
    case h_2 => exact headMmulc_ok h _ _ _ _
    case h_3 => exact headMrot_ok h _ _ _ _
    case h_4 => simp [h]
    case h_11 => exact h
    all_goals exact headPlain_ok h _ _ _ _

theorem headTile_ok (slot c cons) : HeadOk (s.headTile slot c cons) := by
  unfold State.headTile
  dsimp only
  split
  · exact h
  · split
    · trivial
    · split
      · split <;> simp [h]
      · exact h

theorem vectorHead_ok (slot c) : HeadOk (s.vectorHead slot c) := by
  have depth (ok : Bool) : HeadOk (match (s.slotAt slot).depthBad ok with
      | some b => .bad b
      | none => .runs s c) := by
    split <;> simp [h]
  unfold State.vectorHead
  dsimp only
  split
  case h_1 | h_2 | h_3 => exact headTile_ok h _ _ _
  case h_4 | h_5 | h_6 => exact depth _
  · exact h

theorem headOf_ok (e slot c) : HeadOk (s.headOf e slot c) := by
  cases e
  · exact copyHead_ok h _ _
  · exact matrixHead_ok h _ _
  · exact vectorHead_ok h _ _

/-! ### Starting and finishing commands -/

theorem startHead_ok (e slot c) : OutOk (s.startHead e slot c) := by
  have head := headOf_ok h e slot c
  unfold State.startHead
  split <;> simp_all

theorem arbitrate_memoryOk (core i slots) : ∀ x ∈ s.arbitrate core i slots, MemoryOk x.1 := by
  intro x e
  unfold State.arbitrate at e
  dsimp only at e
  split at e <;> cases e
  simpa using h

theorem execCommandStart_ok (core e) : OutOk (execCommandStart core e s) := by
  unfold execCommandStart
  dsimp only
  split
  · simpa using h
  · next u n eq =>
    have hu := arbitrate_memoryOk (by simpa using h) _ _ _ _ eq
    split
    · exact hu
    · exact startHead_ok hu _ _ _

theorem wrWords_memoryOk (pa l) : MemoryOk (s.wrWords pa l) := by
  induction l generalizing s pa with
  | nil => exact h
  | cons w r ih => exact ih (wrPhys_memoryOk h _ _ _) _

theorem wrTileState_memoryOk (pa t old) : MemoryOk (s.wrTileState pa t old) :=
  wrWords_memoryOk (wrPhys_memoryOk (wrWords_memoryOk h _ _) _ _ _) _ _

theorem copyEnd_memoryOk (slot c) : MemoryOk (s.copyEnd slot c) := by
  unfold State.copyEnd
  dsimp only
  split <;> simp [wrTileState_memoryOk, h]

theorem matrixCompute_memoryOk (slot c) : MemoryOk (s.matrixCompute slot c) := by
  unfold State.matrixCompute
  dsimp only
  split <;> simpa using h

theorem matrixOutput_memoryOk (slot c) : MemoryOk (s.matrixOutput slot c) := by
  unfold State.matrixOutput
  dsimp only
  split <;> simp [h]

theorem matrixRun_memoryOk (slot c) : ∀ t ∈ s.matrixRun slot c, MemoryOk t := by
  simp [State.matrixRun, matrixOutput_memoryOk, matrixCompute_memoryOk, h]

theorem vectorRun_memoryOk (slot c) : ∀ t ∈ s.vectorRun slot c, MemoryOk t := by
  intro t e
  unfold State.vectorRun at e
  dsimp only at e
  repeat' split at e
  all_goals cases e
  all_goals simpa using h

theorem endOf_memoryOk (e slot c) : ∀ t ∈ s.endOf e slot c, MemoryOk t := by
  cases e
  · simp [State.endOf, copyEnd_memoryOk, h]
  · exact matrixRun_memoryOk h _ _
  · exact vectorRun_memoryOk h _ _

theorem finishHead_memoryOk (e slot) : ∀ t ∈ s.finishHead e slot, MemoryOk t := by
  unfold State.finishHead
  split
  · simp
  · next c _ _ =>
    intro t eq
    repeat' split at eq
    · cases eq
    · cases eq
      simpa using h
    · cases eq
    · obtain ⟨u, hu, rfl⟩ := Option.map_eq_some_iff.1 eq
      simpa using endOf_memoryOk h _ _ _ _ hu

theorem execCommandFinish_ok (core e) : OutOk (execCommandFinish core e s) := by
  unfold execCommandFinish
  split
  · next t eq =>
    obtain ⟨n, -, hn⟩ := List.exists_of_findSome?_eq_some eq
    exact finishHead_memoryOk h _ _ _ hn
  · exact h

theorem execLineLand_ok (core) : OutOk (execLineLand core s) := landNext_ok h _ _

theorem performNext_memoryOk (slot before l) : ∀ t ∈ s.performNext slot before l, MemoryOk t := by
  induction l generalizing before with
  | nil => simp [State.performNext]
  | cons c r ih =>
    unfold State.performNext
    split
    · simpa using performLine_memoryOk h slot c
    · exact ih _

theorem execLinePerformed_ok (slot) : OutOk (execLinePerformed slot s) := by
  unfold execLinePerformed
  split
  · next t e => exact performNext_memoryOk h _ _ _ _ e
  · split
    · simp [performLine_memoryOk, h]
    · exact h

theorem execTileFree_ok (core idx) : OutOk (execTileFree core idx s) := by simp [execTileFree, h]

end

section

variable {s : State} (h : MemoryOk s)
include h

/-! ### Dealing and starting tasks -/

theorem finishEmpty_memoryOk : MemoryOk s.finishEmpty := by
  refine foldl_memoryOk (fun t e ht => ?_) _ h
  simp [finishJob_memoryOk, ht]

theorem execDealChunk_ok (die) : OutOk (execDealChunk die s) := by
  have filled : MemoryOk (s.finishEmpty.fillChunks die) := by simp [finishEmpty_memoryOk, h]
  unfold execDealChunk
  generalize s.finishEmpty.fillChunks die = t at filled
  dsimp only
  split
  · split
    · simpa using filled
    · split
      · exact filled
      · exact failJob_memoryOk filled _ _ _
      · simpa using filled
  · exact filled

theorem readArgs_memoryOk (slot x) (e : s.readArgs slot = .ok x) : MemoryOk x.1 := by
  unfold State.readArgs at e
  dsimp only at e
  split at e <;> cases e
  exact touchAll_memoryOk (by simpa using h) _ _

theorem execTaskStart_ok (slot) : OutOk (execTaskStart slot s) := by
  unfold execTaskStart
  dsimp only
  split
  · exact h
  · split
    · exact killTask_memoryOk h _ _ _
    · simpa using h
    · trivial
    · next t bs e => simpa using readArgs_memoryOk h _ _ e

theorem execClosingEnd_ok (slot) : OutOk (execClosingEnd slot s) := by
  simp [execClosingEnd, endTask_memoryOk, h]

/-! ### Saving tasks -/

theorem takeAreas_memoryOk (set l) : ∀ x ∈ s.takeAreas set l, MemoryOk x.1 := by
  induction l generalizing s with
  | nil => simp [State.takeAreas, h]
  | cons n r ih =>
    intro x e
    unfold State.takeAreas at e
    dsimp only at e
    repeat' split at e
    all_goals cases e
    next pop _ v l rest => exact ih (popPool_memoryOk h _ _ pop) (v, l) rest

theorem getD_finishHead_memoryOk (e slot) : MemoryOk ((s.finishHead e slot).getD s) := by
  have fin := finishHead_memoryOk h e slot
  cases hf : s.finishHead e slot with
  | none => exact h
  | some t => exact fin t hf

theorem quiesceCopy_memoryOk (slot) : MemoryOk (s.quiesceCopy slot) := getD_finishHead_memoryOk h .copy slot

theorem quiesceVector_memoryOk (slot) : MemoryOk (s.quiesceVector slot) := getD_finishHead_memoryOk h .vector slot

theorem quiesceMatrix_memoryOk (slot n) : MemoryOk (s.quiesceMatrix slot n) := by
  induction n generalizing s with
  | zero => exact h
  | succ n ih =>
    unfold State.quiesceMatrix
    split
    · exact h
    · next c _ _ =>
      split
      · split
        · next t e => exact ih (finishHead_memoryOk h _ _ _ e)
        · exact h
      · split
        · have head := matrixHead_ok h slot c
          split
          · next t d e => exact ih (by simpa [e] using head)
          · exact h
        · exact h

theorem quiesce_memoryOk (slot) : MemoryOk (s.quiesce slot) := by
  have stopped := quiesceVector_memoryOk (quiesceMatrix_memoryOk (quiesceCopy_memoryOk h slot) slot 200) slot
  simpa [State.quiesce] using stopped

theorem writeMember_memoryOk (set y slot area rest) : MemoryOk (s.writeMember set y slot area rest) := by
  simp [State.writeMember, writeArea_memoryOk, writeBackWhere_memoryOk, h]

theorem writeMembers_memoryOk (set y ns as) : MemoryOk (s.writeMembers set y ns as) := by
  induction ns generalizing s as with
  | nil => exact h
  | cons n ns ih =>
    cases as with
    | nil => exact h
    | cons a as =>
      unfold State.writeMembers
      exact ih (writeMember_memoryOk h _ _ _ _ _) _

theorem saveSet_memoryOk (slot y) : ∀ t ∈ s.saveSet slot y, MemoryOk t := by
  intro t e
  unfold State.saveSet at e
  dsimp only at e
  split at e
  · cases e
  · next u areas taken =>
    cases e
    simp only [memoryOk_foldl, memoryOk_leaveSlot, memoryOk_leaveTiles, implies_true]
    exact writeMembers_memoryOk
      (foldl_memoryOk (fun _ _ ht => quiesce_memoryOk ht _) _ (takeAreas_memoryOk h _ _ _ taken)) _ _ _ _

theorem getD_saveSet_memoryOk (slot y) {d : State} (hd : MemoryOk d) : MemoryOk ((s.saveSet slot y).getD d) := by
  have saved := saveSet_memoryOk h slot y
  cases hs : s.saveSet slot y with
  | none => exact hd
  | some t => exact saved t hs

theorem beforeSave_memoryOk (slot n) : MemoryOk (s.beforeSave slot n) := by
  induction n generalizing s with
  | zero => exact h
  | succ n ih =>
    unfold State.beforeSave
    split
    · exact h
    · split
      · exact ih (takeFault_memoryOk (by simpa using h) _ _ _)
      · exact h

theorem boundaries_memoryOk (slot) : MemoryOk (s.boundaries slot) :=
  foldl_memoryOk (fun _ _ ht => beforeSave_memoryOk ht _ _) _ h

theorem preemptNow_memoryOk (slot) : MemoryOk (s.preemptNow slot) := by
  have bound := boundaries_memoryOk h slot
  unfold State.preemptNow
  dsimp only
  split
  · exact bound
  · exact getD_saveSet_memoryOk bound _ _ (by simpa using bound)

theorem breakTask_memoryOk (slot) : MemoryOk (s.breakTask slot) :=
  getD_saveSet_memoryOk h _ _ (killTask_memoryOk h _ _ _)

theorem execPreemptTimeout_ok (slot) : OutOk (execPreemptTimeout slot s) := by
  unfold execPreemptTimeout
  split
  · simp [preemptNow_memoryOk, h]
  · exact h

theorem execPreempt_ok (a b) : OutOk (execPreempt a b s) := by
  simp [execPreempt, preemptNow_memoryOk, h]

theorem execFaultDeliver_ok (slot) : OutOk (execFaultDeliver slot s) := by
  unfold execFaultDeliver
  dsimp only
  split
  · exact h
  · simp [takeFault_memoryOk, preemptNow_memoryOk, breakTask_memoryOk, h]

theorem buddySave_memoryOk (slot y) : MemoryOk (s.buddySave slot y) := by
  unfold State.buddySave
  split
  · exact h
  · next t areas e =>
    have flushed : MemoryOk (t.writeBackWhere slot fun _ => true) :=
      writeBackWhere_memoryOk (takeAreas_memoryOk h _ _ _ e) _ _
    exact (memoryOk_send _ _).2 (pushPool_memoryOk (writeArea_memoryOk flushed _ _ _) _ _)

theorem offerSave_memoryOk (slot y) : MemoryOk (s.offerSave slot y) := by
  unfold State.offerSave
  dsimp only
  split
  · exact h
  · next u e => simpa using saveSet_memoryOk h _ _ _ e

/-! ### Restoring tasks -/

theorem restoreTiles_memoryOk (slot v rs olds m) : ∀ x ∈ s.restoreTiles slot v rs olds m, MemoryOk x.1 := by
  induction rs generalizing s olds m with
  | nil => simp [State.restoreTiles, h]
  | cons r rs ih =>
    unfold State.restoreTiles
    split
    · simp
    · exact ih (by simpa using h) _ _

theorem restoreAllTiles_memoryOk (l m) : ∀ x ∈ s.restoreAllTiles l m, MemoryOk x.1 := by
  induction l generalizing s m with
  | nil => simp [State.restoreAllTiles, h]
  | cons e r ih =>
    unfold State.restoreAllTiles
    dsimp only
    split
    · simp
    · next t m e => exact ih (restoreTiles_memoryOk h _ _ _ _ _ _ e) _

theorem startRefill_memoryOk (slot hd) : MemoryOk (s.startRefill slot hd) := by
  unfold State.startRefill
  split
  · exact h
  · split
    · exact h
    · next t td e => simp [descFor_memoryOk h _ _ _ e, h]

theorem startRefills_memoryOk (slot) : MemoryOk (s.startRefills slot) := by
  refine foldl_memoryOk (fun t e ht => ?_) _ h
  simp [startRefill_memoryOk, ht]

theorem restoreMember_memoryOk (m area slot) : MemoryOk (s.restoreMember m area slot) := by
  simp [State.restoreMember, pushPool_memoryOk, startRefills_memoryOk, h]

theorem restoreSet_memoryOk (w slots) : ∀ t ∈ s.restoreSet w slots, MemoryOk t := by
  intro t e
  unfold State.restoreSet at e
  dsimp only at e
  split at e
  · cases e
  · next u m tiles =>
    cases e
    exact foldl_memoryOk (fun _ _ ht => restoreMember_memoryOk ht _ _ _) _
      (restoreAllTiles_memoryOk (by simpa using h) _ _ _ tiles)

theorem kernelOf_memoryOk (w t) (e : s.kernelOf w = some (.ok t)) : MemoryOk t := by
  unfold State.kernelOf at e
  dsimp only at e
  repeat' split at e
  all_goals cases e
  · exact h
  · simpa using h

theorem execRestore_ok (die) : OutOk (execRestore die s) := by
  unfold execRestore
  split
  · next w slots _ =>
    split
    · exact h
    · exact failJob_memoryOk h _ _ _
    · next t e =>
      have restored := restoreSet_memoryOk (kernelOf_memoryOk h _ _ e) w slots
      cases hr : t.restoreSet w slots with
      | none => exact h
      | some u => exact restored u hr
  · exact h

theorem execResume_ok (a b) : OutOk (execResume a b s) := by
  unfold execResume
  split <;> simp [h]

theorem execPushsave_ok (a b) : OutOk (execPushsave a b s) := by
  simp [execPushsave, pushPool_memoryOk, h]

/-! ### Dropping saved tasks -/

theorem settleRecord_memoryOk (r pair charges) : MemoryOk (s.settleRecord r pair charges) := by
  unfold State.settleRecord
  extract_lets old t
  have shares : MemoryOk t := foldl_memoryOk (fun _ _ hu => wrPhys_memoryOk (wrPhys_memoryOk hu _ _ _) _ _ _) _ h
  split
  · exact shares
  · exact wrPhys_memoryOk shares _ _ _

theorem unchain_memoryOk (set area) : MemoryOk (s.unchain set area) := by
  have relinked : MemoryOk (set.foldl (fun t a =>
      if t.areaW a 0x38 = area then t.wrPhys (a + 0x38) 8 (s.areaW area 0x38) else t) s) := by
    refine foldl_memoryOk (fun t a ht => ?_) _ h
    simp [wrPhys_memoryOk, ht]
  simpa [State.unchain] using relinked

theorem discardSaved_memoryOk (area v) : MemoryOk (s.discardSaved area v) := by
  unfold State.discardSaved
  extract_lets set charges t tin n u k w orphan x
  have settled : MemoryOk t :=
    foldl_memoryOk (fun _ _ ht => foldl_memoryOk (fun _ _ hu => settleRecord_memoryOk hu _ _ _) _ ht) _ h
  have unchained : MemoryOk k := (memoryOk_updSlot _ _ _).2 (unchain_memoryOk settled _ _)
  have ended : MemoryOk w := (memoryOk_updSlot _ _ _).2 (endSync_memoryOk (releaseTin_memoryOk unchained _) _)
  have orphaned : MemoryOk x := ended.congr rfl rfl rfl
  exact pushPool_memoryOk orphaned _ _

theorem execDrop_ok (a b) : OutOk (execDrop a b s) := by
  unfold execDrop
  split
  · simpa using h
  · exact (memoryOk_mbDone _ _).2 (jobCheck_memoryOk (failJob_memoryOk (discardSaved_memoryOk h _ _) _ _ _) _)

/-! ### YIELD -/

theorem yieldPending_ok (hd y) : BodyOk (s.yieldPending hd y) := by
  unfold State.yieldPending
  extract_lets n k v b u
  have before : MemoryOk b := by
    refine foldl_memoryOk (fun t m ht => ?_) _ h
    simp [beforeSave_memoryOk, ht]
  have retiredNow : MemoryOk v := (memoryOk_retire _ _).2 h
  have retired : MemoryOk u := (memoryOk_retire _ _).2 before
  clear_value v b u
  split
  · split
    · simpa using h
    · exact getD_saveSet_memoryOk retiredNow _ _ ((memoryOk_preFull _ _).2 retiredNow)
  · split
    · exact before
    · exact getD_saveSet_memoryOk retired _ _ ((memoryOk_preFull _ _).2 retired)

theorem yieldFree_ok (hd y) : BodyOk (s.yieldFree hd y) := by
  simp [State.yieldFree, offerSave_memoryOk, buddySave_memoryOk, h]

theorem execYield_ok (hd dropt keep) : OutOk (execYield hd dropt keep s) := by
  apply issueSeq_ok h
  dsimp only
  split
  · trivial
  · split
    · exact yieldPending_ok h _ _
    · exact yieldFree_ok h _ _

end

section

variable {s : State} (h : MemoryOk s)
include h

/-! ### Registers of the sequencers -/

theorem execSysrd_ok (hd d idx) : OutOk (execSysrd hd d idx s) := by
  unfold execSysrd
  split
  · exact issueFault_memoryOk h _ _ _
  · apply issueSeq_ok h
    split <;> simp [h]

theorem sysPut_memoryOk (idx v) : ∀ t ∈ s.sysPut idx v, MemoryOk t := by
  intro t e
  unfold State.sysPut at e
  dsimp only at e
  repeat' split at e
  all_goals cases e
  all_goals simpa using h

theorem execSyswr_ok (hd a idx) : OutOk (execSyswr hd a idx s) := by
  unfold execSyswr
  split
  · exact issueFault_memoryOk h _ _ _
  · apply issueSeq_ok h
    split
    · trivial
    · next u e => exact sysPut_memoryOk h _ _ _ e

/-! ### Job queues -/

theorem changeQueue_memoryOk (n f) : MemoryOk (s.changeQueue n f) := showQueue_memoryOk (by simpa using h) _

theorem haltQueue_memoryOk (n status seq) : MemoryOk (s.haltQueue n status seq) := changeQueue_memoryOk h _ _

theorem deny_memoryOk (n) : MemoryOk (s.deny n) := changeQueue_memoryOk h _ _

theorem consume_memoryOk (n size seq j) : MemoryOk (s.consume n size seq j) := by
  unfold State.consume
  exact finishEmpty_memoryOk ((memoryOk_addJob _ _).2 (changeQueue_memoryOk h _ _))

theorem readEntry_memoryOk (n e) : MemoryOk (s.readEntry n e) := by
  unfold State.readEntry
  dsimp only
  split
  · exact haltQueue_memoryOk h _ _ _
  · split
    · exact h
    · split
      · exact h
      · split
        · exact haltQueue_memoryOk h _ _ _
        · exact consume_memoryOk h _ _ _ _

theorem doorbell_memoryOk (n v) : MemoryOk (s.doorbell n v) := by
  simp [State.doorbell, haltQueue_memoryOk, h]

theorem setEnable_memoryOk (n on) : MemoryOk (s.setEnable n on) := changeQueue_memoryOk h _ _

theorem resetQueue_memoryOk (n) : MemoryOk (s.resetQueue n) := by
  simp [State.resetQueue, changeQueue_memoryOk, h]

theorem writeRecord_memoryOk (n r rest) : MemoryOk (s.writeRecord n r rest) := by
  unfold State.writeRecord
  extract_lets q dev i t u v
  have written : MemoryOk v := changeQueue_memoryOk (wrVirt_memoryOk (wrVirt_memoryOk h _ _ _) _ _ _) _ _
  split
  · exact written
  · exact wrVirt_memoryOk written _ _ _

theorem appendEntry_memoryOk (n e j ws) : MemoryOk (s.appendEntry n e j ws) := by
  unfold State.appendEntry
  exact consume_memoryOk ((memoryOk_updQueue _ _ _).2 (wrRing_memoryOk h _ _ _)) _ _ _ _

theorem execEntryRead_ok (n) : OutOk (execEntryRead n s) := by
  unfold execEntryRead
  dsimp only
  split
  · exact h
  · split
    · exact h
    · simp [haltQueue_memoryOk, readEntry_memoryOk, h]

theorem execWrite_ok (n v) : OutOk (execWrite n v s) := by simp [execWrite, doorbell_memoryOk, h]
theorem execEnable_ok (n on) : OutOk (execEnable n on s) := by simp [execEnable, setEnable_memoryOk, h]
theorem execReset_ok (n) : OutOk (execReset n s) := by simp [execReset, resetQueue_memoryOk, h]
theorem execCread_ok (n v) : OutOk (execCread n v s) := by simp [execCread, h]

theorem execCompletionRecord_ok (n) : OutOk (execCompletionRecord n s) := by
  unfold execCompletionRecord
  split
  · exact h
  · simp [writeRecord_memoryOk, h]

theorem execLaunchPacket_ok (n pkg ten entry) : OutOk (execLaunchPacket n pkg ten entry s) := by
  unfold execLaunchPacket
  dsimp only
  split
  · simp [deny_memoryOk, h]
  · split
    · exact h
    · split
      · exact haltQueue_memoryOk h _ _ _
      · exact appendEntry_memoryOk h _ _ _ _

theorem postImage_ok (d n x ws) : BodyOk (s.postImage d n x ws) := by
  unfold State.postImage
  dsimp only
  split
  · trivial
  · simp [deny_memoryOk, appendEntry_memoryOk, h]

theorem execJpost_ok (hd d a b) : OutOk (execJpost hd d a b s) := by
  have released := releaseCache_memoryOk h s.cur.slot 5 false
  apply issueSeq_ok h
  dsimp only
  generalize s.releaseCache s.cur.slot 5 false = t at released
  split
  · trivial
  · split
    · exact h
    · split
      · trivial
      · simpa using released
      · trivial
      · split
        · trivial
        · simpa using released
        · trivial
        · exact postImage_ok (by simpa using released) _ _ _ _

theorem execJwait_ok (hd d a b) : OutOk (execJwait hd d a b s) := by
  apply issueSeq_ok h
  split
  · exact h
  · simp [acquireCache_memoryOk, h]

/-! ### Registers of the package -/

theorem mailInv_memoryOk (a b force) : MemoryOk (s.mailInv a b force) := by
  unfold State.mailInv
  split
  · simpa using h
  · split
    · exact h
    · next t st e => simpa using xinv_memoryOk h _ _ _ e

theorem mailPin_memoryOk (a b) {f : State → Nat → Nat → Nat → State × Nat}
    (hf : ∀ asid sh va, MemoryOk (f s asid sh va).1) :
    MemoryOk (s.mailPin a b f) := by
  simp [State.mailPin, hf, h]

theorem writeQcfg_memoryOk (n v) : MemoryOk (s.writeQcfg n v) := by
  simp [State.writeQcfg, resetQueue_memoryOk, setEnable_memoryOk, h]

theorem writeQueue_memoryOk (n off v) : MemoryOk (s.writeQueue n off v) := by
  unfold State.writeQueue
  dsimp only
  split <;> simp [writeQcfg_memoryOk, doorbell_memoryOk, h]

theorem writeReg_memoryOk (off v) : MemoryOk (s.writeReg off v) := by
  unfold State.writeReg
  split <;> simp [writeQueue_memoryOk, h]

theorem execApertureAccess_ok (wr off v) : OutOk (execApertureAccess wr off v s) := by
  simp [execApertureAccess, aperturePut_memoryOk, h]

theorem execDescinv_ok (a b) : OutOk (execDescinv a b s) := by simp [execDescinv, h]
theorem execHold_ok (a b) : OutOk (execHold a b s) := by simp [execHold, h]
theorem execRelease_ok (a b) : OutOk (execRelease a b s) := by simp [execRelease, h]

/-! ### Capacity -/

theorem execRetreq_ok (core array bank) : OutOk (execRetreq core array bank s) := by simp [execRetreq, h]
theorem execQuota_ok (core k tile acc) : OutOk (execQuota core k tile acc s) := by simp [execQuota, h]
theorem execShrink_ok (core) : OutOk (execShrink core s) := by simp [execShrink, h]

theorem deadlineStop_memoryOk (core slot) : MemoryOk (s.deadlineStop core slot) := by
  simp [State.deadlineStop, stopAndRelaunch_memoryOk, h]

theorem execRetirementDeadline_ok (core) : OutOk (execRetirementDeadline core s) := by
  unfold execRetirementDeadline
  dsimp only
  split
  · exact h
  · refine (memoryOk_endStanding _ _).2 ((memoryOk_settleOrphans _ _).2 ?_)
    exact foldl_memoryOk (fun _ _ ht => deadlineStop_memoryOk ht _ _) _ (by simpa using h)

theorem startMove_memoryOk (core) {done : State → State} (hd : MemoryOk (done s)) :
    MemoryOk (s.startMove core done) := by
  unfold State.startMove
  split
  · exact hd
  · simp [h]

theorem execRelocate_ok (core) : OutOk (execRelocate core s) := by
  have standing := (memoryOk_tryStanding s core).2 h
  unfold execRelocate
  generalize s.tryStanding core = t at standing
  dsimp only
  split
  · exact standing
  · split
    · simpa using standing
    · exact startMove_memoryOk standing _ (by simpa using standing)

theorem execReInterleave_ok (core) : OutOk (execReInterleave core s) := by
  unfold execReInterleave
  dsimp only
  split
  · exact h
  · split
    · simpa using h
    · exact startMove_memoryOk h _ (by simpa using h)

theorem execClose_ok (core) : OutOk (execClose core s) := by simp [execClose, h]

theorem autoPreempt_memoryOk (slot) : ∀ t ∈ s.autoPreempt slot, MemoryOk t := by
  have bound := boundaries_memoryOk h slot
  unfold State.autoPreempt
  generalize s.boundaries slot = b at bound
  dsimp only
  split
  · simpa using h
  · split
    · simpa using bound
    · split
      · simp
      · split
        · simpa using stopAndRelaunch_memoryOk bound _ _
        · next u e => simpa using saveSet_memoryOk bound _ _ _ e

theorem emptyCache_memoryOk (core) : MemoryOk (s.emptyCache core) :=
  foldl_memoryOk (fun _ _ ht => invalidate_memoryOk ht _ _) _ h

theorem retireBank_memoryOk (core array bank) : ∀ t ∈ s.retireBank core array bank, MemoryOk t := by
  unfold State.retireBank
  dsimp only
  split
  · simp [h]
  · simp [h]
  · intro t e
    obtain ⟨u, hu, rfl⟩ := Option.map_eq_some_iff.1 e
    simpa using autoPreempt_memoryOk (by simpa using h) _ _ hu
  · simp [emptyCache_memoryOk, h]
  · simp [h]
  · simp [h]

theorem execBankRetirement_ok (core) : OutOk (execBankRetirement core s) := by
  have retired := retireBank_memoryOk h core (s.coreAt core).ret.array (s.coreAt core).ret.bank
  unfold execBankRetirement
  dsimp only
  split
  · cases hr : s.retireBank core (s.coreAt core).ret.array (s.coreAt core).ret.bank with
    | none => exact h
    | some t => exact retired t hr
  · simpa using h

theorem execSyncWordMove_ok (die) : OutOk (execSyncWordMove die s) := by simp [execSyncWordMove, h]

end

section

variable {s : State} (h : MemoryOk s)
include h

/-! ### Memory errors -/

theorem replay_memoryOk (slot c) : MemoryOk (s.replay slot c) :=
  foldl_memoryOk (fun _ _ ht => matrixCompute_memoryOk ht _ _) _ (by simpa using h)

theorem matrixError_memoryOk (slot c hit again) : MemoryOk (s.matrixError slot c hit again).1 := by
  unfold State.matrixError
  split <;> simp [replay_memoryOk, h]

theorem execReplay_ok (core slot array bank addr syndrome again) :
    OutOk (execReplay core slot array bank addr syndrome again s) := by
  unfold execReplay
  split
  · exact h
  · simp [matrixError_memoryOk, h]

theorem errorPath_memoryOk (core array bank two x) : MemoryOk (s.errorPath core array bank two x) := by
  unfold State.errorPath
  split <;> simp [matrixError_memoryOk, h]

theorem execErrInject_ok (core array bank addr syndrome) : OutOk (execErrInject core array bank addr syndrome s) := by
  unfold execErrInject
  dsimp only
  split
  · exact h
  · split
    · exact h
    · split <;> simp [errorPath_memoryOk, h]

theorem execQuarantineRelease_ok (a b) : OutOk (execQuarantineRelease a b s) := by simp [execQuarantineRelease, h]

theorem execKnownAnswerService_ok (core pass) : OutOk (execKnownAnswerService core pass s) := by
  simp [execKnownAnswerService, h]

/-! ### Links -/

theorem failReds_memoryOk (p) : MemoryOk (s.failReds p) := by
  refine foldl_memoryOk (fun t e ht => ?_) _ h
  split
  · simp [endRed_memoryOk, ht]
  · exact ht

theorem planeDown_memoryOk (k) : MemoryOk (s.planeDown k) := failReds_memoryOk (by simpa using h) _

theorem showQueues_memoryOk : MemoryOk s.showQueues := by
  refine foldl_memoryOk (fun t e ht => ?_) _ h
  simp [showQueue_memoryOk, ht]

theorem degrade_memoryOk (k) : MemoryOk (s.degrade k) := by simp [State.degrade, planeDown_memoryOk, h]

theorem replayLink_memoryOk (k) : MemoryOk (s.replayLink k) := by simp [State.replayLink, degrade_memoryOk, h]

theorem execLinkFailure_ok (k n) : OutOk (execLinkFailure k n s) := by cases k <;> simp [execLinkFailure, h]

theorem execLinkTimeout_ok (k n) : OutOk (execLinkTimeout k n s) := by
  cases k
  · simp [execLinkTimeout, h]
  · simp [execLinkTimeout, h]
  · unfold execLinkTimeout
    dsimp only
    split <;> simp [planeDown_memoryOk, h]

theorem execLinkRecovery_ok (k n) : OutOk (execLinkRecovery k n s) := by
  cases k <;> simp [execLinkRecovery, showQueues_memoryOk, h]

theorem execFlitReceive_ok (link bytes) : OutOk (execFlitReceive link bytes s) := by
  simp [execFlitReceive, replayLink_memoryOk, h]

theorem execRetrainEnd_ok (link) : OutOk (execRetrainEnd link s) := by simp [execRetrainEnd, h]
theorem execRetrainAtRequest_ok (link) : OutOk (execRetrainAtRequest link s) := by simp [execRetrainAtRequest, h]

theorem execHomeMove_ok (asid va) : OutOk (execHomeMove asid va s) := by
  unfold execHomeMove
  dsimp only
  split
  · exact h
  · split
    · exact h
    · simp [movePage_memoryOk, h]

/-! ### The coherence domain -/

theorem repost_memoryOk : MemoryOk s.repost := foldl_memoryOk (fun _ _ ht => sendPosting_memoryOk ht _ _) _ h

theorem takeOver_memoryOk : MemoryOk s.takeOver := by
  unfold State.takeOver
  dsimp only
  refine repost_memoryOk (foldl_memoryOk (fun t e ht => ?_) _ (by simpa using h))
  split
  · exact commitTag_memoryOk ht _ _ _
  · exact ht

theorem followDeath_memoryOk (p) : MemoryOk (s.followDeath p) := by
  simp [State.followDeath, takeOver_memoryOk, repost_memoryOk, h]

theorem recheckTags_memoryOk : MemoryOk s.recheckTags := by
  unfold State.recheckTags
  split
  · exact h
  · refine foldl_memoryOk (fun t e ht => ?_) _ h
    simp [commitTag_memoryOk, tryDecompose_memoryOk, ht]

theorem packageDead_memoryOk (p) : MemoryOk (s.packageDead p) := by
  unfold State.packageDead
  exact recheckTags_memoryOk (followDeath_memoryOk (failReds_memoryOk (by simpa using h) _) _)

theorem execHeartbeat_ok (pkg) : OutOk (execHeartbeat pkg s) := by simp [execHeartbeat, h]
theorem execStandbyTakeover_ok : OutOk (execStandbyTakeover s) := by
  simp [execStandbyTakeover, takeOver_memoryOk, h]
theorem execDeclareDead_ok (pkg) : OutOk (execDeclareDead pkg s) := by
  simp [execDeclareDead, packageDead_memoryOk, h]

theorem execPosting_ok (member tenant tag accept demand) : OutOk (execPosting member tenant tag accept demand s) := by
  simp [execPosting, takePosting_memoryOk, h]

theorem execCalendar_ok (tenant tag phases repost entries) :
    OutOk (execCalendar tenant tag phases repost entries s) := by
  simp [execCalendar, takeCalendar_memoryOk, h]

theorem execCalendarAck_ok (member tenant tag) : OutOk (execCalendarAck member tenant tag s) := by
  simp [execCalendarAck, takeAck_memoryOk, h]

theorem execCommit_ok (tenant tag base) : OutOk (execCommit tenant tag base s) := by
  simp [execCommit, takeCommit_memoryOk, h]

theorem execDrunEntry_ok (tenant tag e data ended) : OutOk (execDrunEntry tenant tag e data ended s) := by
  unfold execDrunEntry
  dsimp only
  split
  · exact h
  · simp [sendEntry_memoryOk, recvEntry_memoryOk, h]

theorem execFredContribution_ok (member red data) : OutOk (execFredContribution member red data s) := by
  simp [execFredContribution, contribute_memoryOk, h]

theorem execReductionDeadline_ok (rid) : OutOk (execReductionDeadline rid s) := by
  unfold execReductionDeadline
  split
  · simp [endRed_memoryOk, h]
  · exact h

theorem performRemote_memoryOk (src num op) : MemoryOk (s.performRemote src num op) := by
  simp [State.performRemote, atomHome_memoryOk, h]

theorem roomFor_ok (src num op) : OutOk (s.roomFor src num op) := by
  simp [State.roomFor, performRemote_memoryOk, h]

theorem execRemoteAtomic_ok (src num op) : OutOk (execRemoteAtomic src num op s) := by
  unfold execRemoteAtomic
  dsimp only
  split
  · exact h
  · split <;> simp [roomFor_ok, h]

theorem execReplyCacheExpiry_ok (src) : OutOk (execReplyCacheExpiry src s) := by
  unfold execReplyCacheExpiry
  dsimp only
  split <;> simp [performRemote_memoryOk, h]

theorem retireAtomic_memoryOk (num r v) : MemoryOk (s.retireAtomic num r v) := by
  simp [State.retireAtomic, acquireCache_memoryOk, h]

theorem unknownAtomic_memoryOk (num r) : MemoryOk (s.unknownAtomic num r) := by
  simp [State.unknownAtomic, takeFault_memoryOk, h]

theorem execAtomicReply_ok (num reply) : OutOk (execAtomicReply num reply s) := by
  unfold execAtomicReply
  dsimp only
  split
  · exact h
  · split
    · exact h
    · split <;> simp [unknownAtomic_memoryOk, retireAtomic_memoryOk, h]

theorem execAtomicRetry_ok (num) : OutOk (execAtomicRetry num s) := by
  unfold execAtomicRetry
  dsimp only
  split <;> simp [unknownAtomic_memoryOk, h]

/-! ### The fleet -/

theorem adoptImage_memoryOk (id b) : ∀ t ∈ s.adoptImage id b, MemoryOk t := by
  unfold State.adoptImage
  dsimp only
  split
  · simp
  · split
    · simp
    · next t area e => simpa using writeArea_memoryOk (popPool_memoryOk h _ _ e) _ _ _

theorem adoptImages_memoryOk (id l) : MemoryOk (s.adoptImages id l).1 := by
  induction l generalizing s with
  | nil => exact h
  | cons b r ih =>
    unfold State.adoptImages
    split
    · next t e => exact ih (adoptImage_memoryOk h _ _ _ e)
    · exact ih h

theorem adoptJob_memoryOk (q b) : MemoryOk (s.adoptJob q b) := by
  unfold State.adoptJob
  dsimp only
  refine jobCheck_memoryOk ((memoryOk_updJob _ _ _).2 (adoptImages_memoryOk ?_ _ _)) _
  simpa using changeQueue_memoryOk h _ _

theorem execAdopt_ok (a b) : OutOk (execAdopt a b s) := by
  unfold execAdopt
  dsimp only
  split
  · simpa using h
  · have adopted : ∀ q (l : List BuddyImg), MemoryOk (l.foldl (fun t b => State.adoptJob t q b) s) :=
      fun q l => foldl_memoryOk (fun _ _ ht => adoptJob_memoryOk ht _ _) l h
    simp [adopted]

theorem execMeasurementExtend_ok (n m) : OutOk (execMeasurementExtend n m s) := by simp [execMeasurementExtend, h]

theorem execSignReport_ok (a b) : OutOk (execSignReport a b s) := by
  unfold execSignReport
  dsimp only
  split
  · simpa using h
  · exact (memoryOk_mbDone _ _).2 (h.withMem (writeBytes_wf _ _ h.1))

theorem execModuleReset_ok : OutOk (execModuleReset s) := by simp [execModuleReset, h]

theorem loadService_memoryOk (b) : MemoryOk (s.loadService b) := by
  unfold State.loadService
  split
  · exact h.withMem (writeBytes_wf _ _ h.1)
  · exact h

theorem execBootStage_ok (ok image) : OutOk (execBootStage ok image s) := by
  unfold execBootStage
  dsimp only
  split <;> simp [loadService_memoryOk, h]

theorem execAwaitTime_ok (slot) : OutOk (execAwaitTime slot s) := by
  unfold execAwaitTime
  dsimp only
  split
  · exact h
  · split
    · split
      · split
        · exact execAwait_ok (by simpa using h) _ _ _
        · exact h
      · exact h
    · exact h

end

/-! ### Every instruction and event -/

/-- No instruction and no event leaves a memory out of its canonical form. -/
theorem exec_ok {s : State} (h : MemoryOk s) (i : Instr) : OutOk (exec i s) := by
  cases i with unfold exec
  | add | sub | mul | mulh | mulhu | div | divu | rem | remu | and | or
  | xor | andn | shl | shr | sar | rot | min | max | minu | maxu | bfx =>
    exact alu_ok h ..
  | addi | andi | ori | xori | shli | shri | sari | roti | clz | popc
  | sext | zext => exact alu1_ok h ..
  | pand | por | pxor => exact plu_ok h ..
  | sel | cmpi | cmp | bfi | pnot | pmov | li | br | brl | jmpr | call
  | ret | loop | nop | qcancel | brk | cgrp => apply issuePure_ok h; simp [h]
  | dqpush | bqpush | fork | exit | eret | shape | drain | brmz =>
    apply issueSeq_ok h; simp [h]
  | rngfree => exact issueSeq_ok h _ _ _ (bindRng_ok h ..)
  | aadd | afadd | amin | amax | aand | aor | axor | aswp | acas => exact atomic_ok h ..
  | xpin => exact pinOp_ok h _ _ _ _ fun _ _ _ => by simpa using h
  | xunpin => exact pinOp_ok h _ _ _ _ fun _ _ _ => by simpa using h
  | fetch | fetchT | fetchMc => exact issueFetch_ok h ..
  | tcon | trel | tadj | tsettle | tquery | dcal | dstat => exact issueCopy_ok h _ _ _ h
  | park | unpark | btnext | dpost | drun => exact issueCopy_ok h _ _ _ (pushCopy_ok h ..)
  | ccopy | cscat => apply issueCopy_ok h; simp [pushCopy_ok, h]
  | mset | mzero | mstart | mmul | mmulc | mrot | mdrain | mtopk | mtopkrd
  | mtopkrdT | mkat | macc | mldacc | mstacc => exact issueMatrix_ok h ..
  | vadd | vsub | vmul | vmin | vmax | vfma | vfmaN | vabs | vneg | vrcp
  | vrsq | vexp2 | vlog2 | vscale | vcmp | vsel | viadd | visub | vimul | vshl
  | vshr | vsar | vand | vor | vxor | vaddw | vcvt | vscan | vred | vbcast
  | vbcastL | vperm | vrotl | viota | vcompress | vexpand | vld | vldx | vst
  | vins | vext | vmpush | vminv | vmpop => exact issueVector_ok h ..
  | dqpop => exact execDqpop_ok h ..
  | brq => exact execBrq_ok h ..
  | rdv => exact execRdv_ok h ..
  | trap => exact execTrap_ok h ..
  | ld => exact execLd_ok h ..
  | st => exact execSt_ok h ..
  | fence => exact execFence_ok h ..
  | fencer => exact execFencer_ok h ..
  | rngbind => exact execRngbind_ok h ..
  | sldf => exact execSldf_ok h ..
  | sldw => exact execSldw_ok h ..
  | sste => exact execSste_ok h ..
  | sstf => exact execSstf_ok h ..
  | seclr => exact execSeclr_ok h ..
  | gjoin => exact execGjoin_ok h ..
  | gleave => exact execGleave_ok h ..
  | gbar => exact execGbar_ok h ..
  | rres => exact execRres_ok h ..
  | rpub => exact execRpub_ok h ..
  | rtake => exact execRtake_ok h ..
  | rfree => exact execRfree_ok h ..
  | xroute => exact execXroute_ok h ..
  | cwait => exact execCwait_ok h ..
  | await => exact execAwait_ok h ..
  | xinv => exact execXinv_ok h ..
  | illegal => exact execIllegal_ok h ..
  | fetchRf => exact execFetchRf_ok h ..
  | talloc => exact execTalloc_ok h ..
  | tstore => exact execTstore_ok h ..
  | cgath => exact execCgath_ok h ..
  | fred => exact execFred_ok h ..
  | commandStart => exact execCommandStart_ok h ..
  | commandFinish => exact execCommandFinish_ok h ..
  | lineLand => exact execLineLand_ok h ..
  | linePerformed => exact execLinePerformed_ok h ..
  | tileFree => exact execTileFree_ok h ..
  | dealChunk => exact execDealChunk_ok h ..
  | taskStart => exact execTaskStart_ok h ..
  | closingEnd => exact execClosingEnd_ok h ..
  | preemptTimeout => exact execPreemptTimeout_ok h ..
  | preempt => exact execPreempt_ok h ..
  | faultDeliver => exact execFaultDeliver_ok h ..
  | yield => exact execYield_ok h ..
  | restore => exact execRestore_ok h ..
  | resume => exact execResume_ok h ..
  | pushsave => exact execPushsave_ok h ..
  | drop => exact execDrop_ok h ..
  | sysrd => exact execSysrd_ok h ..
  | syswr => exact execSyswr_ok h ..
  | entryRead => exact execEntryRead_ok h ..
  | write => exact execWrite_ok h ..
  | enable => exact execEnable_ok h ..
  | reset => exact execReset_ok h ..
  | cread => exact execCread_ok h ..
  | completionRecord => exact execCompletionRecord_ok h ..
  | launchPacket => exact execLaunchPacket_ok h ..
  | jpost => exact execJpost_ok h ..
  | jwait => exact execJwait_ok h ..
  | descinv => exact execDescinv_ok h ..
  | hold => exact execHold_ok h ..
  | release => exact execRelease_ok h ..
  | apertureAccess => exact execApertureAccess_ok h ..
  | retreq => exact execRetreq_ok h ..
  | quota => exact execQuota_ok h ..
  | shrink => exact execShrink_ok h ..
  | retirementDeadline => exact execRetirementDeadline_ok h ..
  | relocate => exact execRelocate_ok h ..
  | reInterleave => exact execReInterleave_ok h ..
  | close => exact execClose_ok h ..
  | bankRetirement => exact execBankRetirement_ok h ..
  | syncWordMove => exact execSyncWordMove_ok h ..
  | replay => exact execReplay_ok h ..
  | errInject => exact execErrInject_ok h ..
  | knownAnswerService => exact execKnownAnswerService_ok h ..
  | quarantineRelease => exact execQuarantineRelease_ok h ..
  | linkFailure => exact execLinkFailure_ok h ..
  | linkTimeout => exact execLinkTimeout_ok h ..
  | linkRecovery => exact execLinkRecovery_ok h ..
  | flitReceive => exact execFlitReceive_ok h ..
  | retrainEnd => exact execRetrainEnd_ok h ..
  | retrainAtRequest => exact execRetrainAtRequest_ok h ..
  | homeMove => exact execHomeMove_ok h ..
  | heartbeat => exact execHeartbeat_ok h ..
  | standbyTakeover => exact execStandbyTakeover_ok h
  | declareDead => exact execDeclareDead_ok h ..
  | posting => exact execPosting_ok h ..
  | calendar => exact execCalendar_ok h ..
  | calendarAck => exact execCalendarAck_ok h ..
  | commit => exact execCommit_ok h ..
  | drunEntry => exact execDrunEntry_ok h ..
  | fredContribution => exact execFredContribution_ok h ..
  | reductionDeadline => exact execReductionDeadline_ok h ..
  | remoteAtomic => exact execRemoteAtomic_ok h ..
  | replyCacheExpiry => exact execReplyCacheExpiry_ok h ..
  | atomicReply => exact execAtomicReply_ok h ..
  | atomicRetry => exact execAtomicRetry_ok h ..
  | adopt => exact execAdopt_ok h ..
  | measurementExtend => exact execMeasurementExtend_ok h ..
  | signReport => exact execSignReport_ok h ..
  | moduleReset => exact execModuleReset_ok h
  | bootStage => exact execBootStage_ok h ..
  | awaitTime => exact execAwaitTime_ok h ..
  | markKey | clear => exact (memoryOk_ite _ _ _).2 (by simp [h])
  | mailboxUnassigned | buddyImage => exact h
  | registerWrite => exact writeReg_memoryOk h ..
  | mailboxXinv | mailboxXinvForced => exact mailInv_memoryOk h ..
  | mailboxXpin | mailboxXunpin => exact mailPin_memoryOk h _ _ fun _ _ _ => by simpa using h

/-! ### Every turn -/

section

variable {s : State} (h : MemoryOk s)
include h

theorem fetchFault_ok (b) : OutOk (s.fetchFault b) := by
  unfold State.fetchFault
  split
  · exact execIllegal_ok h _ _
  · exact issueFault_memoryOk h _ _ _

theorem runBundle_ok {s0 : State} (h0 : MemoryOk s0) (slot bundle q l) : OutOk (s0.runBundle s slot bundle q l) := by
  induction l generalizing s with
  | nil => exact h
  | cons f r ih =>
    have ran := exec_ok ((memoryOk_begin s slot .x f.pc f.next bundle q).2 h) f.instr
    have alone := exec_ok ((memoryOk_begin s0 slot .x f.pc f.next bundle q).2 h0) f.instr
    unfold State.runBundle
    split
    · next t e =>
      rw [e] at ran
      split
      · exact ih ran
      · split
        · next u eu =>
          rw [eu] at alone
          simp [h0, (outOk_next u).1 alone]
        · exact alone
    · exact ran

theorem issueX_ok (slot) : OutOk (s.issueX slot) := by
  unfold State.issueX
  dsimp only
  split
  · exact fetchFault_ok (by simpa using h) _
  · simpa using h
  · trivial
  · exact runBundle_ok (by simpa using h) (by simpa using h) _ _ _ _

theorem issueA_ok (slot) : OutOk (s.issueA slot) := by
  unfold State.issueA
  dsimp only
  split
  · exact fetchFault_ok (by simpa using h) _
  · simpa using h
  · trivial
  · next f _ =>
    have ran := exec_ok ((memoryOk_begin s slot .a f.pc f.next f.pc (s.slotAt slot).a).2 h) f.instr
    split
    · next t e =>
      rw [e] at ran
      split
      · exact issueX_ok ran _
      · exact ran
    · exact ran

theorem issue_ok (slot st) : OutOk (s.issue slot st) := by
  have pushed : MemoryOk (s.updSlot slot fun k => k.retrySigs st (k.seq st).held) := by simpa using h
  unfold State.issue
  generalize (s.updSlot slot fun k => k.retrySigs st (k.seq st).held) = t at pushed
  dsimp only
  split
  · exact pushed
  · split
    · exact issueX_ok pushed _
    · split
      · exact exec_ok pushed _
      · exact issueA_ok pushed _

theorem grant_ok (core st) : OutOk (s.grant core st) := by
  unfold State.grant
  split
  · exact h
  · next t slot e => exact issue_ok (arbitrate_memoryOk h _ _ _ _ e) _ _

theorem take_ok (t) : OutOk (s.take t) := by
  cases t with
  | event i => exact exec_ok h i
  | grant core st => exact grant_ok h core st
  | evict core line => exact invalidate_memoryOk h core line
  | dropDesc core key => exact (memoryOk_updCore _ _ _).2 h
  | tick ns => simpa [State.take] using h

theorem nextTurn_memoryOk : MemoryOk s.nextTurn.2 := by
  unfold State.nextTurn
  split
  · simpa using h
  · split <;> simpa using h

theorem step_ok : OutOk (step s) := take_ok (nextTurn_memoryOk h) _

end

/-- Settles O7: whatever turn a step takes, the state it answers has every memory in canonical form (R5, R95, R360). -/
theorem memoryStaysCanonical : Obligations.MemoryStaysCanonical := by
  unfold Obligations.MemoryStaysCanonical Kept
  intro s t h e
  have stepped := step_ok h
  rwa [e] at stepped

end Sys2Proof

/-! The proofs of O23 and O24. The gates of issue that do not open, and the fault of a check at issue. -/

namespace Sys2Proof

open Machine

/-! ### What an instruction needs, by what it names -/

theorem awaits_mono {q : Seq} {gs gs' : List Reg} {ps ps' : List PReg} (hg : gs' ⊆ gs) (hp : ps' ⊆ ps)
    (h : q.awaits gs ps = false) : q.awaits gs' ps' = false := by
  simp only [Seq.awaits, Bool.or_eq_false_iff, List.any_eq_false] at h ⊢
  exact ⟨fun r hr => h.1 r (hg hr), fun r hr => h.2 r (hp hr)⟩

theorem Ready.mono {s : State} {h : Hdr} {gs gs' : List Reg} {ps ps' : List PReg} (r : Ready s h gs ps)
    (hg : gs' ⊆ gs) (hp : ps' ⊆ ps) : Ready s h gs' ps' :=
  ⟨r.queues, awaits_mono hg hp r.regs, r.tokens⟩

theorem EngReady.mono {s : State} {e : Engine} {h : Hdr} {gs gs' : List Reg} {ps ps' : List PReg}
    (r : EngReady s e h gs ps) (hg : gs' ⊆ gs) (hp : ps' ⊆ ps) : EngReady s e h gs' ps' :=
  ⟨r.queues, awaits_mono hg hp r.regs, r.room, r.held⟩

/-! ### Gates that do not open -/

/-- A queue the sequencer may not name faults whatever else holds (check 14 of R147). -/
theorem issueSeq_badQueue {s : State} {h : Hdr} (gs : List Reg) (ps : List PReg) (body : State → Body)
    (hq : tokQueuesOk h .seq s.cur.st = false) :
    s.issueSeq h gs ps body = .next (s.issueFault ⟨cQUEUE, 0, s.cur.pc⟩ 0 s.cur.pc) := by
  have closed : s.gate h gs ps = .badQueue := by simp [State.gate, hq]
  simp only [State.issueSeq, closed, State.badQueue]

theorem issueEng_badQueue {s : State} {e : Engine} {h : Hdr} (gs : List Reg) (ps : List PReg) (ws : List Reg)
    (wps : List PReg) (mk : State → Pushed) (hq : tokQueuesOk h (engineAgent e) s.cur.st = false) :
    s.issueEng e h gs ps ws wps mk = .next (s.issueFault ⟨cQUEUE, 0, s.cur.pc⟩ 0 s.cur.pc) := by
  have closed : s.engGate e h gs ps = .badQueue := by simp [State.engGate, hq]
  simp only [State.issueEng, closed, State.badQueue]

/-- An awaited register or an empty WAIT queue makes a sequencer instruction wait (R12, R33). -/
theorem issueSeq_waits {s : State} {h : Hdr} {gs : List Reg} {ps : List PReg} (body : State → Body)
    (hq : tokQueuesOk h .seq s.cur.st = true) (hw : s.mySeq.awaits gs ps = true ∨ s.me.hasTok h.wait = false) :
    s.issueSeq h gs ps body = .next s.stalled := by
  have closed : s.gate h gs ps = .waits := by
    unfold State.gate
    rw [if_neg (by simp [hq]), if_pos (by simpa using hw)]
  simp only [State.issueSeq, closed]

theorem hasTok_false {k : Slot} {m : BitVec 8} {i : Fin 8} (hm : m.getLsbD i = true) (h0 : k.tok.get i = 0) :
    k.hasTok m = false := by
  simp only [Slot.hasTok, List.all_eq_false]
  exact ⟨i, List.mem_finRange i, by simp [hm, h0]⟩

theorem awaits_true {q : Seq} {gs : List Reg} {ps : List PReg} {r : Reg} (hr : r ∈ gs) (h0 : r ≠ 0)
    (hw : q.awG.getLsbD r.toNat = true) : q.awaits gs ps = true := by
  simp only [Seq.awaits, Bool.or_eq_true, List.any_eq_true]
  exact .inl ⟨r, hr, by simpa [hw] using h0⟩

theorem exec_add (h : Hdr) (d a b : Reg) (s : State) :
    exec (.add h d a b) s = s.issueSeq h [d, a, b] [] fun t => .done (t.wg d (t.rg a + t.rg b)) := rfl

/-- Settles O24: either cause closes the gate, and ADD waits before it reads or pops anything. -/
theorem emptyTokenQueueStalls : Obligations.EmptyTokenQueueStalls := by
  unfold Obligations.EmptyTokenQueueStalls Stalls
  rintro s h d a b hq (⟨i, hi, h0⟩ | ⟨r, hr, h0, hw⟩) <;> rw [exec_add]
  · exact issueSeq_waits _ hq (.inr (hasTok_false hi h0))
  · exact issueSeq_waits _ hq (.inl (awaits_true hr h0 hw))

/-! ### The frame of a slot -/

theorem slotOf_eq_me {s t : State} (hs : t.cur.slot = s.cur.slot) : t.slotOf s = t.me := by
  unfold State.slotOf State.me
  rw [hs]

theorem slotOf_self (s : State) : s.slotOf s = s.me := rfl

theorem slotOf_updMe {s t : State} (hs : t.cur.slot = s.cur.slot) (f : Slot → Slot) :
    (t.updMe f).slotOf s = f (t.slotOf s) := by
  rw [slotOf_eq_me hs, slotOf_eq_me (t := t.updMe f) hs, State.me_updMe]

theorem slotOf_faulted (s t : State) : t.faulted.slotOf s = t.slotOf s := rfl

theorem onlySlot_updMe (s : State) (f : Slot → Slot) : OnlySlot s (s.updMe f) :=
  ⟨rfl, fun _ hn => State.slotAt_updSlot_ne s f hn⟩

theorem OnlySlot.trans {s t u : State} (o : OnlySlot s t) (o' : OnlySlot t u) (hs : t.cur.slot = s.cur.slot) :
    OnlySlot s u := by
  refine ⟨?_, fun n hn => (o'.slots n (by rw [hs]; exact hn)).trans (o.slots n hn)⟩
  have h : { u with slots := t.slots, cur := t.cur } = t := o'.package
  have h0 : { t with slots := s.slots, cur := s.cur } = s := o.package
  exact (congrArg (fun z : State => { z with slots := s.slots, cur := s.cur }) h).trans h0

theorem OnlySlot.updMe {s t : State} (o : OnlySlot s t) (f : Slot → Slot) (hs : t.cur.slot = s.cur.slot) :
    OnlySlot s (t.updMe f) := o.trans (onlySlot_updMe t f) hs

theorem OnlySlot.faulted {s t : State} (o : OnlySlot s t) : OnlySlot s t.faulted := ⟨o.package, o.slots⟩

/-! ### ILLEGAL and the fault QUEUE -/

/-- A slot whose X-seq is held with one more fault pending (R144, R148). -/
def Machine.Slot.holdX (k : Slot) (t : Trap) : Slot := { k with xHeld := true, pending := k.pending ++ [t] }

/-- The fault that a bundle of X-seq raises, at the bundle's address. -/
def Machine.State.xTrap (s : State) (b : Bad) (code : BitVec 16) : Trap :=
  { cause := b.cause, reason := b.reason, addr := b.addr, pc := s.cur.bundle, source := 1, code := code }

theorem issueFault_x {s : State} (hx : s.cur.st = .x) (b : Bad) (code : BitVec 16) (ret : Word) :
    s.issueFault b code ret =
      ((s.updMe fun k => { k with pending := k.pending ++ [s.xTrap b code] }).updMe fun k => { k with xHeld := true }).faulted := by
  simp only [State.issueFault, hx]
  rfl

theorem issueFault_x_slot {s : State} (hx : s.cur.st = .x) (b : Bad) (code : BitVec 16) (ret : Word) :
    (s.issueFault b code ret).slotOf s = s.me.holdX (s.xTrap b code) := by
  rw [issueFault_x hx, slotOf_faulted, slotOf_updMe, slotOf_updMe, slotOf_self] <;> rfl

theorem issueFault_x_onlySlot {s : State} (hx : s.cur.st = .x) (b : Bad) (code : BitVec 16) (ret : Word) :
    OnlySlot s (s.issueFault b code ret) := by
  rw [issueFault_x hx]
  exact ((onlySlot_updMe s _).updMe _ rfl).faulted

/-- A fault of A-seq that is not routed kills the task, but for CAPACITY and KAT_MISMATCH (R170, R317). -/
theorem issueFault_a_kills {s : State} (ha : s.cur.st = .a) (b : Bad) (code : BitVec 16) (ret : Word)
    (hr : s.me.routes b.cause = false) (h1 : b.cause ≠ cCAPACITY) (h2 : b.cause ≠ cKAT) :
    s.issueFault b code ret = .faulted (s.killTask s.cur.slot b.cause b.reason) := by
  simp only [State.issueFault, ha]
  exact congrArg State.faulted (takeFault_kills s s.cur.slot _ ret hr h1 h2)

theorem exec_illegal {s : State} (reason : BitVec 8) (addr : Word) (hi : s.me.st.issues s.cur.st = true) :
    exec (.illegal reason addr) s = .next (s.issueFault ⟨cILLEGAL, reason, addr⟩ 0 s.cur.pc) := if_pos hi

theorem exec_nop (h : Hdr) (s : State) : exec (.nop h) s = s.issueSeq h [] [] fun t => .done t := rfl
theorem exec_mstart (h : Hdr) (s : State) : exec (.mstart h) s = s.issueMatrix (.mstart h) h [] [] := rfl
theorem exec_vminv (h : Hdr) (s : State) : exec (.vminv h) s = s.issueVector (.vminv h) h [] [] := rfl
theorem exec_tcon (h : Hdr) (r : Reg) (s : State) :
    exec (.tcon h r) s = s.issueCopy (.tcon h r) h [r] fun x => x.pushPlain (.tcon h r) [x.rg r] {} := rfl

theorem issueMatrix_badQueue {s : State} {h : Hdr} (i : Instr) (accs gs : List Reg)
    (hq : tokQueuesOk h .matrix s.cur.st = false) :
    s.issueMatrix i h accs gs = .next (s.issueFault ⟨cQUEUE, 0, s.cur.pc⟩ 0 s.cur.pc) := by
  unfold State.issueMatrix
  exact issueEng_badQueue _ _ _ _ _ hq

theorem issueVector_badQueue {s : State} {h : Hdr} (i : Instr) (vs gs : List Reg)
    (hq : tokQueuesOk h .vector s.cur.st = false) :
    s.issueVector i h vs gs = .next (s.issueFault ⟨cQUEUE, 0, s.cur.pc⟩ 0 s.cur.pc) := by
  unfold State.issueVector
  exact issueEng_badQueue _ _ _ _ _ hq

theorem issueCopy_badQueue {s : State} {h : Hdr} (i : Instr) (gs : List Reg) (mk : State → Pushed)
    (hq : tokQueuesOk h .copy s.cur.st = false) :
    s.issueCopy i h gs mk = .next (s.issueFault ⟨cQUEUE, 0, s.cur.pc⟩ 0 s.cur.pc) := by
  unfold State.issueCopy
  exact issueEng_badQueue _ _ _ _ _ hq

/-- Settles O23: ILLEGAL is `issueFault` of its check, and check 14 closes every gate with the fault QUEUE. -/
theorem illegalIsTaken : Obligations.IllegalIsTaken := by
  unfold Obligations.IllegalIsTaken Faults
  intro s reason addr h
  refine ⟨fun hi => ⟨exec_illegal reason addr hi, fun hx => ?_, fun ha hr => ?_⟩, fun hq => ?_, fun hq => ?_, fun hq => ?_,
    fun r hq => ?_⟩
  · refine ⟨_, exec_illegal reason addr hi, ?_, issueFault_x_onlySlot hx _ _ _, issueFault_x_slot hx _ _ _⟩
    rw [issueFault_x hx]
    rfl
  · have notCapacity : cILLEGAL ≠ cCAPACITY := by decide
    have notKat : cILLEGAL ≠ cKAT := by decide
    rw [exec_illegal reason addr hi, issueFault_a_kills ha ⟨cILLEGAL, reason, addr⟩ 0 s.cur.pc hr notCapacity notKat]
    rfl
  · rw [exec_nop, issueSeq_badQueue _ _ _ hq]
  · rw [exec_mstart, issueMatrix_badQueue _ _ _ hq]
  · rw [exec_vminv, issueVector_badQueue _ _ _ hq]
  · rw [exec_tcon, issueCopy_badQueue _ _ _ hq]

end Sys2Proof

/-! The proof of O18. What the body of a sequencer instruction may do before its retirement, branch targets, and the
queues between the sequencers. -/

namespace Sys2Proof

open Machine

/-! ### What a body may do before the retirement -/

theorem Body.Wrote.trans {s u t : State} {g : Option (Reg × Word)} {p : Option (PReg × Bool)}
    (w : Body.Wrote s u none none) (w' : Body.Wrote u t g p) : Body.Wrote s t g p :=
  ⟨w'.slot.trans w.slot, w'.st.trans w.st, w'.tok.trans w.tok,
    fun r => (w'.regs r).trans (congrArg _ (w.regs r)), fun r => (w'.preds r).trans (congrArg _ (w.preds r)),
    w'.awG.trans w.awG, w'.awP.trans w.awP, w'.issued.trans w.issued, w'.held.trans w.held⟩

theorem Body.Wrote.andThen {s u t : State} {g : Option (Reg × Word)} {p : Option (PReg × Bool)}
    (w : Body.Wrote s u g p) (w' : Body.Wrote u t none none) : Body.Wrote s t g p :=
  ⟨w'.slot.trans w.slot, w'.st.trans w.st, w'.tok.trans w.tok,
    fun r => (w'.regs r).trans (w.regs r), fun r => (w'.preds r).trans (w.preds r),
    w'.awG.trans w.awG, w'.awP.trans w.awP, w'.issued.trans w.issued, w'.held.trans w.held⟩

/-- A change of the slot that spares its tokens and the sequencer in issue. -/
theorem wrote_updMe (s : State) {f : Slot → Slot} (ht : (f s.me).tok = s.me.tok)
    (hq : (f s.me).seq s.cur.st = s.mySeq) : Body.Wrote s (s.updMe f) none none := by
  have e : (s.updMe f).mySeq = s.mySeq := by
    unfold State.mySeq at hq ⊢
    rw [State.me_updMe]
    exact hq
  refine ⟨rfl, rfl, by rw [State.me_updMe, ht], fun r => ?_, fun r => ?_, ?_, ?_, ?_, ?_⟩ <;> rw [e] <;> rfl

theorem wrote_branch (s : State) (target : Word) : Body.Wrote s (s.branch target) none none := by
  have e : (s.branch target).mySeq = s.mySeq.cutLoop := mySeq_updSeq s Seq.cutLoop
  refine ⟨rfl, rfl, ?_, fun r => ?_, fun r => ?_, ?_, ?_, ?_, ?_⟩
  · have : (s.branch target).me = s.me.updSeq s.cur.st Seq.cutLoop :=
      State.slotAt_updSlot_same s s.cur.slot fun k => k.updSeq s.cur.st Seq.cutLoop
    rw [this, tok_updSeq]
  all_goals rw [e]; rfl

/-- A change of the slot in issue makes it what it is made. -/
theorem slotAs_updMe (s : State) (f : Slot → Slot) : SlotAs s (s.updMe f) (f s.me) := by
  have e : (s.updMe f).slotOf s = f s.me := State.me_updMe s f
  exact ⟨onlySlot_updMe s f, by rw [e], fun st _ => by rw [e]⟩

theorem SlotAs.trans {s u t : State} {k : Slot} (o : SlotAs s u k) (o' : OnlyIssuer u t) (hs : u.cur.slot = s.cur.slot)
    (ht : u.cur.st = s.cur.st) : SlotAs s t k := by
  have eu : u.slotOf s = u.me := slotOf_eq_me hs
  have et : t.slotOf s = t.slotOf u := by unfold State.slotOf; rw [hs]
  refine ⟨o.toOnlySlot.trans o'.toOnlySlot hs, ?_, fun st hst => ?_⟩
  · have h := o.slot
    have h' := congrArg (fun z : Slot => { z with tok := k.tok, a := k.a, x := k.x }) o'.slot
    rw [eu] at h
    rw [et]
    exact h'.trans h
  · rw [et, o'.other st (by rw [ht]; exact hst), ← eu]
    exact o.other st hst

theorem onlyIssuer_branch (s : State) (target : Word) : OnlyIssuer s (s.branch target) := by
  have o := onlyIssuer_updSeq s Seq.cutLoop
  exact ⟨⟨o.package, o.slots⟩, o.slot, o.other⟩

/-- A sequencer instruction whose body can retire. -/
theorem issueSeq_done {s u : State} {h : Hdr} {gs : List Reg} {ps : List PReg} {body : State → Body}
    {g : Option (Reg × Word)} {p : Option (PReg × Bool)} {k : Slot} (r : Ready s h gs ps) (e : body s = .done u)
    (w : Body.Wrote s u g p) (o : SlotAs s u k) :
    ∃ t, s.issueSeq h gs ps body = .next t ∧ Retired s t h u.cur.next g p ∧ SlotAs s t k := by
  refine ⟨u.retire h, ?_, retired_of_wrote w, retire_slotAs h o w.slot w.st⟩
  rw [issueSeq_ready _ r, e]

theorem issueSeq_stall {s t : State} {h : Hdr} {gs : List Reg} {ps : List PReg} {body : State → Body}
    (r : Ready s h gs ps) (e : body s = .stall t) : s.issueSeq h gs ps body = .next t.stalled := by
  rw [issueSeq_ready _ r, e]

theorem issueSeq_bad {s : State} {h : Hdr} {gs : List Reg} {ps : List PReg} {body : State → Body} {b : Bad}
    (r : Ready s h gs ps) (e : body s = .bad b) : s.issueSeq h gs ps body = .next (s.issueFault b 0 s.cur.pc) := by
  rw [issueSeq_ready _ r, e]

/-! ### Branch targets -/

/-- The target of an F-B offset as an integer (R137). -/
theorem branchTarget_eq_ofInt (base : Nat) (pc : Word) (off : BitVec 13) (syl : BitVec 4) :
    branchTarget base pc off syl =
      BitVec.ofInt 64 (base + 64 * (((pc.toNat - base : Nat) : Int) / 64 + off.toInt) + 4 + 4 * syl.toNat) := by
  have hline : (((pc.toNat - base : Nat) : Int) / 64) = (((pc.toNat - base) / 64 : Nat) : Int) := by omega
  have hoff : off.signExtend 64 = BitVec.ofInt 64 off.toInt := rfl
  have hsyl : syl.setWidth 64 = BitVec.ofNat 64 syl.toNat := by
    apply BitVec.eq_of_toNat_eq
    simp
  unfold branchTarget
  rw [hline, hoff, hsyl]
  simp only [BitVec.ofInt_add, BitVec.ofInt_mul, BitVec.ofInt_natCast]
  rfl

/-! ### The queues between the sequencers -/

theorem setDqOut_keeps (k : Slot) (st st' : Stream) (q : List Word) :
    (k.setDqOut st q).tok = k.tok ∧ (k.setDqOut st q).seq st' = k.seq st' := by
  cases st <;> cases st' <;> exact ⟨rfl, rfl⟩

theorem setDqIn_keeps (k : Slot) (st st' : Stream) (q : List Word) :
    (k.setDqIn st q).tok = k.tok ∧ (k.setDqIn st q).seq st' = k.seq st' := by
  cases st <;> cases st' <;> exact ⟨rfl, rfl⟩

theorem setBqOut_keeps (k : Slot) (st st' : Stream) (q : List Bool) :
    (k.setBqOut st q).tok = k.tok ∧ (k.setBqOut st q).seq st' = k.seq st' := by
  cases st <;> cases st' <;> exact ⟨rfl, rfl⟩

theorem setBqIn_keeps (k : Slot) (st st' : Stream) (q : List Bool) :
    (k.setBqIn st q).tok = k.tok ∧ (k.setBqIn st q).seq st' = k.seq st' := by
  cases st <;> cases st' <;> exact ⟨rfl, rfl⟩

/-- A body that changes the slot, its tokens and sequencers apart, and retires. -/
theorem issueSeq_updMe {s : State} {h : Hdr} {gs : List Reg} {ps : List PReg} {body : State → Body} {f : Slot → Slot}
    (r : Ready s h gs ps) (e : body s = .done (s.updMe f)) (ht : (f s.me).tok = s.me.tok)
    (hq : (f s.me).seq s.cur.st = s.mySeq) :
    ∃ t, s.issueSeq h gs ps body = .next t ∧ Retired s t h s.cur.next none none ∧ SlotAs s t (f s.me) :=
  issueSeq_done (u := s.updMe f) r e (wrote_updMe s ht hq) (slotAs_updMe s f)

section

variable {s : State} {h : Hdr} {st : Stream} (hst : s.cur.st = st)
include hst

theorem dqpush_room {r : Reg} (ready : Ready s h [r] []) (hl : (s.me.dqOut st).length < dqDepth st) :
    CompletesAs s (.dqpush h r) h s.cur.next none none (s.me.setDqOut st (s.me.dqOut st ++ [s.rg r])) := by
  subst hst
  have keeps := setDqOut_keeps s.me s.cur.st s.cur.st (s.me.dqOut s.cur.st ++ [s.rg r])
  change ∃ t, execDqpush h r s = .next t ∧ _
  unfold execDqpush
  refine issueSeq_updMe (f := fun k => k.setDqOut s.cur.st _) ready ?_ keeps.1 keeps.2
  exact if_pos hl

theorem dqpush_full {r : Reg} (ready : Ready s h [r] []) (hl : ¬ (s.me.dqOut st).length < dqDepth st) :
    Stalls s (.dqpush h r) := by
  subst hst
  change execDqpush h r s = _
  unfold execDqpush
  refine issueSeq_stall ready ?_
  exact if_neg hl

theorem bqpush_room {p : PReg} (ready : Ready s h [] [p]) (hl : (s.me.bqOut st).length < Config.bqDepth) :
    CompletesAs s (.bqpush h p) h s.cur.next none none (s.me.setBqOut st (s.me.bqOut st ++ [s.rp p])) := by
  subst hst
  have keeps := setBqOut_keeps s.me s.cur.st s.cur.st (s.me.bqOut s.cur.st ++ [s.rp p])
  change ∃ t, execBqpush h p s = .next t ∧ _
  unfold execBqpush
  refine issueSeq_updMe (f := fun k => k.setBqOut s.cur.st _) ready ?_ keeps.1 keeps.2
  exact if_pos hl

theorem bqpush_full {p : PReg} (ready : Ready s h [] [p]) (hl : ¬ (s.me.bqOut st).length < Config.bqDepth) :
    Stalls s (.bqpush h p) := by
  subst hst
  change execBqpush h p s = _
  unfold execBqpush
  refine issueSeq_stall ready ?_
  exact if_neg hl

theorem dqpop_takes {r : Reg} {v : Word} {q : List Word} (ready : Ready s h [r] []) (hq : s.me.dqIn st = v :: q) :
    CompletesAs s (.dqpop h r) h s.cur.next (some (r, v)) none (s.me.setDqIn st q) := by
  subst hst
  have keeps := setDqIn_keeps s.me s.cur.st s.cur.st q
  have popped := wrote_updMe s (f := fun k => k.setDqIn s.cur.st q) keeps.1 keeps.2
  have frame := slotAs_updMe s fun k => k.setDqIn s.cur.st q
  change ∃ t, execDqpop h r s = .next t ∧ _
  unfold execDqpop
  refine issueSeq_done (u := (s.updMe fun k => k.setDqIn s.cur.st q).wg r v) ready ?_ (popped.trans (wrote_wg _ r v))
    (frame.trans (onlyIssuer_updSeq _ _) rfl rfl)
  simp only [hq]

theorem dqpop_empty {r : Reg} (ready : Ready s h [r] []) (hq : s.me.dqIn st = []) : Stalls s (.dqpop h r) := by
  subst hst
  change execDqpop h r s = _
  unfold execDqpop
  refine issueSeq_stall ready ?_
  simp only [hq]

theorem brq_takes {p : PReg} {neg o : Bool} {off : BitVec 13} {syl : BitVec 4} {q : List Bool} (ready : Ready s h [] [p])
    (hq : s.me.bqIn st = o :: q) :
    CompletesAs s (.brq h p neg off syl) h (if o = neg then s.cur.next else s.target off syl) none (some (p, o))
      (s.me.setBqIn st q) := by
  subst hst
  have keeps := setBqIn_keeps s.me s.cur.st s.cur.st q
  have popped := (wrote_updMe s (f := fun k => k.setBqIn s.cur.st q) keeps.1 keeps.2).trans (wrote_wp _ p o)
  have frame := (slotAs_updMe s fun k => k.setBqIn s.cur.st q).trans (onlyIssuer_updSeq _ fun q => q.wrP p o) rfl rfl
  change ∃ t, execBrq h p neg off syl s = .next t ∧ _
  unfold execBrq
  by_cases taken : o = neg
  · rw [if_pos taken]
    refine issueSeq_done (u := (s.updMe fun k => k.setBqIn s.cur.st q).wp p o) ready ?_ popped frame
    simp [hq, taken]
  · rw [if_neg taken]
    refine issueSeq_done (u := ((s.updMe fun k => k.setBqIn s.cur.st q).wp p o).branch (s.target off syl)) ready ?_
      (popped.andThen (wrote_branch _ _)) (frame.trans (onlyIssuer_branch _ _) rfl rfl)
    simp [hq, taken]

theorem brq_empty {p : PReg} {neg : Bool} {off : BitVec 13} {syl : BitVec 4} (ready : Ready s h [] [p])
    (hq : s.me.bqIn st = []) : Stalls s (.brq h p neg off syl) := by
  subst hst
  change execBrq h p neg off syl s = _
  unfold execBrq
  refine issueSeq_stall ready ?_
  simp only [hq]

end

/-- The four instructions of one stream: what is outbound for the one is inbound for the other (R13, R162, R163). -/
theorem queue_instructions {s : State} {h : Hdr} {st : Stream} {r : Reg} {p : PReg} (hst : s.cur.st = st)
    (ready : Ready s h [r] [p]) (neg : Bool) (off : BitVec 13) (syl : BitVec 4) :
    (if (s.me.dqOut st).length < dqDepth st then
      CompletesAs s (.dqpush h r) h s.cur.next none none (s.me.setDqOut st (s.me.dqOut st ++ [s.rg r]))
      else Stalls s (.dqpush h r)) ∧
    (if (s.me.bqOut st).length < Config.bqDepth then
      CompletesAs s (.bqpush h p) h s.cur.next none none (s.me.setBqOut st (s.me.bqOut st ++ [s.rp p]))
      else Stalls s (.bqpush h p)) ∧
    (match s.me.dqIn st with
      | v :: q => CompletesAs s (.dqpop h r) h s.cur.next (some (r, v)) none (s.me.setDqIn st q)
      | [] => Stalls s (.dqpop h r)) ∧
    (match s.me.bqIn st with
      | o :: q => CompletesAs s (.brq h p neg off syl) h (if o = neg then s.cur.next else s.target off syl) none
          (some (p, o)) (s.me.setBqIn st q)
      | [] => Stalls s (.brq h p neg off syl)) := by
  have readyG : Ready s h [r] [] := ready.mono (List.Subset.refl _) (List.nil_subset _)
  have readyP : Ready s h [] [p] := ready.mono (List.nil_subset _) (List.Subset.refl _)
  refine ⟨?_, ?_, ?_, ?_⟩
  · split
    · next room => exact dqpush_room hst readyG room
    · next full => exact dqpush_full hst readyG full
  · split
    · next room => exact bqpush_room hst readyP room
    · next full => exact bqpush_full hst readyP full
  · split
    · next hq => exact dqpop_takes hst readyG hq
    · next hq => exact dqpop_empty hst readyG hq
  · split
    · next hq => exact brq_takes hst readyP hq
    · next hq => exact brq_empty hst readyP hq

/-- Settles O18: for each stream, its queues by name (R13, R162, R163). -/
theorem sequencerQueues : Obligations.SequencerQueues := by
  unfold Obligations.SequencerQueues
  intro s h r p neg off syl ready
  simp only [← branchTarget_eq_ofInt]
  cases hst : s.cur.st with
  | a => exact queue_instructions hst ready neg off syl
  | x => exact queue_instructions hst ready neg off syl

end Sys2Proof

/-! The proofs of O19 and O20. Task control, and the removal of queue entries. -/

namespace Sys2Proof

open Machine

/-! ### What a completed instruction leaves of its slot -/

theorem slotAs_of_slotOf {s t : State} {k : Slot} (o : OnlySlot s t) (e : t.slotOf s = k) : SlotAs s t k :=
  ⟨o, by rw [e], fun st _ => by rw [e]⟩

theorem SlotAs.st {s t : State} {k : Slot} (o : SlotAs s t k) : (t.slotOf s).st = k.st := by
  have := congrArg (fun z : Slot => z.st) o.slot
  exact this

theorem SlotAs.queue {s t : State} {k : Slot} (o : SlotAs s t k) (e : Engine) : (t.slotOf s).queue e = k.queue e := by
  have := congrArg (fun z : Slot => z.queue e) o.slot
  cases e <;> exact this

theorem SlotAs.aside {s t : State} {k : Slot} (o : SlotAs s t k) (e : Engine) : (t.slotOf s).aside e = k.aside e := by
  have := congrArg (fun z : Slot => z.aside e) o.slot
  cases e <;> exact this

/-! ### Task control -/

/-- A retirement without a token clause moves no token. -/
theorem finish_bare_tok (k : Slot) (st : Stream) (pc next : Word) : (k.finish st ⟨true, none⟩ pc next).tok = k.tok := by
  have fits : SigFits k ⟨true, none⟩ := fun i hi => by simp [Hdr.sig] at hi
  ext i hi
  have := (finish_tokens k st ⟨true, none⟩ pc next).fits fits ⟨i, hi⟩
  simpa [Vector.get_eq_getElem, bitCount, Hdr.wait, Hdr.sig] using this

/-- What the slot is once the other sequencer's RDV has retired and X-seq is idle (R15). -/
def Machine.Slot.met (k : Slot) (st : Stream) (next : Word) : Slot :=
  { k.finish st ⟨true, none⟩ (k.seq st).pc next with st := .solo }

/-- The state in which the other sequencer, `st'`, has retired its RDV and the slot is in SOLO (R15, R165). -/
def Machine.State.rdvMet (s : State) (st' : Stream) : State :=
  (s.retireRdv s.cur.slot st').updSlot s.cur.slot fun k => { k with st := .solo }

theorem rdvMet_slotAs (s : State) (st' : Stream) :
    SlotAs s (s.rdvMet st') (s.me.met st' (s.nextOf s.cur.slot st')) := by
  let other : Slot → Slot := fun k => k.finish st' ⟨true, none⟩ (k.seq st').pc (s.nextOf s.cur.slot st')
  have hu : s.rdvMet st' = (s.updMe other).updMe fun k => { k with st := .solo } := rfl
  rw [hu]
  refine slotAs_of_slotOf ((onlySlot_updMe s _).updMe _ rfl) ?_
  rw [slotOf_updMe, slotOf_updMe, slotOf_self] <;> rfl

theorem rdvMet_wrote (s : State) {st' : Stream} (hne : st' ≠ s.cur.st) : Body.Wrote s (s.rdvMet st') none none := by
  let other : Slot → Slot := fun k => k.finish st' ⟨true, none⟩ (k.seq st').pc (s.nextOf s.cur.slot st')
  have retires : Body.Wrote s (s.updMe other) none none :=
    wrote_updMe s (finish_bare_tok _ _ _ _) (finish_other _ _ _ _ hne.symm)
  refine retires.trans (wrote_updMe _ (f := fun k => { k with st := .solo }) rfl ?_)
  unfold State.mySeq
  cases (s.updMe other).cur.st <;> rfl

/-- Where the other sequencer, `st'`, waits at RDV both retire, each at its own Next (R15, R165). -/
theorem rdvMet_retires (s : State) (h : Hdr) {st' : Stream} (hne : st' ≠ s.cur.st) :
    let t := (s.rdvMet st').retire h
    t.cur.went = .retired ∧ (t.slotOf s).st = .solo ∧ ((t.slotOf s).seq s.cur.st).pc = s.cur.next ∧
      ((t.slotOf s).seq st').pc = s.nextOf s.cur.slot st' ∧ OnlySlot s t := by
  have retired := retired_of_wrote (h := h) (rdvMet_wrote s hne)
  have frame := retire_slotAs h (rdvMet_slotAs s st') rfl rfl
  refine ⟨retired.went, frame.st, retired.pc, ?_, frame.toOnlySlot⟩
  rw [frame.other st' hne]
  have atNext := (finish_seq s.me st' ⟨true, none⟩ (s.me.seq st').pc (s.nextOf s.cur.slot st')).pc
  cases st' <;> exact atNext

theorem exec_rdv_meetA {s : State} {h : Hdr} (ready : Ready s h [] []) (hx : s.cur.st = .x) (hk : s.me.st = .meetA) :
    exec (.rdv h) s = .next ((s.rdvMet .a).retire h) := by
  change execRdv h s = _
  unfold execRdv
  rw [issueSeq_ready _ ready]
  simp only [hx, hk]
  rfl

theorem exec_rdv_meetX {s : State} {h : Hdr} (ready : Ready s h [] []) (ha : s.cur.st = .a) (hk : s.me.st = .meetX)
    (alone : s.xRdvAlone s.cur.slot = true) : exec (.rdv h) s = .next ((s.rdvMet .x).retire h) := by
  change execRdv h s = _
  unfold execRdv
  rw [issueSeq_ready _ ready]
  simp only [ha, hk, alone, if_true]
  rfl

theorem fork_starts {s : State} {h : Hdr} {off : BitVec 13} {syl : BitVec 4} (ready : Ready s h [] [])
    (ha : s.cur.st = .a) (hk : s.me.st = .solo) :
    CompletesAs s (.fork h off syl) h s.cur.next none none
      { s.me with st := .both, x := { s.me.x with pc := s.target off syl, loop := {}, parked := false } } := by
  change ∃ t, execFork h off syl s = .next t ∧ _
  unfold execFork
  refine issueSeq_updMe (f := fun k => { k with
    st := .both, x := { k.x with pc := s.target off syl, loop := {}, parked := false } }) ready ?_ rfl ?_
  · exact if_pos hk
  · unfold State.mySeq
    rw [ha]
    rfl

theorem exit_closes {s : State} {h : Hdr} (ready : Ready s h [] []) (hk : s.me.st = .solo) :
    CompletesAs s (.exit h) h s.cur.next none none { s.me with st := .closing } := by
  change ∃ t, execExit h s = .next t ∧ _
  unfold execExit
  refine issueSeq_updMe (f := fun k => { k with st := .closing }) ready ?_ rfl ?_
  · exact if_pos hk
  · unfold State.mySeq
    cases s.cur.st <;> rfl

theorem fork_faults {s : State} {h : Hdr} {off : BitVec 13} {syl : BitVec 4} (ready : Ready s h [] [])
    (hk : s.me.st ≠ .solo) : Faults s (.fork h off syl) cILLEGAL 0x0D s.cur.pc := by
  change execFork h off syl s = _
  unfold execFork
  refine issueSeq_bad (b := badState s.cur.pc) ready ?_
  exact if_neg hk

theorem exit_faults {s : State} {h : Hdr} (ready : Ready s h [] []) (hk : s.me.st ≠ .solo) :
    Faults s (.exit h) cILLEGAL 0x0D s.cur.pc := by
  change execExit h s = _
  unfold execExit
  refine issueSeq_bad (b := badState s.cur.pc) ready ?_
  exact if_neg hk

theorem rdv_alone {s : State} {h : Hdr} (ready : Ready s h [] []) (ha : s.cur.st = .a) (hk : s.me.st = .solo) :
    Completes s (.rdv h) h s.cur.next none none := by
  change ∃ t, execRdv h s = .next t ∧ _
  unfold execRdv
  refine issueSeq_done (u := s) ready ?_ (wrote_refl s) (onlyIssuer_refl s)
  simp only [ha, hk]

theorem rdv_waits {s : State} {h : Hdr} (ready : Ready s h [] []) (hk : s.me.st = .both) :
    exec (.rdv h) s =
      .next (s.updMe fun k => { k with st := match s.cur.st with | .a => .meetA | .x => .meetX }).stalled := by
  change execRdv h s = _
  unfold execRdv
  refine issueSeq_stall ready ?_
  cases s.cur.st <;> simp only [hk]

/-- Settles O19: each instruction by the state of its slot; where both sequencers stand at RDV, by `rdvMet_retires`. -/
theorem taskControl : Obligations.TaskControl := by
  unfold Obligations.TaskControl
  intro s h off syl ready
  simp only [← branchTarget_eq_ofInt]
  refine ⟨issuePure_plain id ready rfl, fun ha hk => ⟨fork_starts ready ha hk, exit_closes ready hk, rdv_alone ready ha hk⟩,
    fun hk => ⟨fork_faults ready hk, exit_faults ready hk⟩, rdv_waits ready, fun hx hk => ?_, fun ha hk alone => ?_⟩
  · obtain ⟨went, solo, own, other, frame⟩ := rdvMet_retires s h (st' := .a) (by rw [hx]; decide)
    rw [hx] at own
    exact ⟨_, exec_rdv_meetA ready hx hk, went, solo, own, other, frame⟩
  · obtain ⟨went, solo, own, other, frame⟩ := rdvMet_retires s h (st' := .x) (by rw [ha]; decide)
    rw [ha] at own
    exact ⟨_, exec_rdv_meetX ready ha hk alone, went, solo, own, other, frame⟩

/-! ### The removal of queue entries (R27, R169) -/

/-- Both slots hold the same entries and tokens. -/
structure SameEntries (k k' : Slot) : Prop where
  queue : ∀ e, k'.queue e = k.queue e
  aside : ∀ e, k'.aside e = k.aside e
  tok : k'.tok = k.tok

theorem SameEntries.refl (k : Slot) : SameEntries k k := ⟨fun _ => rfl, fun _ => rfl, rfl⟩

theorem SameEntries.trans {k k' k'' : Slot} (h : SameEntries k k') (h' : SameEntries k' k'') : SameEntries k k'' :=
  ⟨fun e => (h'.queue e).trans (h.queue e), fun e => (h'.aside e).trans (h.aside e), h'.tok.trans h.tok⟩

theorem sameEntries_foldl {α : Type} {f : Slot → α → Slot} (hf : ∀ k x, SameEntries k (f k x)) (l : List α) (k : Slot) :
    SameEntries k (l.foldl f k) := by
  induction l generalizing k with
  | nil => exact .refl k
  | cons x r ih => exact (hf k x).trans (ih _)

theorem sameEntries_updSeq (k : Slot) (st : Stream) (f : Seq → Seq) : SameEntries k (k.updSeq st f) := by
  cases st <;> exact ⟨fun e => by cases e <;> rfl, fun e => by cases e <;> rfl, rfl⟩

theorem sameEntries_untag (k : Slot) (tags : BitVec 16) : SameEntries k (k.untag tags) :=
  ⟨fun e => by cases e <;> rfl, fun e => by cases e <;> rfl, rfl⟩

theorem sameEntries_withCg (k : Slot) (cg : Vector CGrp 8) : SameEntries k { k with cg := cg } :=
  ⟨fun e => by cases e <;> rfl, fun e => by cases e <;> rfl, rfl⟩

theorem sameEntries_landed (k : Slot) (cg : Option (BitVec 3)) (gen n : Nat) : SameEntries k (k.landed cg gen n) := by
  unfold Slot.landed
  split
  · exact .refl k
  · dsimp only
    split
    · exact sameEntries_withCg k _
    · exact .refl k

theorem sameEntries_unpend (k : Slot) (c : Cmd) : SameEntries k (k.unpend c) := by
  unfold Slot.unpend
  split
  · exact .refl k
  · dsimp only
    split
    · exact sameEntries_withCg k _
    · exact .refl k

/-- The effects that the removal of an entry has beside it (R27) touch no queue and no token. -/
theorem sameEntries_cancel (k : Slot) (e : Engine) (c : Cmd) : SameEntries k (k.cancel e c) := by
  unfold Slot.cancel
  have counted := ((sameEntries_untag k c.tags).trans (sameEntries_landed _ (copyGroup c.instr) c.cgGen c.bytes)).trans
    (sameEntries_unpend _ c)
  refine counted.trans (((sameEntries_foldl ?_ _ _).trans (sameEntries_foldl ?_ _ _)).trans (sameEntries_foldl ?_ _ _))
  · exact fun k r => sameEntries_updSeq k _ _
  · exact fun k r => sameEntries_updSeq k _ _
  · exact fun k p => sameEntries_updSeq k _ _

/-- The entries that `QCANCEL` leaves in a list of them. -/
def keepEntries (tag : BitVec 8) (q : List Cmd) : List Cmd := q.filter fun c => !c.cancels tag

theorem cancelAll_entries (k : Slot) (e e' : Engine) (tag : BitVec 8) :
    (k.cancelAll e tag).queue e' = (if e' = e then keepEntries tag (k.queue e) else k.queue e') ∧
    (k.cancelAll e tag).aside e' = (if e' = e then keepEntries tag (k.aside e) else k.aside e') := by
  have same := sameEntries_foldl (fun k c => sameEntries_cancel k e c) (k.cancelled e tag)
    ((k.setQueue e (keepEntries tag (k.queue e))).setAside e (keepEntries tag (k.aside e)))
  refine ⟨(same.queue e').trans ?_, (same.aside e').trans ?_⟩ <;> split
  · next he => rw [he, queue_setAside, queue_setQueue]
  · next he => rw [queue_setAside, queue_setQueue_ne _ _ he]
  · next he => rw [he, aside_setAside]
  · next he => rw [aside_setAside_ne _ _ he, aside_setQueue]

theorem cancelAll_tok (k : Slot) (e : Engine) (tag : BitVec 8) : (k.cancelAll e tag).tok = k.tok := by
  have same := sameEntries_foldl (fun k c => sameEntries_cancel k e c) (k.cancelled e tag)
    ((k.setQueue e (keepEntries tag (k.queue e))).setAside e (keepEntries tag (k.aside e)))
  refine same.tok.trans ?_
  cases e <;> rfl

/-- The slot after `QCANCEL`. -/
def Machine.Slot.afterCancel (k : Slot) (tag : BitVec 8) : Slot :=
  ((k.cancelAll .copy tag).cancelAll .matrix tag).cancelAll .vector tag

theorem afterCancel_entries (k : Slot) (tag : BitVec 8) (e : Engine) :
    (k.afterCancel tag).queue e = keepEntries tag (k.queue e) ∧
    (k.afterCancel tag).aside e = keepEntries tag (k.aside e) := by
  unfold Slot.afterCancel
  cases e <;> simp [cancelAll_entries]

theorem afterCancel_tok (k : Slot) (tag : BitVec 8) : (k.afterCancel tag).tok = k.tok := by
  simp only [Slot.afterCancel, cancelAll_tok]

theorem not_cancels (c : Cmd) (tag : BitVec 8) : (!c.cancels tag) = (c.started || c.hdr.itag != tag) := by
  simp [Cmd.cancels, bne]

theorem regAfter_same {d : Reg} {v old : Word} (hd : d ≠ 0) : regAfter (some (d, v)) d old = v := if_pos ⟨rfl, hd⟩

/-- The state once `QCANCEL` has removed the entries of its tag. -/
def Machine.State.afterCancel (s : State) (tag : BitVec 8) : State := s.updMe fun k => k.afterCancel tag

/-- The numbers of entries removed, as `gD` holds them (R169). -/
def Machine.Slot.cancelCount (k : Slot) (tag : BitVec 8) : Word :=
  cancelCounts (k.cancelled .copy tag).length (k.cancelled .matrix tag).length (k.cancelled .vector tag).length

theorem exec_qcancel {s : State} {h : Hdr} {d : Reg} {tag : BitVec 8} (ready : Ready s h [d] []) :
    exec (.qcancel h d tag) s = .next (((s.afterCancel tag).wg d (s.me.cancelCount tag)).retire h) := by
  change execQcancel h d tag s = _
  unfold execQcancel
  exact issuePure_ready _ ready

theorem afterCancel_me (s : State) (tag : BitVec 8) : (s.afterCancel tag).me = s.me.afterCancel tag := State.me_updMe s _

/-- The retirement of `QCANCEL`, beside the state it makes of the queues. -/
theorem qcancel_retires (s : State) (h : Hdr) (d : Reg) (tag : BitVec 8) (v : Word) :
    Retired (s.afterCancel tag) (((s.afterCancel tag).wg d v).retire h) h s.cur.next (some (d, v)) none ∧
    SlotAs (s.afterCancel tag) (((s.afterCancel tag).wg d v).retire h) (s.me.afterCancel tag) := by
  refine ⟨retired_of_wrote (wrote_wg (s.afterCancel tag) d v), ?_⟩
  rw [← afterCancel_me]
  exact retire_slotAs h (onlyIssuer_updSeq (s.afterCancel tag) _) rfl rfl

theorem slotOf_afterCancel (s t : State) (tag : BitVec 8) : t.slotOf (s.afterCancel tag) = t.slotOf s := rfl

theorem seqOf_afterCancel (s t : State) (tag : BitVec 8) : t.seqOf (s.afterCancel tag) = t.seqOf s := rfl

/-- Settles O20: the entries go by `afterCancel_entries`; then `gD` is written and the instruction retires. -/
theorem queueCancellation : Obligations.QueueCancellation := by
  unfold Obligations.QueueCancellation
  intro s h d tag ready
  obtain ⟨retired, frame⟩ := qcancel_retires s h d tag (s.me.cancelCount tag)
  have ran := exec_qcancel (tag := tag) ready
  generalize ((s.afterCancel tag).wg d (s.me.cancelCount tag)).retire h = t at retired frame ran
  simp only [← not_cancels]
  refine ⟨t, ran, retired.went, ?_, fun e => ⟨?_, ?_⟩, fun hd => ?_, ?_, (onlySlot_updMe s _).trans frame.toOnlySlot rfl⟩
  · rw [← seqOf_afterCancel s t tag, retired.pc]
  · rw [← slotOf_afterCancel s t tag, frame.queue, (afterCancel_entries s.me tag e).1]
    rfl
  · rw [← slotOf_afterCancel s t tag, frame.aside, (afterCancel_entries s.me tag e).2]
    rfl
  · rw [← seqOf_afterCancel s t tag, retired.regs d, regAfter_same hd]
    simp [Slot.cancelCount, cancelCounts, Slot.cancelled, Nat.mul_comm]
  · have tokens := retired.tokens
    rw [afterCancel_me, slotOf_afterCancel] at tokens
    exact ⟨by simpa only [SigFits, afterCancel_tok] using tokens.fits, by simpa only [SigFits, afterCancel_tok] using tokens.full⟩

end Sys2Proof

/-! What the entry of an engine instruction into its queue changes and leaves (R10, R33). -/

namespace Sys2Proof

open Machine

/-! ### The entry of an engine instruction into its queue -/

theorem foldl_twoPow_getLsbD {w : Nat} (ws : List (BitVec w)) (n : Nat) (hn : 2 ^ w ≤ n) (m : BitVec n) (r : BitVec w) :
    (ws.foldl (fun m r => if r = 0 then m else m ||| BitVec.twoPow n r.toNat) m).getLsbD r.toNat =
      (m.getLsbD r.toNat || (r ≠ 0 && ws.contains r)) := by
  induction ws generalizing m with
  | nil => simp
  | cons x xs ih =>
    rw [List.foldl_cons, ih]
    have hr : r.toNat < n := Nat.lt_of_lt_of_le r.isLt hn
    by_cases hx : x = 0#w
    · by_cases h0 : r = 0#w <;> simp [hx, h0]
    · by_cases he : r = x
      · subst he
        simp [hx, hr, BitVec.getElem_twoPow]
      · have hne : r.toNat ≠ x.toNat := fun e => he (BitVec.eq_of_toNat_eq e)
        simp [hx, hr, he, hne, BitVec.getElem_twoPow]

theorem await_awG (q : Seq) (ws : List Reg) (wps : List PReg) (r : Reg) :
    (q.await ws wps).awG.getLsbD r.toNat = (q.awG.getLsbD r.toNat || (r ≠ 0 && ws.contains r)) :=
  foldl_twoPow_getLsbD ws 32 (by decide) q.awG r

theorem await_awP (q : Seq) (ws : List Reg) (wps : List PReg) (r : PReg) :
    (q.await ws wps).awP.getLsbD r.toNat = (q.awP.getLsbD r.toNat || (r ≠ 0 && wps.contains r)) :=
  foldl_twoPow_getLsbD wps 8 (by decide) q.awP r

theorem push_seq (k : Slot) (e : Engine) (c : Cmd) (st : Stream) : (k.push e c).seq st = k.seq st := by
  obtain ⟨ha, hx, -⟩ := push_rest k e c
  cases st
  · exact ha
  · exact hx

theorem push_others (k : Slot) (e : Engine) (c : Cmd) {e' : Engine} (hne : e' ≠ e) :
    (k.push e c).queue e' = k.queue e' ∧ (k.push e c).aside e' = k.aside e' := by
  unfold Slot.push
  dsimp only
  split
  · rw [queue_setAside, aside_setAside_ne _ _ hne]
    cases e' <;> exact ⟨rfl, rfl⟩
  · rw [queue_setQueue_ne _ _ hne, aside_setQueue]
    cases e' <;> exact ⟨rfl, rfl⟩

/-- Where a pushed entry stands: at the tail of the queue, or behind what is set aside (R10, R52). -/
theorem push_tail (k : Slot) (e : Engine) (c : Cmd) :
    if (k.aside e).isEmpty || k.fault.handler then
      (k.push e c).queue e = k.queue e ++ [{ c with num := k.nextCmd }] ∧ (k.push e c).aside e = k.aside e
    else (k.push e c).queue e = k.queue e ∧ (k.push e c).aside e = k.aside e ++ [{ c with num := k.nextCmd }] := by
  unfold Slot.push
  dsimp only
  cases hempty : (k.aside e).isEmpty <;> cases hh : k.fault.handler <;> cases e <;> simp_all [Slot.aside, Slot.queue, Slot.setAside, Slot.setQueue]

/-- A retirement without a token clause leaves the counts. -/
theorem tokens_bare {k k' : Slot} {h : Hdr} (t : Tokens k k' (bareHdr h)) : k'.tok = k.tok := by
  have fits : SigFits k (bareHdr h) := fun i hi => by simp [bareHdr, Hdr.sig] at hi
  ext i hi
  have := t.fits fits ⟨i, hi⟩
  simpa [Vector.get_eq_getElem, bitCount, bareHdr, Hdr.wait, Hdr.sig] using this

/-- The slot once its stream `st` has pushed `c`, whose results it will await. -/
def Machine.Slot.pushed (k : Slot) (st : Stream) (e : Engine) (c : Cmd) (ws : List Reg) (wps : List PReg) : Slot :=
  (k.push e c).updSeq st fun q => q.await ws wps

theorem pushed_queue (k : Slot) (st : Stream) (e : Engine) (c : Cmd) (ws : List Reg) (wps : List PReg) (e' : Engine) :
    (k.pushed st e c ws wps).queue e' = (k.push e c).queue e' ∧
    (k.pushed st e c ws wps).aside e' = (k.push e c).aside e' := by
  have same := sameEntries_updSeq (k.push e c) st fun q => q.await ws wps
  exact ⟨same.queue e', same.aside e'⟩

theorem pushed_tok (k : Slot) (st : Stream) (e : Engine) (c : Cmd) (ws : List Reg) (wps : List PReg) :
    (k.pushed st e c ws wps).tok = k.tok := by
  obtain ⟨-, -, htok, -⟩ := push_rest k e c
  exact (tok_updSeq _ _ _).trans htok

theorem pushed_seq (k : Slot) (st : Stream) (e : Engine) (c : Cmd) (ws : List Reg) (wps : List PReg) :
    (k.pushed st e c ws wps).seq st = (k.seq st).await ws wps := by
  unfold Slot.pushed
  rw [Slot.seq_updSeq_same, push_seq]

theorem pushed_seq_ne (k : Slot) {st st' : Stream} (e : Engine) (c : Cmd) (ws : List Reg) (wps : List PReg)
    (hne : st' ≠ st) : (k.pushed st e c ws wps).seq st' = k.seq st' := by
  unfold Slot.pushed
  rw [Slot.seq_updSeq_ne _ _ hne, push_seq]

/-- The state once the instruction in issue has pushed `c`. -/
def Machine.State.pushed (s : State) (e : Engine) (c : Cmd) (ws : List Reg) (wps : List PReg) : State :=
  (s.updMe fun k => k.push e c).updSeq s.cur.slot s.cur.st fun q => q.await ws wps

theorem pushed_me (s : State) (e : Engine) (c : Cmd) (ws : List Reg) (wps : List PReg) :
    (s.pushed e c ws wps).me = s.me.pushed s.cur.st e c ws wps := by
  have h1 : (s.pushed e c ws wps).me = ((s.updMe fun k => k.push e c).updMe fun k =>
      k.updSeq s.cur.st fun q => q.await ws wps).me := rfl
  rw [h1, State.me_updMe, State.me_updMe]
  rfl

theorem pushed_onlySlot (s : State) (e : Engine) (c : Cmd) (ws : List Reg) (wps : List PReg) :
    OnlySlot s (s.pushed e c ws wps) :=
  (onlySlot_updMe s _).updMe (fun k => k.updSeq s.cur.st fun q => q.await ws wps) rfl

/-- What an entry `c` of the instruction in issue says of it. -/
structure EntryOf (s : State) (c : Cmd) (i : Instr) (ops : List Word) : Prop where
  instr : c.instr = i
  pc : c.pc = s.cur.pc
  ops : c.ops = ops
  started : c.started = false

/-- The push of an entry and the retirement of its instruction (R10, R33). -/
theorem pushed_queued {s : State} {e : Engine} {c : Cmd} {i : Instr} {ops : List Word} (h : Hdr) (ws : List Reg)
    (wps : List PReg) (hc : EntryOf s c i ops) :
    Queued s ((s.pushed e c ws wps).retire (bareHdr h)) e i ops ws wps ∧
    OnlySlot s ((s.pushed e c ws wps).retire (bareHdr h)) := by
  have retired : Retired (s.pushed e c ws wps) ((s.pushed e c ws wps).retire (bareHdr h)) (bareHdr h) s.cur.next
      none none := retired_of_wrote (wrote_refl (s.pushed e c ws wps))
  have frame := retire_slotAs (bareHdr h) (onlyIssuer_refl (s.pushed e c ws wps)) rfl rfl
  have slots : ∀ t : State, t.slotOf (s.pushed e c ws wps) = t.slotOf s := fun _ => rfl
  have seqs : ∀ t : State, t.seqOf (s.pushed e c ws wps) = t.seqOf s := fun _ => rfl
  have mine : (s.pushed e c ws wps).mySeq = s.mySeq.await ws wps := by
    have : (s.pushed e c ws wps).mySeq = (s.pushed e c ws wps).me.seq s.cur.st := rfl
    rw [this, pushed_me, pushed_seq]
    rfl
  have only := (pushed_onlySlot s e c ws wps).trans frame.toOnlySlot rfl
  generalize (s.pushed e c ws wps).retire (bareHdr h) = t at retired frame only
  have queue := frame.queue
  have aside := frame.aside
  have other := frame.other
  have tok := tokens_bare retired.tokens
  have regs := retired.regs
  have preds := retired.preds
  have awG := retired.awaitG
  have awP := retired.awaitP
  have pc := retired.pc
  simp only [pushed_me, slots, seqs, mine, pushed_tok, pushed_queue] at queue aside other tok regs preds awG awP pc
  refine ⟨⟨retired.went, pc, regs, preds, fun r => ?_, fun r => ?_, tok, ?_, fun e' hne => ?_, fun st hst => ?_⟩, only⟩
  · rw [awG, await_awG]
  · rw [awP, await_awP]
  · refine ⟨{ c with num := s.me.nextCmd }, hc.instr, hc.pc, hc.ops, hc.started, rfl, ?_⟩
    rw [queue e, aside e]
    exact push_tail s.me e c
  · rw [queue e', aside e']
    exact push_others s.me e c hne
  · rw [other st hst]
    exact pushed_seq_ne _ _ _ _ _ hst

/-- An engine instruction whose checks at issue end in the entry `c` enters its queue. -/
theorem issueEng_queued {s : State} {e : Engine} {h : Hdr} {gs : List Reg} {ps : List PReg} {ws : List Reg}
    {wps : List PReg} {mk : State → Pushed} {c : Cmd} {i : Instr} {ops : List Word} (r : EngReady s e h gs ps)
    (made : mk s = .cmd s c) (hc : EntryOf s c i ops) :
    ∃ t, s.issueEng e h gs ps ws wps mk = .next t ∧ Queued s t e i ops ws wps ∧ OnlySlot s t := by
  refine ⟨_, ?_, pushed_queued h ws wps hc⟩
  rw [issueEng_ready _ r, made]
  rfl

theorem issueEng_bad {s : State} {e : Engine} {h : Hdr} {gs : List Reg} {ps : List PReg} {ws : List Reg}
    {wps : List PReg} {mk : State → Pushed} {b : Bad} (r : EngReady s e h gs ps) (found : mk s = .bad b) :
    s.issueEng e h gs ps ws wps mk = .next (s.issueFault b 0 s.cur.pc) := by
  rw [issueEng_ready _ r, found]

theorem mkCmd_entryOf (s : State) (i : Instr) (ops : List Word) : EntryOf s (s.mkCmd i ops) i ops := ⟨rfl, rfl, rfl, rfl⟩

end Sys2Proof

/-! The proofs of O29 to O32. The issue of matrix, vector and copy-engine instructions, and BRMZ. -/

namespace Sys2Proof

open Machine

/-! ### Matrix and vector instructions -/

theorem noAcc_none {k : Slot} {accs : List Reg} (h : ∀ n ∈ accs, n.toNat < k.grantA) : k.noAcc accs = none := by
  induction accs with
  | nil => rfl
  | cons n r ih =>
    have hn : n.toNat < k.grantA := h n List.mem_cons_self
    rw [Slot.noAcc, if_neg (by omega)]
    exact ih fun m hm => h m (List.mem_cons_of_mem _ hm)

theorem noAcc_head {k : Slot} {n : Reg} (accs : List Reg) (h : k.grantA ≤ n.toNat) :
    k.noAcc (n :: accs) = some ⟨cSHAPE, 0, n.setWidth 64⟩ := if_pos h

theorem noVreg_none {k : Slot} {vs : List Reg} (h : ∀ n ∈ vs, n.toNat < k.grantV) : k.noVreg vs = none := by
  induction vs with
  | nil => rfl
  | cons n r ih =>
    have hn : n.toNat < k.grantV := h n List.mem_cons_self
    rw [Slot.noVreg, if_neg (by omega)]
    exact ih fun m hm => h m (List.mem_cons_of_mem _ hm)

theorem noVreg_head {k : Slot} {n : Reg} (vs : List Reg) (h : k.grantV ≤ n.toNat) :
    k.noVreg (n :: vs) = some ⟨cSHAPE, 0, n.setWidth 64⟩ := if_pos h

/-- Results of an engine instruction: it only writes the registers `ws`, and no predicate. -/
def Writing (i : Instr) (ws : List Reg) : Prop := (Instr.engOut i).gs = ws ∧ (Instr.engOut i).p = []

section

variable {s : State} {h : Hdr} {named : List Reg}

/-- A matrix instruction whose accumulators are granted enters its queue (R230). -/
theorem matrix_enqueues (ready : EngReady s .matrix h named []) {i : Instr} {accs gs ws : List Reg}
    (e : exec i s = s.issueMatrix i h accs gs) (out : Writing i ws) (hg : gs ++ ws ⊆ named)
    (granted : ∀ n ∈ accs, n.toNat < s.me.grantA) : Enqueues s .matrix i (gs.map s.rg) ws [] := by
  unfold Enqueues
  rw [e]
  unfold State.issueMatrix
  dsimp only
  rw [out.1, out.2]
  refine issueEng_queued (c := s.mkCmd i (gs.map s.rg)) (ready.mono hg (List.Subset.refl _)) ?_ (mkCmd_entryOf _ _ _)
  rw [noAcc_none granted]

theorem matrix_faults (ready : EngReady s .matrix h named []) {i : Instr} {n : Reg} {accs gs ws : List Reg}
    (e : exec i s = s.issueMatrix i h (n :: accs) gs) (out : Writing i ws) (hg : gs ++ ws ⊆ named)
    (beyond : s.me.grantA ≤ n.toNat) : Faults s i cSHAPE 0 (n.setWidth 64) := by
  unfold Faults
  rw [e]
  unfold State.issueMatrix
  dsimp only
  rw [out.1, out.2]
  refine issueEng_bad (ready.mono hg (List.Subset.refl _)) ?_
  rw [noAcc_head accs beyond]

/-- A vector instruction whose vector registers are granted enters its queue (R249). -/
theorem vector_enqueues (ready : EngReady s .vector h named []) {i : Instr} {vs gs ws : List Reg}
    (e : exec i s = s.issueVector i h vs gs) (out : Writing i ws) (hg : gs ++ ws ⊆ named)
    (granted : ∀ n ∈ vs, n.toNat < s.me.grantV) : Enqueues s .vector i (gs.map s.rg) ws [] := by
  unfold Enqueues
  rw [e]
  unfold State.issueVector
  dsimp only
  rw [out.1, out.2]
  refine issueEng_queued (c := s.mkCmd i (gs.map s.rg)) (ready.mono hg (List.Subset.refl _)) ?_ (mkCmd_entryOf _ _ _)
  rw [noVreg_none granted]

theorem vector_faults (ready : EngReady s .vector h named []) {i : Instr} {n : Reg} {vs gs ws : List Reg}
    (e : exec i s = s.issueVector i h (n :: vs) gs) (out : Writing i ws) (hg : gs ++ ws ⊆ named)
    (beyond : s.me.grantV ≤ n.toNat) : Faults s i cSHAPE 0 (n.setWidth 64) := by
  unfold Faults
  rw [e]
  unfold State.issueVector
  dsimp only
  rw [out.1, out.2]
  refine issueEng_bad (ready.mono hg (List.Subset.refl _)) ?_
  rw [noVreg_head vs beyond]

/-- A copy-engine instruction that touches no memory enters its queue (R201). -/
theorem copy_enqueues (ready : EngReady s .copy h named []) {i : Instr} {gs ws : List Reg} {ops : List Word}
    {mk : State → Pushed} {td : TDesc} (e : exec i s = s.issueCopy i h gs mk) (out : Writing i ws) (hg : gs ++ ws ⊆ named)
    (made : mk s = s.pushPlain i ops td) : Enqueues s .copy i ops ws [] := by
  unfold Enqueues
  rw [e]
  unfold State.issueCopy
  dsimp only
  rw [out.1, out.2]
  exact issueEng_queued (c := { s.mkCmd i ops with td := td }) (ready.mono hg (List.Subset.refl _)) made ⟨rfl, rfl, rfl, rfl⟩

theorem plainCopy_enqueues (ready : EngReady s .copy h named []) {i : Instr} {gs ws : List Reg} {td : TDesc}
    (e : exec i s = s.issueCopy i h gs fun t => t.pushPlain i (gs.map t.rg) td) (out : Writing i ws)
    (hg : gs ++ ws ⊆ named) : Enqueues s .copy i (gs.map s.rg) ws [] := copy_enqueues ready e out hg rfl

end

/-- Settles O29: each instruction is `issueMatrix` of its accumulators and registers. -/
theorem matrixInstructionsQueue : Obligations.MatrixInstructionsQueue := by
  unfold Obligations.MatrixInstructionsQueue
  intro s h fa fb sr k n d e x y fmt part f1 seed lo hi sigma
  dsimp only
  intro ready
  have nil : [] ++ [] ⊆ [x, y] := by simp
  have only_x : [x] ++ [] ⊆ [x, y] := by simp
  have both : [x, y] ++ [] ⊆ [x, y] := by simp
  refine ⟨?_, ?_, fun hd he => ?_⟩
  · have none : ∀ m ∈ ([] : List Reg), m.toNat < s.me.grantA := by simp
    exact ⟨matrix_enqueues ready (gs := []) rfl ⟨rfl, rfl⟩ nil none, matrix_enqueues ready (gs := []) rfl ⟨rfl, rfl⟩ nil none,
      matrix_enqueues ready (gs := []) rfl ⟨rfl, rfl⟩ nil none,
      matrix_enqueues ready (gs := [y]) rfl ⟨rfl, rfl⟩ (by simp) none,
      matrix_enqueues ready (gs := [x]) rfl ⟨rfl, rfl⟩ only_x none⟩
  · split
    · next hn =>
      have one : ∀ m ∈ [n], m.toNat < s.me.grantA := by simpa using hn
      exact ⟨matrix_enqueues ready (gs := []) rfl ⟨rfl, rfl⟩ nil one, matrix_enqueues ready (gs := [x, y]) rfl ⟨rfl, rfl⟩ both one,
        matrix_enqueues ready (gs := [x]) rfl ⟨rfl, rfl⟩ only_x one, matrix_enqueues ready (gs := [x]) rfl ⟨rfl, rfl⟩ only_x one,
        matrix_enqueues ready (gs := [x]) rfl ⟨rfl, rfl⟩ only_x one, matrix_enqueues ready (gs := [x]) rfl ⟨rfl, rfl⟩ only_x one⟩
    · next hn =>
      have beyond : s.me.grantA ≤ n.toNat := by omega
      exact ⟨matrix_faults ready (gs := [x, y]) rfl ⟨rfl, rfl⟩ both beyond,
        matrix_faults ready (gs := []) rfl ⟨rfl, rfl⟩ nil beyond⟩
  · have two : ∀ m ∈ [d, e], m.toNat < s.me.grantA := by simp [hd, he]
    exact ⟨matrix_enqueues ready (gs := [x]) rfl ⟨rfl, rfl⟩ only_x two, matrix_enqueues ready (gs := []) rfl ⟨rfl, rfl⟩ nil two,
      matrix_enqueues ready (gs := []) rfl ⟨rfl, rfl⟩ nil two⟩

/-- Settles O30: each instruction is `issueVector` of its vector registers, and names no other. -/
theorem vectorLaneInstructionsQueue : Obligations.VectorLaneInstructionsQueue := by
  unfold Obligations.VectorLaneInstructionsQueue
  intro s h d a b k m c ew w u sat fr tgt ready
  dsimp only
  have lane : ∀ {i : Instr} {vs : List Reg}, exec i s = s.issueVector i h vs [] → Writing i [] →
      (∀ n ∈ vs, n.toNat < s.me.grantV) → Enqueues s .vector i [] [] [] :=
    fun e out granted => vector_enqueues ready (gs := []) e out (List.nil_subset _) granted
  refine ⟨fun hd ha hb => ?_, fun beyond => ⟨?_, ?_⟩⟩
  · have dab : ∀ n ∈ [d, a, b], n.toNat < s.me.grantV := by simp [hd, ha, hb]
    have da : ∀ n ∈ [d, a], n.toNat < s.me.grantV := by simp [hd, ha]
    have ab : ∀ n ∈ [a, b], n.toNat < s.me.grantV := by simp [ha, hb]
    exact ⟨lane rfl ⟨rfl, rfl⟩ dab, lane rfl ⟨rfl, rfl⟩ dab, lane rfl ⟨rfl, rfl⟩ dab, lane rfl ⟨rfl, rfl⟩ dab,
      lane rfl ⟨rfl, rfl⟩ dab, lane rfl ⟨rfl, rfl⟩ dab, lane rfl ⟨rfl, rfl⟩ dab, lane rfl ⟨rfl, rfl⟩ da,
      lane rfl ⟨rfl, rfl⟩ da, lane rfl ⟨rfl, rfl⟩ da, lane rfl ⟨rfl, rfl⟩ da, lane rfl ⟨rfl, rfl⟩ da,
      lane rfl ⟨rfl, rfl⟩ da, lane rfl ⟨rfl, rfl⟩ dab, lane rfl ⟨rfl, rfl⟩ ab, lane rfl ⟨rfl, rfl⟩ dab,
      lane rfl ⟨rfl, rfl⟩ dab, lane rfl ⟨rfl, rfl⟩ dab, lane rfl ⟨rfl, rfl⟩ dab, lane rfl ⟨rfl, rfl⟩ dab,
      lane rfl ⟨rfl, rfl⟩ dab, lane rfl ⟨rfl, rfl⟩ dab, lane rfl ⟨rfl, rfl⟩ dab, lane rfl ⟨rfl, rfl⟩ dab,
      lane rfl ⟨rfl, rfl⟩ dab, lane rfl ⟨rfl, rfl⟩ dab, lane rfl ⟨rfl, rfl⟩ da⟩
  · exact vector_faults ready (gs := []) (ws := []) rfl ⟨rfl, rfl⟩ (List.nil_subset _) beyond
  · exact vector_faults ready (gs := []) (ws := []) rfl ⟨rfl, rfl⟩ (List.nil_subset _) beyond

/-! ### BRMZ -/

theorem brmz_waits {s : State} {h : Hdr} {neg : Bool} {off : BitVec 13} {syl : BitVec 4} (ready : Ready s h [] [])
    (owed : (s.me.vq ++ s.me.vAside).any Cmd.writesMask = true) : Stalls s (.brmz h neg off syl) := by
  change execBrmz h neg off syl s = _
  unfold execBrmz
  refine issueSeq_stall ready ?_
  exact if_pos owed

theorem brmz_branches {s : State} {h : Hdr} {neg : Bool} {off : BitVec 13} {syl : BitVec 4} (ready : Ready s h [] [])
    (quiet : ¬ (s.me.vq ++ s.me.vAside).any Cmd.writesMask = true) (taken : (s.me.top == 0) ≠ neg) :
    Completes s (.brmz h neg off syl) h (s.target off syl) none none := by
  change ∃ t, execBrmz h neg off syl s = .next t ∧ _
  unfold execBrmz
  refine issueSeq_done (u := s.branch (s.target off syl)) ready ?_ (wrote_branch _ _) (onlyIssuer_branch _ _)
  rw [if_neg quiet, if_pos (by simpa using taken)]

theorem brmz_passes {s : State} {h : Hdr} {neg : Bool} {off : BitVec 13} {syl : BitVec 4} (ready : Ready s h [] [])
    (quiet : ¬ (s.me.vq ++ s.me.vAside).any Cmd.writesMask = true) (passed : (s.me.top == 0) = neg) :
    Completes s (.brmz h neg off syl) h s.cur.next none none := by
  change ∃ t, execBrmz h neg off syl s = .next t ∧ _
  unfold execBrmz
  refine issueSeq_done (u := s) ready ?_ (wrote_refl s) (onlyIssuer_refl s)
  rw [if_neg quiet, if_neg (by simpa using passed)]

/-- Settles O31: the vector instructions as in O30, with the registers they carry; BRMZ by the queue and the mask stack. -/
theorem vectorMoveInstructionsQueue : Obligations.VectorMoveInstructionsQueue := by
  unfold Obligations.VectorMoveInstructionsQueue
  intro s h d a b x y k o iw u aw sat neg off syl
  simp only [← branchTarget_eq_ofInt]
  refine ⟨fun ready hd ha hb => ?_, fun ready => ?_, fun ready => ?_⟩
  · have hd1 : ∀ n ∈ [d], n.toNat < s.me.grantV := by simp [hd]
    have ha1 : ∀ n ∈ [a], n.toNat < s.me.grantV := by simp [ha]
    have da : ∀ n ∈ [d, a], n.toNat < s.me.grantV := by simp [hd, ha]
    have db : ∀ n ∈ [d, b], n.toNat < s.me.grantV := by simp [hd, hb]
    have dab : ∀ n ∈ [d, a, b], n.toNat < s.me.grantV := by simp [hd, ha, hb]
    have nil : [] ++ [] ⊆ [x, y] := by simp
    have only_x : [x] ++ [] ⊆ [x, y] := by simp
    have both : [x, y] ++ [] ⊆ [x, y] := by simp
    exact ⟨vector_enqueues ready (gs := []) rfl ⟨rfl, rfl⟩ nil da, vector_enqueues ready (gs := []) rfl ⟨rfl, rfl⟩ nil da,
      vector_enqueues ready (gs := [x]) rfl ⟨rfl, rfl⟩ only_x hd1, vector_enqueues ready (gs := [x]) rfl ⟨rfl, rfl⟩ only_x da,
      vector_enqueues ready (gs := []) rfl ⟨rfl, rfl⟩ nil dab, vector_enqueues ready (gs := [x]) rfl ⟨rfl, rfl⟩ only_x da,
      vector_enqueues ready (gs := [x]) rfl ⟨rfl, rfl⟩ only_x hd1, vector_enqueues ready (gs := []) rfl ⟨rfl, rfl⟩ nil da,
      vector_enqueues ready (gs := []) rfl ⟨rfl, rfl⟩ nil da, vector_enqueues ready (gs := [x, y]) rfl ⟨rfl, rfl⟩ both hd1,
      vector_enqueues ready (gs := [x]) rfl ⟨rfl, rfl⟩ only_x db, vector_enqueues ready (gs := [x, y]) rfl ⟨rfl, rfl⟩ both ha1,
      vector_enqueues ready (gs := [x, y]) rfl ⟨rfl, rfl⟩ both hd1,
      vector_enqueues ready (gs := [y]) rfl ⟨rfl, rfl⟩ (by simp) ha1⟩
  · have none : ∀ n ∈ ([] : List Reg), n.toNat < s.me.grantV := by simp
    exact ⟨vector_enqueues ready (gs := []) rfl ⟨rfl, rfl⟩ (by simp) none,
      vector_enqueues ready (gs := []) rfl ⟨rfl, rfl⟩ (by simp) none,
      vector_enqueues ready (gs := []) rfl ⟨rfl, rfl⟩ (by simp) none⟩
  · split
    · next owed => exact brmz_waits ready owed
    · next quiet =>
      split
      · next passed => exact brmz_passes ready quiet passed
      · next taken => exact brmz_branches ready quiet taken

/-- Settles O32: each instruction is `issueCopy` of a plain push. -/
theorem plainCopyInstructionsQueue : Obligations.PlainCopyInstructionsQueue := by
  unfold Obligations.PlainCopyInstructionsQueue
  intro s h d a b k sel disc n td
  dsimp only
  intro ready
  have reads_a : [a] ++ [] ⊆ [d, a, b] := by simp
  have reads_ab : [a, b] ++ [] ⊆ [d, a, b] := by simp
  have gives_d : [a] ++ [d] ⊆ [d, a, b] := by simp
  refine ⟨plainCopy_enqueues ready (gs := [a]) rfl ⟨rfl, rfl⟩ reads_a, plainCopy_enqueues ready (gs := [a]) rfl ⟨rfl, rfl⟩ reads_a,
    plainCopy_enqueues ready (gs := [a, b]) rfl ⟨rfl, rfl⟩ reads_ab, plainCopy_enqueues ready (gs := [a]) rfl ⟨rfl, rfl⟩ reads_a,
    plainCopy_enqueues ready (gs := [a]) rfl ⟨rfl, rfl⟩ gives_d, plainCopy_enqueues ready (gs := [a]) rfl ⟨rfl, rfl⟩ gives_d,
    plainCopy_enqueues ready (gs := [a]) rfl ⟨rfl, rfl⟩ gives_d, fun nb held fits => ?_⟩
  have out : Writing (.talloc h d a b disc n) [d] := ⟨rfl, by simp [Instr.engOut, nbPred, nb]⟩
  have tid : tidOf (s.rg a) = (s.rg a).toNat % 65536 := by simp [tidOf, bits]
  have ran : exec (.talloc h d a b disc n) s = execTalloc h d a b disc n s := rfl
  unfold execTalloc at ran
  refine copy_enqueues ready (td := td) ran out (by simp) ?_
  simp only [tid, held, fits]
  rfl

end Sys2Proof

/-! The proof of O5. A granted turn, from the agenda to the instruction. -/

namespace Sys2Proof

open Machine

/-! ### A granted turn -/

theorem step_grant {s : State} {core : Nat} {st : Stream} {r : List Turn} (h : s.agenda = .grant core st :: r) :
    step s = State.grant { s with agenda := r } core st := by
  unfold step State.advance State.nextTurn
  rw [h]
  rfl

theorem grant_issue {s t : State} {core slot : Nat} {st : Stream}
    (h : s.arbitrate core (arbOf st) (s.seqRequesters core st) = some (t, slot)) : s.grant core st = t.issue slot st := by
  simp only [State.grant, h]

/-- The state in which a granted sequencer has pushed the SIG masks it held (R12). -/
def Machine.State.retried (t : State) (slot : Nat) (st : Stream) : State :=
  t.updSlot slot fun k => k.retrySigs st (k.seq st).held

theorem issue_a {t : State} {slot : Nat} (held : ((t.retried slot .a).slotAt slot).a.held = [])
    (due : (t.retried slot .a).deliverable slot = false) : t.issue slot .a = (t.retried slot .a).issueA slot := by
  have pushed : (((t.retried slot .a).slotAt slot).seq .a).held = [] := held
  change (if !(((t.retried slot .a).slotAt slot).seq .a).held.isEmpty then _
    else if (t.retried slot .a).deliverable slot then _ else (t.retried slot .a).issueA slot) = _
  rw [pushed, due]
  rfl

theorem issue_x {t : State} {slot : Nat} (held : ((t.retried slot .x).slotAt slot).x.held = []) :
    t.issue slot .x = (t.retried slot .x).issueX slot := by
  have pushed : (((t.retried slot .x).slotAt slot).seq .x).held = [] := held
  change (if !(((t.retried slot .x).slotAt slot).seq .x).held.isEmpty then _ else (t.retried slot .x).issueX slot) = _
  rw [pushed]
  rfl

/-- A-seq runs what it fetches; only from MEET with X-seq waiting may a bundle follow in the same step (R15, R144). -/
theorem issueA_runs {s : State} {slot : Nat} {f : Fetched} (hf : s.fetchAt slot .a (s.slotAt slot).a.pc = .ok f)
    (hst : (s.slotAt slot).st ≠ .meetX) :
    s.issueA slot = exec f.instr (s.begin slot .a f.pc f.next f.pc (s.slotAt slot).a) := by
  have stays : ∀ t, s.handOver t slot = false := fun t => by simp [State.handOver, hst]
  unfold State.issueA
  simp only [hf, stays]
  cases exec f.instr (s.begin slot .a f.pc f.next f.pc (s.slotAt slot).a) <;> rfl

/-- A bundle of one instruction is that instruction. -/
theorem runBundle_one (s : State) (slot : Nat) (bundle : Word) (q : Seq) (f : Fetched) :
    s.runBundle s slot bundle q [f] = exec f.instr (s.begin slot .x f.pc f.next bundle q) := by
  unfold State.runBundle
  cases hx : exec f.instr (s.begin slot .x f.pc f.next bundle q) with
  | next t =>
    by_cases ht : t.cur.went = .retired
    · simp only [ht, if_true, State.runBundle]
    · simp only [ht, if_false]
  | fault e => rfl
  | refused e => rfl

theorem issueX_runs {s : State} {slot : Nat} {f : Fetched} (hf : s.fetchBundle slot (s.slotAt slot).x.pc = .ok [f])
    (hd : Instr.isDrain f.instr = false) :
    s.issueX slot = exec f.instr (s.begin slot .x f.pc f.next (s.slotAt slot).x.pc (s.slotAt slot).x) := by
  have unmarked : ∀ u : State, u.markDrain slot [f] = u := fun u => by simp [State.markDrain, hd]
  unfold State.issueX
  simp only [hf, unmarked, runBundle_one]
  rfl

/-- Settles O5: the turn is the grant, the grant the issue of the chosen slot, the issue exec of what is fetched. -/
theorem stepRunsTheInstruction : Obligations.StepRunsTheInstruction := by
  unfold Obligations.StepRunsTheInstruction
  intro s core slot r t f
  refine ⟨fun hg ha held due hst hf hpc => ?_, fun hg ha held hf hd => ?_⟩
  · exact (step_grant hg).trans ((grant_issue ha).trans ((issue_a held due).trans ((issueA_runs hf hst).trans (by rw [hpc]; rfl))))
  · exact (step_grant hg).trans ((grant_issue ha).trans ((issue_x held).trans (issueX_runs hf hd)))

end Sys2Proof

/-! The proof of O52. The steps of the engines. -/

namespace Sys2Proof

open Machine

/-! ### COMMAND_START -/

/-- What changes in a slot changes nothing else. -/
theorem updSlot_package (s : State) (n : Nat) (f : Slot → Slot) : { s.updSlot n f with slots := s.slots } = s := rfl

/-- A search along distinct numbers of which one alone has a value. -/
theorem filterMap_only {α : Type} {f : Nat → Option α} {n : Nat} {v : α} (l : List Nat) (hn : n ∈ l) (hd : l.Nodup)
    (hv : f n = some v) (ho : ∀ m ∈ l, m ≠ n → f m = none) : l.filterMap f = [v] := by
  induction l with
  | nil => cases hn
  | cons m r ih =>
    obtain ⟨hm, hr⟩ := List.nodup_cons.1 hd
    by_cases he : m = n
    · subst he
      have rest : r.filterMap f = [] := List.filterMap_eq_nil_iff.2 fun x hx =>
        ho x (List.mem_cons_of_mem _ hx) fun e => hm (e ▸ hx)
      rw [List.filterMap_cons_some hv, rest]
    · rw [List.filterMap_cons_none (ho m List.mem_cons_self he)]
      exact ih ((List.mem_cons.1 hn).resolve_left fun e => he e.symm) hr fun x hx => ho x (List.mem_cons_of_mem _ hx)

theorem findSome_only {α : Type} {f : Nat → Option α} {n : Nat} {v : α} (l : List Nat) (hn : n ∈ l)
    (hv : f n = some v) (ho : ∀ m ∈ l, m ≠ n → f m = none) : l.findSome? f = some v := by
  induction l with
  | nil => cases hn
  | cons m r ih =>
    by_cases he : m = n
    · subst he
      exact List.findSome?_cons_of_isSome (by rw [hv]; rfl) |>.trans hv
    · rw [List.findSome?_cons, ho m List.mem_cons_self he]
      exact ih ((List.mem_cons.1 hn).resolve_left fun e => he e.symm) fun x hx => ho x (List.mem_cons_of_mem _ hx)

theorem upto_nodup (n a : Nat) : (upto n a).Nodup := by
  induction n generalizing a with
  | zero => exact List.nodup_nil
  | succ n ih => exact List.nodup_cons.2 ⟨fun h => by have := mem_upto.1 h; omega, ih _⟩

theorem countWait_not_waits {s : State} {core slot : Nat} {h : Head} (hw : h.waits = false) : s.countWait core slot h = s := by
  cases h with
  | wait => cases hw
  | _ => rfl

theorem startable_updCore (s : State) (core : Nat) (f : Core → Core) (e : Engine) (n : Nat) :
    (s.updCore core f).startable e n = s.startable e n := rfl

/-- What an arbiter answers: one of the slots it is asked about, its own record alone changed. -/
theorem arbitrate_updCore {s u : State} {core n : Nat} {i : ArbId} {slots : List Nat}
    (h : s.arbitrate core i slots = some (u, n)) : ∃ a, u = s.updCore core fun c => c.setArb i a := by
  unfold State.arbitrate at h
  dsimp only at h
  split at h
  · cases h
  · next a m _ =>
    obtain ⟨hu, -⟩ := Prod.mk.inj (Option.some.inj h)
    exact ⟨a, hu.symm⟩

/-- Where one slot alone has an entry that may start, and does not wait, the engine starts that entry (R22). -/
theorem commandStart_only {s u : State} {core n : Nat} {e : Engine} {c : Cmd} (hn : n ∈ slotsOf core)
    (hc : s.startable e n = some c) (ho : ∀ m ∈ slotsOf core, m ≠ n → s.startable e m = none)
    (ha : s.arbitrate core (arbOfEngine e) [n] = some (u, n)) (hw : (s.headOf e n c).waits = false) :
    exec (.commandStart core e) s = u.startHead e n c := by
  have cands : (slotsOf core).filterMap (fun m => (s.startable e m).map fun c => (m, c)) = [(n, c)] :=
    filterMap_only _ hn (upto_nodup _ _) (by rw [hc]; rfl) fun m hm hne => by rw [ho m hm hne]; rfl
  obtain ⟨a, rfl⟩ := arbitrate_updCore ha
  change execCommandStart core e s = _
  unfold execCommandStart
  simp only [cands, List.foldl_cons, List.foldl_nil, countWait_not_waits hw, List.filter_cons, hw, List.filter_nil,
    Bool.not_false, if_true, List.map_cons, List.map_nil, ha, startable_updCore, hc]

theorem popTok_setHead (k : Slot) (e : Engine) (m : BitVec 8) (c : Cmd) :
    ((k.popTok m).setHead e c).queue e = c :: (k.queue e).tail ∧ ((k.popTok m).setHead e c).tok = (k.popTok m).tok := by
  cases e <;> exact ⟨rfl, rfl⟩

/-- The start of a head entry (R12). -/
theorem started_effect (t : State) (e : Engine) (n : Nat) (d : Cmd) :
    ((t.started e n d).slotAt n).queue e = { d with started := true } :: ((t.slotAt n).queue e).tail ∧
    (∀ i : Fin 8, ((t.started e n d).slotAt n).tok.get i = (t.slotAt n).tok.get i - bitCount d.hdr.wait i) ∧
    (∀ m, m ≠ n → (t.started e n d).slotAt m = t.slotAt m) ∧ { t.started e n d with slots := t.slots } = t := by
  have hslot : (t.started e n d).slotAt n = ((t.slotAt n).popTok d.wait).setHead e { d with started := true } :=
    State.slotAt_updSlot_same t n _
  obtain ⟨queue, tok⟩ := popTok_setHead (t.slotAt n) e d.wait { d with started := true }
  refine ⟨by rw [hslot, queue], fun i => ?_, fun m hm => State.slotAt_updSlot_ne t _ hm, updSlot_package t n _⟩
  rw [hslot, tok, get_popTok]
  rfl

/-! ### COMMAND_FINISH -/

theorem pushTok_dropHead (k : Slot) (e : Engine) (m : BitVec 8) :
    ((k.pushTok m).dropHead e).queue e = (k.queue e).tail ∧ ((k.pushTok m).dropHead e).tok = (k.pushTok m).tok := by
  cases e <;> exact ⟨rfl, rfl⟩

/-- The end of an entry whose SIG fits (R12). -/
theorem leaveQueue_effect {s : State} {e : Engine} {n : Nat} {c : Cmd} (hr : c.recorded = false)
    (fits : (s.slotAt n).tokFits c.hdr.sig = true) :
    ((s.leaveQueue e n c).slotAt n).queue e = ((s.slotAt n).queue e).tail ∧
    (∀ i : Fin 8, ((s.leaveQueue e n c).slotAt n).tok.get i = (s.slotAt n).tok.get i + bitCount c.hdr.sig i) ∧
    (∀ m, m ≠ n → (s.leaveQueue e n c).slotAt m = s.slotAt m) ∧ { s.leaveQueue e n c with slots := s.slots } = s := by
  have sig : c.sigLeft = c.hdr.sig := by simp [Cmd.sigLeft, hr]
  have hslot : (s.leaveQueue e n c).slotAt n = ((s.slotAt n).pushTok c.hdr.sig).dropHead e := by
    refine (State.slotAt_updSlot_same s n _).trans ?_
    rw [sig, if_pos fits]
  obtain ⟨queue, tok⟩ := pushTok_dropHead (s.slotAt n) e c.hdr.sig
  refine ⟨by rw [hslot, queue], fun i => ?_, fun m hm => State.slotAt_updSlot_ne s _ hm, updSlot_package s n _⟩
  rw [hslot, tok, get_pushTok]

theorem exec_commandFinish {s t : State} {core : Nat} {e : Engine}
    (found : (slotsOf core).findSome? (s.finishHead e) = some t) : exec (.commandFinish core e) s = .next t := by
  change execCommandFinish core e s = _
  unfold execCommandFinish
  rw [found]

theorem finishHead_ended {s : State} {e : Engine} {n : Nat} {c : Cmd} {rest : List Cmd}
    (hq : (s.slotAt n).queue e = c :: rest) (hs : c.started = true) (he : c.ended = true) (hr : c.recorded = false)
    (fits : (s.slotAt n).tokFits c.hdr.sig = true) : s.finishHead e n = some (s.leaveQueue e n c) := by
  have sig : c.sigLeft = c.hdr.sig := by simp [Cmd.sigLeft, hr]
  unfold State.finishHead
  simp [hq, hs, he, sig, fits]

/-! ### Lines -/

/-- LINE_LAND where one copy alone moves and its next line can land (R54). -/
theorem landNext_only {s t : State} {core n : Nat} {c d : Cmd} (l : List Nat) (hn : n ∈ l) (hm : s.moving n = some c)
    (ho : ∀ m ∈ l, m ≠ n → s.moving m = none) (moved : s.moveNext n c = .ok t d) :
    s.landNext core l = .next (t.updSlot n fun k => k.setHead .copy d) := by
  induction l with
  | nil => cases hn
  | cons m r ih =>
    unfold State.landNext
    by_cases he : m = n
    · subst he
      simp only [hm, moved]
    · simp only [ho m List.mem_cons_self he]
      exact ih ((List.mem_cons.1 hn).resolve_left fun e => he e.symm) fun x hx => ho x (List.mem_cons_of_mem _ hx)

theorem setHome_slots (s : State) (l : Loc) (b : Byte) : (s.setHome l b).slots = s.slots := by
  unfold State.setHome
  split <;> rfl

theorem setHomes_slots (s : State) (l : List (Loc × Byte)) : (s.setHomes l).slots = s.slots := by
  induction l generalizing s with
  | nil => rfl
  | cons x r ih => exact (ih _).trans (setHome_slots s _ _)

theorem wrVirt_slotAt (s : State) (asid va : Nat) (l : List Byte) (n : Nat) : (s.wrVirt asid va l).slotAt n = s.slotAt n := by
  unfold State.wrVirt
  split
  · exact congrArg (fun m => SMap.get m {} n) (setHomes_slots _ _)
  · rfl

/-- The state once the bytes of the next sent line of a copy stand at their destination (R215). -/
def Machine.State.lineWritten (s : State) (n : Nat) (c : Cmd) : State :=
  s.wrVirt (s.slotAt n).task.asid (c.opN 0 + 128 * c.done)
    (leBytes (min 128 (c.opN 2 - 128 * c.done)) (SMap.get c.buf 0 c.done).toNat)

/-- A copy with one more line performed. -/
def Machine.Cmd.counted (c : Cmd) : Cmd := { c with done := c.done + 1, buf := SMap.erase c.buf c.done }

/-- The counts of the copy group a performed line lands in (R55). -/
def Machine.Slot.lineLanded (k : Slot) (c : Cmd) : Slot :=
  k.landed (copyGroup c.instr) c.cgGen (min 128 (c.opN 2 - 128 * c.done))

theorem performLine_eq (s : State) (n : Nat) (c : Cmd) :
    s.performLine n c = ((s.lineWritten n c).updSlot n fun k => k.lineLanded c, c.counted) := rfl

theorem lineLanded_lists (k : Slot) (c : Cmd) : (k.lineLanded c).cq = k.cq ∧ (k.lineLanded c).flight = k.flight := by
  unfold Slot.lineLanded Slot.landed
  split
  · exact ⟨rfl, rfl⟩
  · dsimp only
    split <;> exact ⟨rfl, rfl⟩

/-- A line performed, and what is made of the slot after it. -/
theorem slotAt_after_line (s : State) (n : Nat) (c : Cmd) (f : Slot → Slot) :
    (((s.lineWritten n c).updSlot n fun k => k.lineLanded c).updSlot n f).slotAt n = f ((s.slotAt n).lineLanded c) := by
  rw [State.slotAt_updSlot_same, State.slotAt_updSlot_same, State.lineWritten, wrVirt_slotAt]

theorem memories_after_line (s : State) (n : Nat) (c : Cmd) (f : Slot → Slot) :
    (((s.lineWritten n c).updSlot n fun k => k.lineLanded c).updSlot n f).mem = (s.lineWritten n c).mem ∧
    (((s.lineWritten n c).updSlot n fun k => k.lineLanded c).updSlot n f).host = (s.lineWritten n c).host := by
  simp

/-- LINE_PERFORMED with nothing in flight: the copy at the head performs its next line (R339). -/
theorem linePerformed_head {s : State} {n : Nat} {c : Cmd} {rest : List Cmd} (hp : s.performable n c = true)
    (hf : (s.slotAt n).flight = []) (hq : (s.slotAt n).cq = c :: rest) :
    ∃ r, exec (.linePerformed n) s = .next r ∧ r.mem = (s.lineWritten n c).mem ∧ r.host = (s.lineWritten n c).host ∧
      (r.slotAt n).cq = c.counted :: rest := by
  obtain ⟨mem, host⟩ := memories_after_line s n c fun k => k.setHead .copy c.counted
  refine ⟨_, ?_, mem, host, ?_⟩
  · change execLinePerformed n s = _
    unfold execLinePerformed
    simp only [hf, State.performNext, hq, hp, if_true, performLine_eq]
  · rw [slotAt_after_line]
    change c.counted :: ((s.slotAt n).lineLanded c).cq.tail = _
    rw [(lineLanded_lists _ c).1, hq]
    rfl

/-- A slot once its oldest copy in flight, now `c`, has performed a line: with its last it leaves the list (R115, R339). -/
def Machine.Slot.flown (k : Slot) (c : Cmd) (rest : List Cmd) : Slot :=
  if c.done < c.sent then { k with flight := c :: rest } else { k.untag c.tags with flight := rest }

theorem flown_lists (k : Slot) (c : Cmd) (rest : List Cmd) :
    (k.flown c rest).cq = k.cq ∧ (k.flown c rest).flight = if c.done < c.sent then c :: rest else rest := by
  unfold Slot.flown
  split <;> exact ⟨rfl, rfl⟩

/-- LINE_PERFORMED of the oldest copy in flight: it leaves the list with its last line (R115, R339). -/
theorem linePerformed_flight {s : State} {n : Nat} {c : Cmd} {rest : List Cmd} (hp : s.performable n c = true)
    (hf : (s.slotAt n).flight = c :: rest) :
    ∃ r, exec (.linePerformed n) s = .next r ∧ r.mem = (s.lineWritten n c).mem ∧ r.host = (s.lineWritten n c).host ∧
      (r.slotAt n).cq = (s.slotAt n).cq ∧
      (r.slotAt n).flight = if c.done + 1 < c.sent then c.counted :: rest else rest := by
  obtain ⟨mem, host⟩ := memories_after_line s n c fun k => k.flown c.counted rest
  refine ⟨_, ?_, mem, host, ?_, ?_⟩
  · change execLinePerformed n s = _
    unfold execLinePerformed
    simp only [hf, State.performNext, hp, if_true, performLine_eq]
    rfl
  · rw [slotAt_after_line, (flown_lists _ _ _).1, (lineLanded_lists _ c).1]
  · rw [slotAt_after_line, (flown_lists _ _ _).2]
    rfl

/-- A SETTLING tile on which nothing is in flight becomes FREE, its serial kept (R46). -/
theorem tileFree_frees {s : State} {core idx : Nat} (hst : (s.tileAt core idx).st = .settling)
    (quiet : s.inFlight (mkHandle core (s.tileAt core idx).owner idx (s.tileAt core idx).serial) = false) :
    exec (.tileFree core idx) s = .next (s.updTile core idx fun t => { serial := t.serial }) := by
  change execTileFree core idx s = _
  unfold execTileFree
  dsimp only
  rw [if_pos ⟨hst, by simp [quiet]⟩]
  rfl

/-- Settles O52: one event of the engines at a time. -/
theorem engineStepsHappen : Obligations.EngineStepsHappen := by
  unfold Obligations.EngineStepsHappen
  intro s t u core n idx e c d rest hn
  refine ⟨fun hc ho ha hw hd => ?_, fun hq hs he hr fits ho => ?_, fun hm ho moved => ?_, fun hp => ⟨?_, ?_⟩, tileFree_frees⟩
  · refine ⟨t.started e n d, ?_, started_effect t e n d⟩
    rw [commandStart_only hn hc ho ha hw]
    simp only [State.startHead, hd]
  · obtain ⟨queue, tokens, others, package⟩ := leaveQueue_effect (e := e) hr fits
    refine ⟨s.leaveQueue e n c, ?_, by rw [queue, hq]; rfl, tokens, others, package⟩
    exact exec_commandFinish (findSome_only _ hn (finishHead_ended hq hs he hr fits) ho)
  · exact landNext_only _ hn hm ho moved
  · exact linePerformed_head hp
  · exact linePerformed_flight hp

end Sys2Proof

/-! The proof of O48. Lanes of a vector register, and what a vector command leaves in them. -/

namespace Sys2Proof

open Machine

/-! ### Lanes of a vector register -/

theorem packBits_lane (w : Nat) (l : List Nat) (i : Nat) (hi : i < l.length) :
    packBits w l / 2 ^ (w * i) % 2 ^ w = l[i] % 2 ^ w := by
  induction l generalizing i with
  | nil => cases hi
  | cons v r ih =>
    cases i with
    | zero => simp [packBits]
    | succ i =>
      have split : 2 ^ (w * (i + 1)) = 2 ^ w * 2 ^ (w * i) := by rw [← Nat.pow_add]; congr 1; ring
      have tail : packBits w (v :: r) / 2 ^ w = packBits w r := by
        rw [packBits, Nat.add_mul_div_left _ _ (Nat.two_pow_pos w), Nat.div_eq_of_lt (Nat.mod_lt _ (Nat.two_pow_pos w)),
          Nat.zero_add]
      rw [split, ← Nat.div_div_eq_div_mul, tail]
      exact ih i (Nat.lt_of_succ_lt_succ hi)

theorem packBits_lt (w : Nat) (l : List Nat) : packBits w l < 2 ^ (w * l.length) := by
  induction l with
  | nil => simp [packBits]
  | cons v r ih =>
    have low : v % 2 ^ w < 2 ^ w := Nat.mod_lt _ (Nat.two_pow_pos w)
    calc packBits w (v :: r) = v % 2 ^ w + 2 ^ w * packBits w r := rfl
      _ < 2 ^ w * (packBits w r + 1) := by rw [Nat.mul_add_one]; omega
      _ ≤ 2 ^ w * 2 ^ (w * r.length) := Nat.mul_le_mul_left _ ih
      _ = 2 ^ (w * (v :: r).length) := by rw [← Nat.pow_add, List.length_cons]; congr 1; ring

theorem toNat_ofNat_packBits {w n : Nat} {l : List Nat} (len : w * l.length = n) :
    (BitVec.ofNat n (packBits w l)).toNat = packBits w l :=
  Nat.mod_eq_of_lt (len ▸ packBits_lt w l)

theorem getElem_upto {n a i : Nat} (hi : i < (upto n a).length) : (upto n a)[i] = a + i := by
  induction n generalizing a i with
  | zero => cases hi
  | succ n ih =>
    cases i with
    | zero => rfl
    | succ i =>
      refine (ih (Nat.lt_of_succ_lt_succ hi)).trans ?_
      omega

theorem laneAt_lt (k : Slot) (r : Reg) (n : Nat) : laneAt k r n < 2 ^ 32 := Nat.mod_lt _ (Nat.two_pow_pos 32)

theorem toNat_setVreg (k : Slot) (d : Reg) {l : List Nat} (len : 32 * l.length = 4096) :
    (SMap.get (k.setVreg d l).v 0 d.toNat).toNat = packBits 32 l :=
  (congrArg BitVec.toNat (SMap.get_set_same _ _ _ _)).trans (toNat_ofNat_packBits len)

theorem laneAt_setVreg (k : Slot) (d : Reg) (f : Nat → Nat) {n : Nat} (hn : n < 128) :
    laneAt (k.setVreg d (lanes.map f)) d n = f n % 2 ^ 32 := by
  have len : (lanes.map f).length = 128 := by rw [List.length_map]; exact length_upto _ _
  have lane : (lanes.map f)[n]'(by omega) = f n := by
    rw [List.getElem_map]
    exact congrArg f ((getElem_upto _).trans (Nat.zero_add n))
  unfold laneAt
  rw [toNat_setVreg k d (by rw [len]), packBits_lane 32 _ n (by omega), lane]

theorem laneAt_setVreg_ne (k : Slot) {d r : Reg} (l : List Nat) (n : Nat) (hr : r ≠ d) :
    laneAt (k.setVreg d l) r n = laneAt k r n := by
  have kept : SMap.get (k.setVreg d l).v 0 r.toNat = SMap.get k.v 0 r.toNat :=
    SMap.get_set_ne _ _ _ fun e => hr (BitVec.eq_of_toNat_eq e)
  unfold laneAt
  rw [kept]

theorem selects_eq_mask (k : Slot) (m : BitVec 3) {n : Nat} (hn : n < 128) : selects k m n = (k.mask m).getLsbD n := by
  unfold selects Slot.mask
  split
  · rw [BitVec.getLsbD_allOnes, decide_eq_true hn]
  · split <;> rfl

/-- Slot `k'` is `k` with the lanes of `d` at the values `f`, and with other flags. -/
structure LanesWritten (k k' : Slot) (d : Reg) (f : Nat → Nat) : Prop where
  rest : { k' with v := k.v, statNum := k.statNum } = k
  lanes : ∀ n, n < 128 → laneAt k' d n = f n
  others : ∀ r, r ≠ d → ∀ n, laneAt k' r n = laneAt k r n

theorem setVreg_rest (k : Slot) (d : Reg) (l : List Nat) :
    { k.setVreg d l with v := k.v, statNum := k.statNum } = k := rfl

theorem LanesWritten.setFlags {k k' : Slot} {d : Reg} {f : Nat → Nat} (w : LanesWritten k k' d f) (fl : BitVec 8) :
    LanesWritten k (k'.setFlags fl) d f := ⟨w.rest, w.lanes, w.others⟩

theorem setVreg_writes (k : Slot) (d : Reg) (f v : Nat → Nat) (hv : ∀ n, n < 128 → f n % 2 ^ 32 = v n) :
    LanesWritten k (k.setVreg d (lanes.map f)) d v :=
  ⟨setVreg_rest _ _ _, fun n hn => (laneAt_setVreg k d f hn).trans (hv n hn), fun _ hr n => laneAt_setVreg_ne k _ n hr⟩

/-- Lanes the mask selects take the value `f`; the others stay (R250, R261). -/
theorem moveLanes_writes (k : Slot) (d : Reg) (m : BitVec 3) (f v : Nat → Nat) (hv : ∀ n, f n % 2 ^ 32 = v n) :
    LanesWritten k (k.moveLanes d m f) d fun n => if selects k m n then v n else laneAt k d n := by
  refine setVreg_writes k d _ _ fun n hn => ?_
  rw [selects_eq_mask k m hn]
  split
  · exact hv n
  · exact Nat.mod_eq_of_lt (laneAt_lt k d n)

/-- What a lane operation leaves in lane `n` of its destination, with the flags (R250). -/
def Machine.Slot.laneResult (k : Slot) (d a b : Reg) (m : BitVec 3) (f : Nat → Nat → Nat → Flagged) (n : Nat) : Flagged :=
  if (k.mask m).getLsbD n then f (laneAt k a n) (laneAt k b n) (laneAt k d n) else (laneAt k d n, 0)

theorem lanewise_eq (k : Slot) (d a b : Reg) (m : BitVec 3) (f : Nat → Nat → Nat → Flagged) :
    k.lanewise d a b m f = (k.setVreg d (lanes.map fun n => (k.laneResult d a b m f n).1)).setFlags
      (flagsOf (lanes.map (k.laneResult d a b m f))) := by
  have mapped : lanes.map (fun n => (k.laneResult d a b m f n).1) = (lanes.map (k.laneResult d a b m f)).map (·.1) :=
    (List.map_map ..).symm
  rw [mapped]
  rfl

theorem lanewise_writes (k : Slot) (d a b : Reg) (m : BitVec 3) (f : Nat → Nat → Nat → Flagged) (v : Nat → Nat)
    (hv : ∀ n, (f (laneAt k a n) (laneAt k b n) (laneAt k d n)).1 % 2 ^ 32 = v n) :
    LanesWritten k (k.lanewise d a b m f) d fun n => if selects k m n then v n else laneAt k d n := by
  rw [lanewise_eq]
  refine (setVreg_writes k d _ _ fun n hn => ?_).setFlags _
  unfold Slot.laneResult
  rw [selects_eq_mask k m hn]
  split
  · exact hv n
  · exact Nat.mod_eq_of_lt (laneAt_lt k d n)

/-! ### Integer lanes of 32 bits (R255) -/

theorem fitInt_32 (r : Int) : (fitInt 32 true false r).1 = (r % 2 ^ 32).toNat := by
  simp only [fitInt, extOf, pat, Bool.false_eq_true, if_false, if_true]
  omega

section

variable {x y : Nat} (hx : x < 2 ^ 32) (hy : y < 2 ^ 32) (z : Nat)
include hx hy

theorem laneInt_add : (laneInt 0 0 true false x y z).1 % 2 ^ 32 = (x + y) % 2 ^ 32 := by
  have width : widthOf 0 = 32 := rfl
  have : (laneInt 0 0 true false x y z).1 = _ := fitInt_32 _
  rw [this]
  simp only [extOf, if_true, width]
  omega

theorem laneInt_sub : (laneInt 1 0 true false x y z).1 % 2 ^ 32 = (x + 2 ^ 32 - y) % 2 ^ 32 := by
  have width : widthOf 0 = 32 := rfl
  have : (laneInt 1 0 true false x y z).1 = _ := fitInt_32 _
  rw [this]
  simp only [extOf, if_true, width]
  omega

theorem laneInt_mul : (laneInt 2 0 true false x y z).1 % 2 ^ 32 = x * y % 2 ^ 32 := by
  have width : widthOf 0 = 32 := rfl
  have : (laneInt 2 0 true false x y z).1 = _ := fitInt_32 _
  rw [this]
  simp only [extOf, if_true, width, Nat.mod_eq_of_lt hx, Nat.mod_eq_of_lt hy, ← Int.natCast_mul]
  generalize x * y = p
  omega

/-- The bitwise operations stay below their operands' width. -/
theorem laneInt_and : (laneInt 6 0 true false x y z).1 % 2 ^ 32 = x &&& y := by
  have width : widthOf 0 = 32 := rfl
  have : (laneInt 6 0 true false x y z).1 = _ := fitInt_32 _
  have bound : x &&& y < 2 ^ 32 := Nat.and_lt_two_pow x hy
  rw [this]
  simp only [width, Nat.mod_eq_of_lt hx, Nat.mod_eq_of_lt hy]
  omega

theorem laneInt_or : (laneInt 7 0 true false x y z).1 % 2 ^ 32 = x ||| y := by
  have width : widthOf 0 = 32 := rfl
  have : (laneInt 7 0 true false x y z).1 = _ := fitInt_32 _
  have bound : x ||| y < 2 ^ 32 := Nat.or_lt_two_pow hx hy
  rw [this]
  simp only [width, Nat.mod_eq_of_lt hx, Nat.mod_eq_of_lt hy]
  omega

theorem laneInt_xor : (laneInt 8 0 true false x y z).1 % 2 ^ 32 = x ^^^ y := by
  have width : widthOf 0 = 32 := rfl
  have : (laneInt 8 0 true false x y z).1 = _ := fitInt_32 _
  have bound : x ^^^ y < 2 ^ 32 := Nat.xor_lt_two_pow hx hy
  rw [this]
  simp only [width, Nat.mod_eq_of_lt hx, Nat.mod_eq_of_lt hy]
  omega

end

/-! ### The end of a vector command -/

/-- The instructions of the vector engine that load or store a tile. -/
def Instr.onTile : Instr → Bool
  | .vld .. | .vldx .. | .vst .. => true
  | _ => false

/-- A started command that works on no tile runs whole, on its slot alone. -/
theorem vectorRun_eq {s : State} {n : Nat} {c : Cmd} (hi : c.instr.onTile = false) :
    s.vectorRun n c = some (s.updSlot n fun k => k.vectorEffect c) := by
  have ready : s.vectorReady n c = true := by
    unfold State.vectorReady
    split
    · next e => rw [e] at hi; cases hi
    · next e => rw [e] at hi; cases hi
    · next e => rw [e] at hi; cases hi
    · rfl
  unfold State.vectorRun
  simp only [ready, Bool.not_true, Bool.false_eq_true, if_false]
  split
  · next e => rw [e] at hi; cases hi
  · next e => rw [e] at hi; cases hi
  · next e => rw [e] at hi; cases hi
  · rfl

/-- COMMAND_FINISH of a started entry that runs whole: its effect on the slot, then its SIG and its place (R10, R12). -/
theorem commandFinish_runs {s u : State} {core : Nat} {e : Engine} {c : Cmd} {rest : List Cmd} (r : Runs s core e c rest)
    (run : s.endOf e (4 * core) c = some u) : exec (.commandFinish core e) s = .next (u.leaveQueue e (4 * core) c) := by
  obtain ⟨queue, started, running, -, -⟩ := r
  have found : s.finishHead e (4 * core) = some (u.leaveQueue e (4 * core) c) := by
    unfold State.finishHead
    simp only [queue, started, running, run, Bool.not_true, Bool.false_eq_true, if_false, Option.map_some]
  refine exec_commandFinish ?_
  change List.findSome? _ (4 * core :: _) = _
  rw [List.findSome?_cons, found]

/-- Leaving a queue writes no register. -/
theorem leaveQueue_registers (s : State) (n : Nat) (c : Cmd) :
    ((s.leaveQueue .vector n c).slotAt n).v = (s.slotAt n).v ∧ ((s.leaveQueue .vector n c).slotAt n).a = (s.slotAt n).a ∧
    ((s.leaveQueue .vector n c).slotAt n).x = (s.slotAt n).x := by
  have left : (s.leaveQueue .vector n c).slotAt n = _ := State.slotAt_updSlot_same s n _
  rw [left]
  split <;> exact ⟨rfl, rfl, rfl⟩

theorem laneAt_congr {k k' : Slot} (h : k'.v = k.v) : laneAt k' = laneAt k := by
  unfold laneAt
  rw [h]

/-- A vector command that writes the lanes of `d` ends with them written. -/
theorem commandFinish_lanes {s : State} {core : Nat} {c : Cmd} {rest : List Cmd} {d : Reg} {f : Nat → Nat}
    (r : Runs s core .vector c rest) (hi : c.instr.onTile = false)
    (w : LanesWritten (s.slotAt (4 * core)) ((s.slotAt (4 * core)).vectorEffect c) d f) :
    ∃ t, exec (.commandFinish core .vector) s = .next t ∧ Finished1 s t core .vector c rest ∧
      (∀ n, n < 128 → laneAt (t.slotAt (4 * core)) d n = f n) ∧
      (∀ r, r ≠ d → ∀ n, n < 128 → laneAt (t.slotAt (4 * core)) r n = laneAt (s.slotAt (4 * core)) r n) ∧
      (t.slotAt (4 * core)).a = (s.slotAt (4 * core)).a ∧ (t.slotAt (4 * core)).x = (s.slotAt (4 * core)).x := by
  have ran := commandFinish_runs r (vectorRun_eq hi)
  obtain ⟨hq, -, -, recorded, fits⟩ := r
  generalize hu : s.updSlot (4 * core) (fun k => k.vectorEffect c) = u at ran
  have written : u.slotAt (4 * core) = (s.slotAt (4 * core)).vectorEffect c := hu ▸ State.slotAt_updSlot_same s _ _
  rw [← written] at w
  have kept {α} (p : Slot → α) (hp : ∀ k v fl, p { k with v := v, statNum := fl } = p k) :
      p (u.slotAt (4 * core)) = p (s.slotAt (4 * core)) :=
    (hp _ _ _).symm.trans (congrArg p w.rest)
  have queueKept := kept (·.queue .vector) fun _ _ _ => rfl
  have tokKept := kept Slot.tok fun _ _ _ => rfl
  obtain ⟨queue, tokens, others, package⟩ := leaveQueue_effect (s := u) (e := .vector) (n := 4 * core) recorded
    ((kept (·.tokFits c.hdr.sig) fun _ _ _ => rfl).trans fits)
  obtain ⟨lanesKept, aKept, xKept⟩ := leaveQueue_registers u (4 * core) c
  refine ⟨_, ran, ⟨?_, fun i => ?_, fun n hn => ?_, ?_⟩, fun n hn => ?_, fun r hr n _ => ?_, ?_, ?_⟩
  · rw [queue, queueKept, hq, List.tail_cons]
  · rw [tokens, tokKept]
  · rw [others n hn, ← hu, State.slotAt_updSlot_ne s _ hn]
  · exact (congrArg (fun t : State => { t with slots := s.slots }) package).trans (hu ▸ updSlot_package s _ _)
  · rw [laneAt_congr lanesKept, w.lanes n hn]
  · rw [laneAt_congr lanesKept, w.others r hr]
  · exact aKept.trans (kept Slot.a fun _ _ _ => rfl)
  · exact xKept.trans (kept Slot.x fun _ _ _ => rfl)

theorem bits_zero (v w : Nat) : bits v 0 w = v % 2 ^ w := by simp [bits]

/-- Settles O48: each of these instructions writes the lanes of one register and the flags, so that the end of its command
leaves those lanes, its SIG and its queue without it. -/
theorem vectorLaneResults : Obligations.VectorLaneResults := by
  unfold Obligations.VectorLaneResults
  intro s core h d a b x m c rest runs
  have below (r : Reg) (n : Nat) := laneAt_lt (s.slotAt (4 * core)) r n
  refine ⟨?_, ?_, ?_, ?_, ?_, ?_, ?_, ?_, ?_, ?_, ?_, ?_, ?_⟩ <;> intro hi <;>
    refine commandFinish_lanes runs (by rw [hi]; rfl) ?_ <;> unfold Slot.vectorEffect <;> rw [hi]
  · exact lanewise_writes _ d a b m _ _ fun n => laneInt_add (below a n) (below b n) _
  · exact lanewise_writes _ d a b m _ _ fun n => laneInt_sub (below a n) (below b n) _
  · exact lanewise_writes _ d a b m _ _ fun n => laneInt_mul (below a n) (below b n) _
  · exact lanewise_writes _ d a b m _ _ fun n => laneInt_and (below a n) (below b n) _
  · exact lanewise_writes _ d a b m _ _ fun n => laneInt_or (below a n) (below b n) _
  · exact lanewise_writes _ d a b m _ _ fun n => laneInt_xor (below a n) (below b n) _
  · refine setVreg_writes _ d _ _ fun n hn => ?_
    rw [selects_eq_mask _ m hn]
    split
    · exact Nat.mod_eq_of_lt (below a n)
    · exact Nat.mod_eq_of_lt (below b n)
  · refine moveLanes_writes _ d m _ _ fun n => ?_
    rw [bits_zero, Nat.mod_mod]
    rfl
  · refine moveLanes_writes _ d m _ _ fun n => ?_
    rw [bits_zero]
    exact Nat.mod_eq_of_lt (below a _)
  · exact moveLanes_writes _ d m _ _ fun n => Nat.mod_eq_of_lt (below a _)
  · refine moveLanes_writes _ d m _ _ fun n => ?_
    rw [bits_zero]
    exact Nat.mod_eq_of_lt (below a _)
  · refine moveLanes_writes _ d m _ _ fun n => ?_
    rw [bits_zero, Nat.mod_mod, Nat.mod_add_mod]
    rfl
  · refine setVreg_writes _ d _ _ fun n _ => ?_
    rw [bits_zero, bits_zero]
    split
    · next hn => exact (Nat.mod_mod _ _).trans (if_pos hn).symm
    · next hn => exact (Nat.mod_eq_of_lt (below d n)).trans (if_neg hn).symm

end Sys2Proof

/-! The proof of O33. What the push of a copy changes before its entry, and the issue of the copies. -/

namespace Sys2Proof

open Machine

/-! ### What is counted at the push of a copy (R55, R115, R119) -/

/-- Two slots differ at most in the counts of their copy groups and in their LOCAL and HOME counters. -/
def Recounted (k k' : Slot) : Prop := { k' with cg := k.cg, locals := k.locals, homes := k.homes } = k

theorem Recounted.refl (k : Slot) : Recounted k k := rfl

theorem Recounted.trans {k k' k'' : Slot} (h : Recounted k k') (h' : Recounted k' k'') : Recounted k k'' := by
  unfold Recounted at h h' ⊢
  rw [← h'] at h
  exact h

/-- What reads no counter reads the same of both slots. -/
theorem Recounted.keeps {α : Type} {k k' : Slot} (h : Recounted k k') (p : Slot → α)
    (hp : ∀ (z : Slot) cg locals homes, p { z with cg := cg, locals := locals, homes := homes } = p z) : p k' = p k :=
  (hp k' k.cg k.locals k.homes).symm.trans (congrArg p h)

theorem Recounted.seq {k k' : Slot} (h : Recounted k k') (st : Stream) : k'.seq st = k.seq st :=
  h.keeps (·.seq st) fun _ _ _ _ => by cases st <;> rfl

theorem Recounted.queue {k k' : Slot} (h : Recounted k k') (e : Engine) : k'.queue e = k.queue e :=
  h.keeps (·.queue e) fun _ _ _ _ => by cases e <;> rfl

theorem Recounted.aside {k k' : Slot} (h : Recounted k k') (e : Engine) : k'.aside e = k.aside e :=
  h.keeps (·.aside e) fun _ _ _ _ => by cases e <;> rfl

theorem recounted_expectCopy (k : Slot) (c : Cmd) : Recounted k (k.expectCopy c) := by
  unfold Slot.expectCopy
  split <;> rfl

/-- The same instruction is in issue in both states, and their slots differ at most in counters. -/
structure Recounts (s u : State) : Prop where
  cur : u.cur = s.cur
  slots : ∀ n, Recounted (s.slotAt n) (u.slotAt n)

theorem recounts_of_slots {s u : State} (cur : u.cur = s.cur) (slots : u.slots = s.slots) : Recounts s u :=
  ⟨cur, fun n => by unfold State.slotAt; rw [slots]; exact Recounted.refl _⟩

theorem Recounts.refl (s : State) : Recounts s s := recounts_of_slots rfl rfl

theorem Recounts.trans {s t u : State} (h : Recounts s t) (h' : Recounts t u) : Recounts s u :=
  ⟨h'.cur.trans h.cur, fun n => (h.slots n).trans (h'.slots n)⟩

theorem Recounts.me {s u : State} (h : Recounts s u) : Recounted s.me u.me := by
  unfold State.me
  rw [h.cur]
  exact h.slots _

theorem recounts_updSlot (s : State) (n : Nat) {f : Slot → Slot} (hf : ∀ k, Recounted k (f k)) :
    Recounts s (s.updSlot n f) := by
  refine ⟨rfl, fun m => ?_⟩
  rw [State.slotAt_updSlot]
  split
  · next e => rw [e]; exact hf _
  · exact Recounted.refl _

theorem setHome_cur (s : State) (l : Loc) (b : Byte) : (s.setHome l b).cur = s.cur := by
  unfold State.setHome
  split <;> rfl

theorem setHomes_cur (s : State) (l : List (Loc × Byte)) : (s.setHomes l).cur = s.cur := by
  induction l generalizing s with
  | nil => rfl
  | cons x r ih => exact (ih _).trans (setHome_cur s _ _)

theorem recounts_storesHome (s : State) (core key : Nat) (l : List (Nat × Nat × BitVec 16)) :
    Recounts s (s.storesHome core key l) := by
  induction l generalizing s with
  | nil => exact Recounts.refl s
  | cons x r ih =>
    refine Recounts.trans ?_ (ih _)
    split
    · exact Recounts.refl s
    · exact recounts_updSlot s _ fun _ => rfl

theorem recounts_writeBack (s : State) (core key : Nat) : Recounts s (s.writeBack core key) := by
  unfold State.writeBack
  dsimp only
  split
  · exact ((recounts_of_slots (setHomes_cur s _) (setHomes_slots s _)).trans (recounts_storesHome _ _ _ _)).trans
      (recounts_of_slots rfl rfl)
  · exact Recounts.refl s

theorem recounts_writeBackWhere (s : State) (slot : Nat) (p : DLine → Bool) : Recounts s (s.writeBackWhere slot p) := by
  unfold State.writeBackWhere
  generalize s.linesWhere _ _ = keys
  induction keys generalizing s with
  | nil => exact Recounts.refl s
  | cons key r ih => exact (recounts_writeBack s _ _).trans (ih _)

theorem recounts_pushRead (s : State) (slot : Nat) (rd : Option (List (Nat × Nat))) : Recounts s (s.pushRead slot rd) := by
  cases rd <;> exact recounts_writeBackWhere s _ _

/-- Where no range counter is full, the push of a copy makes its entry, and before it changes only counters of the slots. -/
theorem pushCopy_makes (s : State) (i : Instr) (ops : List Word) (td : TDesc) (foot rd : Option (List (Nat × Nat)))
    (free : s.me.tagsFull (s.me.tagsFor foot) = false) :
    ∃ u c, s.pushCopy i ops td foot rd = .cmd u c ∧ Recounts s u ∧ EntryOf s c i ops := by
  refine ⟨_, _, if_neg (by rw [free]; exact Bool.false_ne_true), ?_, ⟨rfl, rfl, rfl, rfl⟩⟩
  exact (recounts_pushRead s _ rd).trans (recounts_updSlot _ _ fun k => (recounted_expectCopy k _).trans rfl)

/-! ### The entry of a copy into its queue -/

/-- What enters the queue behind a change of counters enters the queue. -/
theorem Queued.of_recounts {s u t : State} {e : Engine} {i : Instr} {ops : List Word} {ws : List Reg} {wps : List PReg}
    (q : Queued u t e i ops ws wps) (h : Recounts s u) : Queued s t e i ops ws wps := by
  have slot : t.slotOf u = t.slotOf s := by unfold State.slotOf; rw [h.cur]
  have seq : t.seqOf u = t.seqOf s := by unfold State.seqOf; rw [slot, h.cur]
  have mine : u.mySeq = s.mySeq := by unfold State.mySeq; rw [h.me.seq, h.cur]
  have tok : u.me.tok = s.me.tok := h.me.keeps Slot.tok fun _ _ _ _ => rfl
  have num : u.me.nextCmd = s.me.nextCmd := h.me.keeps Slot.nextCmd fun _ _ _ _ => rfl
  have fault : u.me.fault = s.me.fault := h.me.keeps Slot.fault fun _ _ _ _ => rfl
  obtain ⟨went, pc, regs, preds, awaitG, awaitP, tokens, entry, queues, other⟩ := q
  simp only [slot, seq, mine, tok, num, fault, h.cur, h.me.queue, h.me.aside, h.me.seq]
    at pc regs preds awaitG awaitP tokens entry queues other
  exact ⟨went, pc, regs, preds, awaitG, awaitP, tokens, entry, queues, other⟩

/-- An engine instruction whose checks at issue change counters and end in the entry `c` enters its queue. -/
theorem issueEng_queued_behind {s u : State} {e : Engine} {h : Hdr} {gs : List Reg} {ps : List PReg} {ws : List Reg}
    {wps : List PReg} {mk : State → Pushed} {c : Cmd} {i : Instr} {ops : List Word} (r : EngReady s e h gs ps)
    (made : mk s = .cmd u c) (counted : Recounts s u) (hc : EntryOf s c i ops) :
    ∃ t, s.issueEng e h gs ps ws wps mk = .next t ∧ Queued s t e i ops ws wps := by
  have behind : EntryOf u c i ops := ⟨hc.instr, by rw [hc.pc, counted.cur], hc.ops, hc.started⟩
  obtain ⟨queued, -⟩ := pushed_queued h ws wps behind
  refine ⟨_, ?_, queued.of_recounts counted⟩
  rw [issueEng_ready _ r, made]
  unfold State.pushed
  rw [counted.cur]

/-- A copy-engine instruction enters its queue, its operands read at issue and its destinations awaited. -/
def QueuesCopy (s : State) (i : Instr) (ops : List Word) (ws : List Reg) : Prop :=
  ∃ t, exec i s = .next t ∧ Queued s t .copy i ops ws []

section

variable {s : State} {h : Hdr} {named : List Reg}

/-- A copy none of whose range counters is full enters its queue (R115, R201). -/
theorem copy_queued (ready : EngReady s .copy h named []) {i : Instr} {gs ws : List Reg} {ops : List Word}
    {mk : State → Pushed} {td : TDesc} {foot rd : Option (List (Nat × Nat))} (e : exec i s = s.issueCopy i h gs mk)
    (out : Writing i ws) (hg : gs ++ ws ⊆ named) (made : mk s = s.pushCopy i ops td foot rd)
    (free : s.me.tagsFull (s.me.tagsFor foot) = false) : QueuesCopy s i ops ws := by
  unfold QueuesCopy
  rw [e]
  unfold State.issueCopy
  dsimp only
  rw [out.1, out.2]
  obtain ⟨u, c, pushes, counted, entry⟩ := pushCopy_makes s i ops td foot rd free
  exact issueEng_queued_behind (ready.mono hg (List.Subset.refl _)) (made.trans pushes) counted entry

/-- A copy that reads its whole footprint, with no check at issue but that of its counters. -/
theorem uncheckedCopy_queued (ready : EngReady s .copy h named []) {i : Instr} {gs ws : List Reg} {td : TDesc}
    (foot : State → Option (List (Nat × Nat)))
    (e : exec i s = s.issueCopy i h gs fun x => x.pushCopy i (gs.map x.rg) td (foot x) (foot x)) (out : Writing i ws)
    (hg : gs ++ ws ⊆ named) (free : s.me.tagsFull (s.me.tagsFor (foot s)) = false) : QueuesCopy s i (gs.map s.rg) ws :=
  copy_queued ready e out hg rfl free

/-! ### Copies of tiles -/

theorem tidOf_eq (v : Word) : tidOf v = v.toNat % 65536 := by simp [tidOf, bits]

/-- Coordinates below 2^32, the column a multiple of 32 for CB4, pass (R204). -/
theorem badCoords_none {td : TDesc} {r c : Word} (hr : r.toNat < 2 ^ 32) (hc : c.toNat < 2 ^ 32)
    (aligned : td.fmt = 3 → c.toNat % 32 = 0) : badCoords td r c = none := by
  have high {v : Word} (hv : v.toNat < 2 ^ 32) : bits v.toNat 32 32 = 0 := by
    rw [bits, Nat.div_eq_of_lt hv, Nat.zero_mod]
  unfold badCoords
  rw [if_neg (by simp [high hr, high hc]), if_neg fun ⟨f, off⟩ => off (aligned f)]

variable {td : TDesc} {t r c u : Reg}

/-- The tile copy of registers `t`, `r`, `c` names a tensor whose descriptor is `td`, and its coordinates pass (R203, R204). -/
structure NamesTile (s : State) (td : TDesc) (t r c : Reg) : Prop where
  held : s.descFor s.cur.slot (tidOf (s.rg t)) = .ok (s, td)
  coords : badCoords td (s.rg r) (s.rg c) = none

theorem NamesTile.withTensor (tile : NamesTile s td t r c) (f : State → TDesc → Pushed) :
    s.withTensor (s.rg t) (s.rg r) (s.rg c) f = f s td := by
  simp only [State.withTensor, tile.held, tile.coords]

/-- A form of FETCH that allocates enters its queue with shares that fit and, transposed, a format other than CB4 (R205, R206). -/
theorem fetch_queued (ready : EngReady s .copy h named []) (tile : NamesTile s td t r c) {i : Instr} {sh : Reg}
    {n : BitVec 16} {tr : Bool} {ws : List Reg} (e : exec i s = s.issueFetch i h t r c sh u n tr) (out : Writing i ws)
    (hg : [t, r, c, sh, u] ++ ws ⊆ named) (fits : sharesOk n.toNat (s.rg sh) = true) (plain : tr = true → td.fmt ≠ 3)
    (free : s.me.tagsFull (s.me.tagsOf (fetchFoot td tr (s.rg r) (s.rg c) (s.rg u))) = false) :
    QueuesCopy s i [s.rg t, s.rg r, s.rg c, s.rg sh, s.rg u] ws := by
  refine copy_queued ready (td := td) (foot := some _) (rd := some (fetchFoot td tr (s.rg r) (s.rg c) (s.rg u))) e out hg
    ((tile.withTensor _).trans ?_) free
  rw [fits, if_neg (by simp), if_neg fun ⟨ht, f⟩ => plain ht f]

theorem fetchRf_queued (ready : EngReady s .copy h named []) (tile : NamesTile s td t r c) {d : Reg} {cg : BitVec 3}
    {cgv : Bool} (hg : [d, t, r, c, u] ⊆ named)
    (free : s.me.tagsFull (s.me.tagsOf (fetchFoot td false (s.rg r) (s.rg c) (s.rg u))) = false) :
    QueuesCopy s (.fetchRf h d t r c cg cgv u) [s.rg d, s.rg t, s.rg r, s.rg c, s.rg u] [] := by
  have ran : exec (.fetchRf h d t r c cg cgv u) s = execFetchRf h d t r c cg cgv u s := rfl
  unfold execFetchRf at ran
  exact copy_queued ready (foot := some _) ran ⟨rfl, rfl⟩ hg (tile.withTensor _) free

theorem tstore_queued (ready : EngReady s .copy h named []) (tile : NamesTile s td t r c) {d : Reg} {cg : BitVec 3}
    {cgv : Bool} (hg : [t, r, c, d, u] ⊆ named)
    (free : s.me.tagsFull (s.me.tagsOf (fetchFoot td false (s.rg r) (s.rg c) (s.rg u))) = false) :
    QueuesCopy s (.tstore h t r c d u cg cgv) [s.rg t, s.rg r, s.rg c, s.rg d, s.rg u] [] := by
  have ran : exec (.tstore h t r c d u cg cgv) s = execTstore h t r c d u cg cgv s := rfl
  unfold execTstore at ran
  exact copy_queued ready (foot := some _) ran ⟨rfl, rfl⟩ hg (tile.withTensor _) free

/-! ### Copies of bytes and of rows -/

theorem rangesMeet_eq_false {a n b m : Nat} (apart : a + n ≤ b ∨ b + m ≤ a) : rangesMeet a n b m = false := by
  simp only [rangesMeet, Bool.and_eq_false_iff, decide_eq_false_iff_not]
  omega

theorem rowsOk_eq_true {v : Word} (h1 : 1 ≤ v.toNat) (h2 : v.toNat ≤ 128) : rowsOk v = true := by
  simp [rowsOk, h1, h2]

theorem maskRegs_subset (m : Reg) : maskRegs m ⊆ [m, m + 1] := by
  unfold maskRegs
  split
  · exact List.nil_subset _
  · exact List.Subset.refl _

/-- CCOPY of 1 to 2^40 bytes between ranges that do not meet (R215). -/
theorem ccopy_queued (ready : EngReady s .copy h named []) {d a n : Reg} {cg : BitVec 3} {cgv : Bool} (hg : [d, a, n] ⊆ named)
    (least : 1 ≤ (s.rg n).toNat) (most : (s.rg n).toNat ≤ 2 ^ 40)
    (apart : (s.rg d).toNat + (s.rg n).toNat ≤ (s.rg a).toNat ∨ (s.rg a).toNat + (s.rg n).toNat ≤ (s.rg d).toNat)
    (free : s.me.tagsFull (s.me.tagsOf [((s.rg d).toNat, (s.rg n).toNat), ((s.rg a).toNat, (s.rg n).toNat)]) = false) :
    QueuesCopy s (.ccopy h d a n cg cgv) [s.rg d, s.rg a, s.rg n] [] := by
  have ran : exec (.ccopy h d a n cg cgv) s = execCcopy h d a n cg cgv s := rfl
  unfold execCcopy at ran
  refine copy_queued ready (foot := some _) ran ⟨rfl, rfl⟩ hg (if_neg ?_) free
  rw [rangesMeet_eq_false apart]
  simp only [Bool.false_eq_true, or_false]
  omega

/-- CSCAT of 1 to 128 rows (R216, R217). -/
theorem cscat_queued (ready : EngReady s .copy h named []) {d l r m : Reg} {cg : BitVec 3} {cgv : Bool}
    (hg : [d, l, r] ⊆ named) (hm : [m, m + 1] ⊆ named) (rows : rowsOk (s.rg r) = true)
    (free : s.me.tagsFull s.me.tagsAll = false) :
    QueuesCopy s (.cscat h d l r m cg cgv) [s.rg d, s.rg l, s.rg r, s.rg m, s.rg (m + 1)] [] := by
  have ran : exec (.cscat h d l r m cg cgv) s = execCscat h d l r m cg cgv s := rfl
  unfold execCscat at ran
  refine copy_queued ready (foot := none) ran ⟨rfl, rfl⟩ ?_ (if_neg (by simp [rows])) free
  rw [List.append_nil]
  exact List.append_subset_of_subset_of_subset hg (List.Subset.trans (maskRegs_subset m) hm)

/-- CGATH of 1 to 128 rows of a tensor whose format is not CB4 (R216, R217). -/
theorem cgath_queued (ready : EngReady s .copy h named []) {d t l r m : Reg} {n : BitVec 16} {cg : BitVec 3} {cgv : Bool}
    {td : TDesc} (noPred : nbPred h = []) (hg : [t, l, r] ⊆ named) (hd : d ∈ named) (hm : [m, m + 1] ⊆ named)
    (held : s.descFor s.cur.slot (tidOf (s.rg t)) = .ok (s, td)) (rows : rowsOk (s.rg r) = true) (plain : td.fmt ≠ 3)
    (free : s.me.tagsFull s.me.tagsAll = false) :
    QueuesCopy s (.cgath h d t l n r m cg cgv) [s.rg t, s.rg l, s.rg r, s.rg m, s.rg (m + 1)] [d] := by
  have ran : exec (.cgath h d t l n r m cg cgv) s = execCgath h d t l n r m cg cgv s := rfl
  unfold execCgath at ran
  refine copy_queued ready (td := td) (foot := none) (rd := none) ran ⟨rfl, noPred⟩ ?_ ?_ free
  · have reads := List.append_subset_of_subset_of_subset hg (List.Subset.trans (maskRegs_subset m) hm)
    exact List.append_subset_of_subset_of_subset reads (by simpa using hd)
  · simp only [held]
    rw [if_neg (by simp [rows]), if_neg plain]

end

/-- Settles O33: each instruction is `issueCopy` of a `pushCopy`, which its checks at issue reach. -/
theorem copiesQueue : Obligations.CopiesQueue := by
  unfold Obligations.CopiesQueue
  intro s h d t r c n x y u rd cg cgv disc rcmd mc td
  dsimp only
  intro ready nb
  rw [← tidOf_eq]
  have noPred : nbPred h = [] := by simp [nbPred, nb]
  have multicast : [t, r, c, x, u] ++ mcRegs d mc ⊆ [d, t, r, c, n, x, y, u, n + 1] ++ mcRegs d mc :=
    List.append_subset_of_subset_of_subset (by simp) (List.subset_append_right _ _)
  refine ⟨fun held hr hc aligned free => ?_, fun free => ?_, fun least most apart free => ?_, fun free => ?_, fun free => ?_⟩
  · have tile : NamesTile s td t r c := ⟨held, badCoords_none hr hc aligned⟩
    refine ⟨fun fits => ⟨?_, fun plain => ?_, ?_⟩, ?_, ?_⟩
    · exact fetch_queued ready tile rfl ⟨rfl, noPred⟩ (by simp) fits nofun (free false)
    · exact fetch_queued ready tile rfl ⟨rfl, noPred⟩ (by simp) fits (fun _ => plain) (free true)
    · exact fetch_queued ready tile rfl ⟨List.append_nil _, noPred⟩ multicast fits nofun (free false)
    · exact fetchRf_queued ready tile (by simp) (free false)
    · exact tstore_queued ready tile (by simp) (free false)
  · exact ⟨uncheckedCopy_queued ready (gs := [t]) (fun _ => some []) rfl ⟨rfl, rfl⟩ (by simp) free,
      uncheckedCopy_queued ready (gs := [t]) (fun _ => some []) rfl ⟨rfl, noPred⟩ (by simp) free⟩
  · exact ccopy_queued ready (by simp) least most apart free
  · refine ⟨uncheckedCopy_queued ready (gs := [x, y]) (fun _ => none) rfl ⟨rfl, rfl⟩ (by simp) free,
      uncheckedCopy_queued ready (gs := [x, y]) (fun _ => none) rfl ⟨rfl, rfl⟩ (by simp) free, fun least most => ?_⟩
    have rows := rowsOk_eq_true least most
    exact ⟨cscat_queued ready (by simp) (by simp) rows free,
      fun held plain => cgath_queued ready noPred (by simp) (by simp) (by simp) held rows plain free⟩
  · exact uncheckedCopy_queued ready (gs := [x]) (fun z => some [((z.rg x).toNat, 2368)]) rfl ⟨rfl, rfl⟩ (by simp) free

end Sys2Proof

/-! The proof of O9. The reset state lists no slot, core, queue, tenant or link, so each reads as its record's defaults. -/

namespace Sys2Proof

open Machine

/-! ### The records of the reset state (R39, R59, R176, R302, R342) -/

@[simp] theorem slotAt_reset (n : Nat) : State.reset.slotAt n = {} := rfl

@[simp] theorem coreAt_reset (c : Nat) : State.reset.coreAt c = {} := rfl

@[simp] theorem tenAt_reset (t : Nat) : State.reset.tenAt t = {} := rfl

@[simp] theorem queueAt_reset (q : Nat) : State.reset.queueAt q = {} := rfl

@[simp] theorem fLink_reset (l : Nat) : State.reset.fLink l = {} := rfl

/-- Settles O9: slot, queue, tenant, core and link by the record each reads as in the reset state. -/
theorem resetState : Obligations.ResetState := by
  unfold Obligations.ResetState
  refine ⟨fun n => ?slots, rfl, rfl, fun q => ?queues, fun t => ?tenants, fun c => ?cores, fun l => ?links⟩
  case slots => rw [slotAt_reset]
  case queues =>
    rw [queueAt_reset]
    exact ⟨rfl, rfl, rfl, rfl⟩
  case tenants =>
    rw [tenAt_reset]
    exact ⟨rfl, rfl⟩
  case cores =>
    rw [coreAt_reset]
    exact ⟨rfl, rfl, rfl, rfl, rfl, rfl, rfl, rfl⟩
  case links =>
    change (State.reset.fLink l).rate = 224
    rw [fLink_reset]

end Sys2Proof

/-! The proof of O27. What SHAPE grants, and what it leaves of the registers it grants (R61, R175). -/

namespace Sys2Proof

open Machine

/-! ### SHAPE (R175) -/

theorem get_filter_keys {α : Type} (m : SMap α) (d : α) (p : Nat → Prop) [DecidablePred p] (k : Nat) :
    SMap.get (m.filter fun e => decide (p e.1)) d k = if p k then SMap.get m d k else d := by
  induction m with
  | nil => simp
  | cons e r ih =>
    obtain ⟨j, w⟩ := e
    by_cases hj : j = k
    · subst hj
      by_cases hp : p j <;> simp [SMap.get, hp, ih]
    · by_cases hp : p j <;> simp [SMap.get, hp, hj, ih]

theorem grant_seq (k : Slot) (part vreg acc : Nat) (st : Stream) : (k.grant part vreg acc).seq st = k.seq st := by
  cases st <;> rfl

theorem shapeGrants_eq (s : State) (g : Word) (acc : BitVec 6) : s.shapeGrants g acc =
    (min (g.toNat % 1024) (min s.me.quotaT s.myCore.capTile),
      if g.toNat / 65536 % 64 = 0 ∨ 32 < g.toNat / 65536 % 64 then 32 else g.toNat / 65536 % 64,
      min acc.toNat (min s.me.quotaA s.myCore.capAcc)) := by
  unfold State.shapeGrants
  rw [bits_zero]
  rfl

/-- No queue holds an entry that SHAPE waits for. -/
def ShapeMayGrant (k : Slot) : Prop := k.mq = [] ∧ k.vq = [] ∧ k.mAside = [] ∧ k.vAside = []

theorem shapeMayGrant_iff (k : Slot) :
    ShapeMayGrant k ↔ (k.mq.isEmpty && k.vq.isEmpty && k.mAside.isEmpty && k.vAside.isEmpty) = true := by
  simp [ShapeMayGrant, and_assoc]

theorem SlotAs.grants {s t : State} {k : Slot} (o : SlotAs s t k) :
    (t.slotOf s).grantT = k.grantT ∧ (t.slotOf s).grantV = k.grantV ∧ (t.slotOf s).grantA = k.grantA ∧
      (t.slotOf s).v = k.v ∧ (t.slotOf s).acc = k.acc := by
  have slot := o.slot
  exact ⟨congrArg (·.grantT) slot, congrArg (·.grantV) slot, congrArg (·.grantA) slot, congrArg (·.v) slot,
    congrArg (·.acc) slot⟩

/-- With the queues empty the slot is granted what `shapeGrants` says. -/
theorem shape_grants {s : State} {h : Hdr} {d a : Reg} {acc : BitVec 6} {part vreg accs : Nat} (ready : Ready s h [d, a] [])
    (empty : ShapeMayGrant s.me) (hg : s.shapeGrants (s.rg a) acc = (part, vreg, accs)) :
    CompletesAs s (.shape h d a acc) h s.cur.next (some (d, BitVec.ofNat 64 part)) none (s.me.grant part vreg accs) := by
  have granted := wrote_updMe s (f := fun k => k.grant part vreg accs) rfl (grant_seq _ _ _ _ _)
  have frame := slotAs_updMe s fun k => k.grant part vreg accs
  change ∃ t, execShape h d a acc s = .next t ∧ _
  unfold execShape
  refine issueSeq_done (u := (s.updMe fun k => k.grant part vreg accs).wg d (BitVec.ofNat 64 part)) ready ?_
    (granted.trans (wrote_wg _ d _)) (frame.trans (onlyIssuer_updSeq _ _) rfl rfl)
  simp only [if_pos ((shapeMayGrant_iff s.me).1 empty), hg]

/-- A-seq waits in SHAPE, and holds the issue into the matrix and vector queues. -/
def Machine.Slot.markShaping (k : Slot) : Slot := { k with a := { k.a with shaping := true } }

/-- While a queue holds an entry A-seq is marked, and nothing else changes. -/
theorem shape_waits {s : State} {h : Hdr} {d a : Reg} {acc : BitVec 6} (ready : Ready s h [d, a] [])
    (busy : ¬ ShapeMayGrant s.me) :
    exec (.shape h d a acc) s = .next (s.updMe Slot.markShaping).stalled := by
  change execShape h d a acc s = _
  unfold execShape
  refine issueSeq_stall ready ?_
  exact if_neg fun e => busy ((shapeMayGrant_iff s.me).2 e)

/-- Settles O27: the grants and the cleared registers where the queues are empty, and the mark of the wait where one is not. -/
theorem shapeGrants : Obligations.ShapeGrants := by
  unfold Obligations.ShapeGrants
  intro s h d a acc ready
  dsimp only
  split
  · next empty =>
    obtain ⟨t, runs, retired, frame⟩ := shape_grants ready empty (shapeGrants_eq s (s.rg a) acc)
    obtain ⟨hT, hV, hA, hv, hacc⟩ := frame.grants
    refine ⟨t, runs, retired, frame.toOnlySlot, hT, hV, hA, fun r => ?_, fun e => ?_⟩
    · rw [hv]
      exact get_filter_keys _ _ (· < _) r
    · rw [hacc]
      exact get_filter_keys _ _ (· < _) e
  · next busy =>
    have marked := onlySlot_updMe s Slot.markShaping
    refine ⟨_, shape_waits ready busy, rfl, ?_, ⟨marked.package, marked.slots⟩⟩
    exact congrArg (·.a.shaping) (State.me_updMe s Slot.markShaping)

end Sys2Proof

/-! The proof of O57. Retirement requests, the phases of a retirement, the banks that retire, and quotas (R63 to R69, R336). -/

namespace Sys2Proof

open Machine

/-! ### What a loop of the model keeps -/

theorem foldl_keeps {σ α β : Type} {f : σ → α → σ} (p : σ → β) (hf : ∀ t x, p (f t x) = p t) (l : List α) (s : σ) :
    p (l.foldl f s) = p s := by
  induction l generalizing s with
  | nil => rfl
  | cons x r ih => exact (ih _).trans (hf s x)

theorem slotAt_foldl_updSlot_notMem {f : Slot → Slot} (l : List Nat) (s : State) {m : Nat} (hm : m ∉ l) :
    (l.foldl (fun t n => t.updSlot n f) s).slotAt m = s.slotAt m := by
  induction l generalizing s with
  | nil => rfl
  | cons n r ih =>
    obtain ⟨hn, hr⟩ := not_or.1 (mt List.mem_cons.2 hm)
    exact (ih _ hr).trans (State.slotAt_updSlot_ne s f hn)

theorem slotAt_foldl_updSlot_mem {f : Slot → Slot} {l : List Nat} (hd : l.Nodup) (s : State) {m : Nat} (hm : m ∈ l) :
    (l.foldl (fun t n => t.updSlot n f) s).slotAt m = f (s.slotAt m) := by
  induction l generalizing s with
  | nil => cases hm
  | cons n r ih =>
    obtain ⟨hn, hr⟩ := List.nodup_cons.1 hd
    by_cases e : m = n
    · subst e
      exact (slotAt_foldl_updSlot_notMem r _ hn).trans (State.slotAt_updSlot_same s m f)
    · exact (ih hr _ ((List.mem_cons.1 hm).resolve_left e)).trans (congrArg f (State.slotAt_updSlot_ne s f e))

theorem coreAt_congr {s t : State} (h : t.cores = s.cores) (core : Nat) : t.coreAt core = s.coreAt core := by
  unfold State.coreAt
  rw [h]

theorem slotsOf_nodup (core : Nat) : (slotsOf core).Nodup := upto_nodup 4 _

/-! ### CAPACITY (R68) -/

theorem raiseCapacity_cores (s : State) (core slot : Nat) : (s.raiseCapacity core slot).cores = s.cores := by
  unfold State.raiseCapacity
  split
  · split <;> rfl
  · rfl

theorem raiseOver_cores (s : State) (core : Nat) : (s.raiseOver core).cores = s.cores := by
  unfold State.raiseOver
  split
  · rfl
  · exact foldl_keeps State.cores (fun t n => raiseCapacity_cores t core n) _ s

theorem updSlot_keeps_grantT (s : State) (n m : Nat) {f : Slot → Slot} (hf : ∀ k, (f k).grantT = k.grantT) :
    ((s.updSlot n f).slotAt m).grantT = (s.slotAt m).grantT := by
  rw [State.slotAt_updSlot]
  split
  · next e => rw [hf, e]
  · rfl

theorem raise_grantT (s : State) (n m : Nat) (t : Trap) : ((s.raise n t).slotAt m).grantT = (s.slotAt m).grantT :=
  updSlot_keeps_grantT s n m fun _ => rfl

theorem raiseCapacity_grantT (s : State) (core slot m : Nat) :
    ((s.raiseCapacity core slot).slotAt m).grantT = (s.slotAt m).grantT := by
  unfold State.raiseCapacity
  split
  · split
    · rfl
    · exact (raise_grantT _ slot m _).trans (updSlot_keeps_grantT s slot m (f := fun k => { k with overCap := true }) fun _ => rfl)
  · rfl

theorem raiseOver_grantT (s : State) (core m : Nat) : ((s.raiseOver core).slotAt m).grantT = (s.slotAt m).grantT := by
  unfold State.raiseOver
  split
  · rfl
  · exact foldl_keeps (fun t : State => (t.slotAt m).grantT) (fun t n => raiseCapacity_grantT t core n m) _ s

/-! ### Banks -/

/-- A register of live banks with one bank taken out. -/
theorem getLsbD_without {w : Nat} (x : BitVec w) (i : Nat) {b : Nat} (hb : b < w) :
    (x &&& ~~~(BitVec.twoPow w i)).getLsbD b = (x.getLsbD b && decide (b ≠ i)) := by
  rw [BitVec.getLsbD_and, BitVec.getLsbD_not, BitVec.getLsbD_twoPow]
  by_cases e : i = b
  · subst e
    simp [hb]
  · simp [hb, e, Ne.symm e]

/-- The live banks are no part of the retirement in progress. -/
theorem bankLive_updRet (s : State) (core array bank : Nat) (f : Ret → Ret) :
    (s.updCore core fun c => { c with ret := f c.ret }).bankLive core array bank = s.bankLive core array bank := by
  unfold State.bankLive
  rw [State.coreAt_updCore_same]
  rfl

theorem bankLive_of_retirable {s : State} {core array bank : Nat} (live : s.retirable core array bank = true) :
    s.bankLive core array bank = true := (Bool.and_eq_true_iff.1 live).2

section

variable {s : State} {core : Nat}

/-! ### Requests, and the end of a retirement (R336, R337) -/

/-- With no request queued nothing begins. -/
theorem beginRetirement_none (hp : (s.coreAt core).ret.phase = 0) (hq : (s.coreAt core).ret.queue = []) :
    s.beginRetirement core = s.updCore core fun c => { c with ret := { c.ret with queue := [] } } := by
  unfold State.beginRetirement
  simp [hp, hq]

theorem coreAt_beginRetirement_none (hp : (s.coreAt core).ret.phase = 0) (hq : (s.coreAt core).ret.queue = []) :
    (s.beginRetirement core).coreAt core = s.coreAt core := by
  rw [beginRetirement_none hp hq, State.coreAt_updCore_same, ← hq]

/-- The one request queued begins if its bank is live. -/
theorem ret_beginRetirement_live {array bank : Nat} (hp : (s.coreAt core).ret.phase = 0)
    (hq : (s.coreAt core).ret.queue = [(array, bank)]) (live : s.bankLive core array bank = true) :
    ((s.beginRetirement core).coreAt core).ret =
      { (s.coreAt core).ret with phase := 1, array := array, bank := bank, queue := []
                                 deadline := s.time + 1000 * (s.coreAt core).ret.retdl.setWidth 64 } := by
  unfold State.beginRetirement
  simp only [hp, hq, List.dropWhile, live, ne_eq, not_true_eq_false, if_false, Bool.not_true]
  refine (congrArg Core.ret (coreAt_congr (foldl_keeps State.cores ?_ (slotsOf core) _) core)).trans ?_
  · exact fun t n => rfl
  · rw [State.coreAt_updCore_same]

/-- What RETREQ writes: its registers, and where the bank may retire the request behind those queued. -/
def Machine.Ret.request (r : Ret) (array bank : Nat) (ok : Bool) : Ret :=
  { r with reqArray := array, reqBank := bank, refused := !ok, queue := if ok then r.queue ++ [(array, bank)] else r.queue }

/-- RETREQ writes its request, and an idle core begins it. -/
theorem exec_retreq (s : State) (core array bank : Nat) : exec (.retreq core array bank) s =
    .next ((s.updCore core fun c => { c with ret := c.ret.request array bank (s.retirable core array bank) }).beginRetirement
      core) := rfl

theorem retreq_accepted {array bank : Nat} (hp : (s.coreAt core).ret.phase = 0) (hq : (s.coreAt core).ret.queue = [])
    (live : s.retirable core array bank = true) :
    ∃ t, exec (.retreq core array bank) s = .next t ∧ (t.coreAt core).ret =
      { (s.coreAt core).ret with reqArray := array, reqBank := bank, refused := false, phase := 1, array := array, bank := bank
                                 deadline := s.time + 1000 * (s.coreAt core).ret.retdl.setWidth 64 } := by
  refine ⟨_, exec_retreq s core array bank, ?_⟩
  have request : (s.coreAt core).ret.request array bank (s.retirable core array bank) =
      { (s.coreAt core).ret with reqArray := array, reqBank := bank, refused := false, queue := [(array, bank)] } := by
    simp [Ret.request, live, hq]
  have keeps := bankLive_updRet s core array bank fun r => r.request array bank (s.retirable core array bank)
  rw [ret_beginRetirement_live ?_ ?_ (keeps.trans (bankLive_of_retirable live)), State.coreAt_updCore_same, request]
  · simp [hq]
  · rw [State.coreAt_updCore_same, request]
    exact hp
  · rw [State.coreAt_updCore_same, request]

theorem retreq_refused {array bank : Nat} (hp : (s.coreAt core).ret.phase = 0) (hq : (s.coreAt core).ret.queue = [])
    (dead : s.retirable core array bank = false) :
    ∃ t, exec (.retreq core array bank) s = .next t ∧ (t.coreAt core).ret =
      { (s.coreAt core).ret with reqArray := array, reqBank := bank, refused := true } := by
  refine ⟨_, exec_retreq s core array bank, ?_⟩
  have request : (s.coreAt core).ret.request array bank (s.retirable core array bank) =
      { (s.coreAt core).ret with reqArray := array, reqBank := bank, refused := true } := by
    simp [Ret.request, dead]
  rw [coreAt_beginRetirement_none, State.coreAt_updCore_same, request]
  · rw [State.coreAt_updCore_same, request]
    exact hp
  · rw [State.coreAt_updCore_same, request]
    exact hq

/-- A core with no retirement in progress. -/
def Machine.Core.idle (c : Core) : Core := { c with ret := { c.ret with phase := 0, moving := none, todo := [] } }

/-- The bank of a retirement is recorded, and the core idle (R337). -/
def Machine.State.recordBank (s : State) (core : Nat) : State :=
  { s with retired := s.retired ++ [((s.coreAt core).ret.array, (s.coreAt core).ret.bank, core)] }.updCore core Core.idle

theorem endRetirement_eq (s : State) (core : Nat) : s.endRetirement core = (s.recordBank core).beginRetirement core := rfl

theorem coreAt_recordBank (s : State) (core : Nat) : (s.recordBank core).coreAt core = (s.coreAt core).idle :=
  State.coreAt_updCore_same _ _ _

/-- The end of the last retirement leaves the core idle. -/
theorem endRetirement_last (hq : (s.coreAt core).ret.queue = []) :
    (s.endRetirement core).retired = s.retired ++ [((s.coreAt core).ret.array, (s.coreAt core).ret.bank, core)] ∧
      (s.endRetirement core).coreAt core = (s.coreAt core).idle := by
  have phase : ((s.recordBank core).coreAt core).ret.phase = 0 := by
    rw [coreAt_recordBank]
    rfl
  have queue : ((s.recordBank core).coreAt core).ret.queue = [] := by
    rw [coreAt_recordBank]
    exact hq
  rw [endRetirement_eq]
  constructor
  · rw [beginRetirement_none phase queue]
    rfl
  · rw [coreAt_beginRetirement_none phase queue, coreAt_recordBank]

/-! ### The phases of a tile-store retirement (R66, R67) -/

/-- A core that has lost 16 tile slots and stands in phase 2. -/
def Machine.Core.shrunk (c : Core) : Core := { c with capTile := c.capTile - 16, ret := { c.ret with phase := 2 } }

/-- A task whose GRANT is no higher than its QUOTA. -/
def Machine.Slot.grantToQuota (k : Slot) : Slot := { k with grantT := min k.grantT k.quotaT }

/-- A core shrunk, with the GRANTs of its tasks. -/
def Machine.State.shrunk (s : State) (core : Nat) : State :=
  (slotsOf core).foldl (fun t n => t.updSlot n Slot.grantToQuota) (s.updCore core Core.shrunk)

theorem coreAt_shrunk (s : State) (core : Nat) : (s.shrunk core).coreAt core = (s.coreAt core).shrunk := by
  have cores : (s.shrunk core).cores = (s.updCore core Core.shrunk).cores :=
    foldl_keeps State.cores (fun t n => State.updSlot_cores t n _) _ _
  rw [coreAt_congr cores core, State.coreAt_updCore_same]

theorem slotAt_shrunk (s : State) {core m : Nat} (hm : m ∈ slotsOf core) :
    (s.shrunk core).slotAt m = (s.slotAt m).grantToQuota :=
  slotAt_foldl_updSlot_mem (slotsOf_nodup core) _ hm

theorem exec_shrink (hp : (s.coreAt core).ret.phase = 1) (ha : (s.coreAt core).ret.array = 0) :
    exec (.shrink core) s = .next ((s.shrunk core).raiseOver core) := by
  change execShrink core s = _
  unfold execShrink
  exact if_neg (by simp [hp, ha])

theorem shrink_lowers (hp : (s.coreAt core).ret.phase = 1) (ha : (s.coreAt core).ret.array = 0) :
    ∃ t, exec (.shrink core) s = .next t ∧ (t.coreAt core).capTile = (s.coreAt core).capTile - 16 ∧
      (t.coreAt core).ret = { (s.coreAt core).ret with phase := 2 } ∧
      ∀ m ∈ slotsOf core, (t.slotAt m).grantT = min (s.slotAt m).grantT (s.slotAt m).quotaT := by
  have coreAt : ((s.shrunk core).raiseOver core).coreAt core = (s.coreAt core).shrunk :=
    (coreAt_congr (raiseOver_cores _ core) core).trans (coreAt_shrunk s core)
  refine ⟨_, exec_shrink hp ha, congrArg Core.capTile coreAt, congrArg Core.ret coreAt, fun m hm => ?_⟩
  rw [raiseOver_grantT, slotAt_shrunk s hm]
  rfl

theorem retirementDeadline_stops (hp : (s.coreAt core).ret.phase = 2) (due : s.time.ult (s.coreAt core).ret.deadline = false) :
    exec (.retirementDeadline core) s = .next
      ((((s.overSlots core).foldl (fun t n => t.deadlineStop core n)
        (s.updCore core fun c => { c with ret := { c.ret with relaunched := 0, failed := 0 } })).settleOrphans core).endStanding
          core) := by
  change execRetirementDeadline core s = _
  unfold execRetirementDeadline
  exact if_neg (by simp [hp, due])

/-- Past phase 2 the standing phase has nothing left to end. -/
theorem tryStanding_later (hp : (s.coreAt core).ret.phase ≠ 2) : s.tryStanding core = s := if_neg fun h => hp h.1

theorem startMove_starts {done : State → State} {i : Nat} {rest : List Nat} (todo : (s.coreAt core).ret.todo = i :: rest)
    (tile : (s.tileAt core i).st ≠ .free) (still : s.writing core i = false) :
    s.startMove core done = s.updCore core fun c => { c with ret := { c.ret with moving := some i } } := by
  unfold State.startMove
  simp [todo, tile, still]

theorem relocate_starts (hp : (s.coreAt core).ret.phase = 3) (hm : (s.coreAt core).ret.moving = none) {i : Nat} {rest : List Nat}
    (todo : (s.coreAt core).ret.todo = i :: rest) (tile : (s.tileAt core i).st ≠ .free) (still : s.writing core i = false) :
    exec (.relocate core) s = .next (s.updCore core fun c => { c with ret := { c.ret with moving := some i } }) := by
  change execRelocate core s = _
  unfold execRelocate
  rw [tryStanding_later (by simp [hp])]
  simp [hp, hm, startMove_starts todo tile still]

theorem reInterleave_starts (hp : (s.coreAt core).ret.phase = 4) (hm : (s.coreAt core).ret.moving = none) {i : Nat}
    {rest : List Nat} (todo : (s.coreAt core).ret.todo = i :: rest) (tile : (s.tileAt core i).st ≠ .free)
    (still : s.writing core i = false) :
    exec (.reInterleave core) s = .next (s.updCore core fun c => { c with ret := { c.ret with moving := some i } }) := by
  change execReInterleave core s = _
  unfold execReInterleave
  simp [hp, hm, startMove_starts todo tile still]

theorem reInterleave_ends (hp : (s.coreAt core).ret.phase = 4) {i : Nat} (hm : (s.coreAt core).ret.moving = some i) :
    exec (.reInterleave core) s =
      .next (s.updCore core fun c => { c with ret := { c.ret with moving := none, todo := c.ret.todo.tail } }) := by
  change execReInterleave core s = _
  unfold execReInterleave
  simp only [hp, hm]
  rfl

theorem reInterleave_done (hp : (s.coreAt core).ret.phase = 4) (hm : (s.coreAt core).ret.moving = none)
    (todo : (s.coreAt core).ret.todo = []) :
    exec (.reInterleave core) s = .next (s.updCore core fun c => { c with ret := { c.ret with phase := 5 } }) := by
  change execReInterleave core s = _
  unfold execReInterleave State.startMove
  simp [hp, hm, todo]

end

/-! ### Frames (R62, R63) -/

theorem frameOf_setFrame (c : Core) (i f k : Nat) : (c.setFrame i f).frameOf k = if k = i then f else c.frameOf k := by
  unfold Core.frameOf Core.setFrame
  rw [SMap.get_set]
  split <;> rfl

theorem swapFrames_frameOf (c : Core) (i j : Nat) :
    (c.swapFrames i j).frameOf i = c.frameOf j ∧ (c.swapFrames i j).frameOf j = c.frameOf i := by
  unfold Core.swapFrames
  simp only [frameOf_setFrame, if_true]
  refine ⟨?_, trivial⟩
  split
  · next e => rw [e]
  · rfl

theorem repair_keeps {β : Type} (p : Core → β) (hp : ∀ (c : Core) (i j : Nat), p (c.swapFrames i j) = p c) (c : Core) :
    p c.repair = p c := by
  unfold Core.repair
  refine foldl_keeps p (fun d i => ?_) _ c
  split
  · rfl
  · split
    · exact hp d i _
    · rfl

section

variable {s : State} {core : Nat}

/-- The frame of a tile that moves is exchanged for the first free one that stays (R67). -/
def Machine.Core.moveOut (i : Nat) (c : Core) : Core :=
  match c.freeFrames with
  | j :: _ => c.swapFrames i j
  | [] => c

theorem moveOut_eq {c : Core} {j : Nat} {rest : List Nat} (free : c.freeFrames = j :: rest) (i : Nat) :
    c.moveOut i = c.swapFrames i j := by
  unfold Core.moveOut
  rw [free]

theorem exec_relocate_moving (hp : (s.coreAt core).ret.phase = 3) {i : Nat} (hm : (s.coreAt core).ret.moving = some i) :
    exec (.relocate core) s = .next (s.endMove core (Core.moveOut i)) := by
  change execRelocate core s = _
  unfold execRelocate
  rw [tryStanding_later (by simp [hp])]
  simp only [hp, hm]
  rfl

theorem coreAt_endMove (s : State) (core : Nat) (f : Core → Core) : (s.endMove core f).coreAt core =
    { f (s.coreAt core) with ret := { (f (s.coreAt core)).ret with moving := none, todo := (f (s.coreAt core)).ret.todo.tail } } :=
  State.coreAt_updCore_same s core _

theorem relocate_ends (hp : (s.coreAt core).ret.phase = 3) {i : Nat} (hm : (s.coreAt core).ret.moving = some i) {j : Nat}
    {rest : List Nat} (free : (s.coreAt core).freeFrames = j :: rest) :
    ∃ t, exec (.relocate core) s = .next t ∧
      (t.coreAt core).frameOf i = (s.coreAt core).frameOf j ∧ (t.coreAt core).frameOf j = (s.coreAt core).frameOf i ∧
      (t.coreAt core).tiles = (s.coreAt core).tiles ∧
      (t.coreAt core).ret = { (s.coreAt core).ret with moving := none, todo := (s.coreAt core).ret.todo.tail } := by
  obtain ⟨hi, hj⟩ := swapFrames_frameOf (s.coreAt core) i j
  refine ⟨_, exec_relocate_moving hp hm, ?_⟩
  rw [coreAt_endMove, moveOut_eq free]
  exact ⟨hi, hj, rfl, rfl⟩

/-- A core whose tile-store bank has left its group. -/
def Machine.Core.closed (bank : Nat) (c : Core) : Core :=
  { c.repair with tileBanks := c.repair.tileBanks &&& ~~~(BitVec.twoPow 32 bank) }

theorem exec_close (hp : (s.coreAt core).ret.phase = 5) :
    exec (.close core) s = .next ((s.updCore core (Core.closed (s.coreAt core).ret.bank)).endRetirement core) := by
  change execClose core s = _
  unfold execClose
  exact if_neg (by simp [hp])

theorem closed_ret (bank : Nat) (c : Core) : (c.closed bank).ret = c.ret := repair_keeps Core.ret (fun _ _ _ => rfl) c

theorem closed_tileBanks (bank : Nat) (c : Core) {b : Nat} (hb : b < 32) :
    (c.closed bank).tileBanks.getLsbD b = (c.tileBanks.getLsbD b && decide (b ≠ bank)) := by
  rw [← repair_keeps Core.tileBanks (fun _ _ _ => rfl) c]
  exact getLsbD_without _ _ hb

/-- A bank retires from a core in one change, with no request behind it: it is recorded, and the core idle. -/
theorem endRetirement_updCore (hq : (s.coreAt core).ret.queue = []) {f : Core → Core}
    (hf : (f (s.coreAt core)).ret = (s.coreAt core).ret) :
    ((s.updCore core f).endRetirement core).coreAt core = (f (s.coreAt core)).idle ∧
      ((s.updCore core f).endRetirement core).retired =
        s.retired ++ [((s.coreAt core).ret.array, (s.coreAt core).ret.bank, core)] := by
  have coreAt : (s.updCore core f).coreAt core = f (s.coreAt core) := State.coreAt_updCore_same s core f
  obtain ⟨retired, ended⟩ := endRetirement_last (s := s.updCore core f) (core := core) (by rw [coreAt, hf, hq])
  rw [coreAt, hf] at retired
  rw [coreAt] at ended
  exact ⟨ended, retired⟩

theorem close_retires (hp : (s.coreAt core).ret.phase = 5) (hq : (s.coreAt core).ret.queue = []) :
    ∃ t, exec (.close core) s = .next t ∧
      (∀ b, b < 32 → (t.coreAt core).tileBanks.getLsbD b =
        ((s.coreAt core).tileBanks.getLsbD b && decide (b ≠ (s.coreAt core).ret.bank))) ∧
      t.retired = s.retired ++ [((s.coreAt core).ret.array, (s.coreAt core).ret.bank, core)] ∧ (t.coreAt core).ret.phase = 0 := by
  obtain ⟨coreAt, retired⟩ := endRetirement_updCore hq (closed_ret (s.coreAt core).ret.bank (s.coreAt core))
  refine ⟨_, exec_close hp, fun b hb => ?_, retired, congrArg (·.ret.phase) coreAt⟩
  exact (congrArg (·.tileBanks.getLsbD b) coreAt).trans (closed_tileBanks _ _ hb)

/-! ### The other banks (R64, R65) -/

theorem bankRetirement_takes (hp : (s.coreAt core).ret.phase = 1) {array : Nat} (ha : (s.coreAt core).ret.array = array)
    (other : array ≠ 0) {t : State} (ht : s.retireBank core array (s.coreAt core).ret.bank = some t) :
    exec (.bankRetirement core) s = .next t := by
  change execBankRetirement core s = _
  unfold execBankRetirement
  simp only [hp, ha, ht, other, ne_eq, not_false_eq_true, and_self, if_true, Option.getD_some]

theorem instructionBank_retires (hp : (s.coreAt core).ret.phase = 1) (hq : (s.coreAt core).ret.queue = [])
    (ha : (s.coreAt core).ret.array = 5) :
    ∃ t, exec (.bankRetirement core) s = .next t ∧ (t.coreAt core).capI = (s.coreAt core).capI - 32 ∧
      (∀ b, b < 4 → (t.coreAt core).iBanks.getLsbD b =
        ((s.coreAt core).iBanks.getLsbD b && decide (b ≠ (s.coreAt core).ret.bank))) ∧
      t.retired = s.retired ++ [(5, (s.coreAt core).ret.bank, core)] ∧ (t.coreAt core).ret.phase = 0 := by
  obtain ⟨coreAt, retired⟩ := endRetirement_updCore hq (f := fun c =>
    { c with iBanks := c.iBanks &&& ~~~(BitVec.twoPow 4 (s.coreAt core).ret.bank), capI := c.capI - 32 }) rfl
  rw [ha] at retired
  exact ⟨_, bankRetirement_takes hp ha (by decide) rfl, congrArg Core.capI coreAt,
    fun b hb => (congrArg (·.iBanks.getLsbD b) coreAt).trans (getLsbD_without _ _ hb), retired, congrArg (·.ret.phase) coreAt⟩

theorem parityBank_retires (hp : (s.coreAt core).ret.phase = 1) (hq : (s.coreAt core).ret.queue = [])
    (ha : (s.coreAt core).ret.array = 1) :
    ∃ t, exec (.bankRetirement core) s = .next t ∧
      (∀ b, b < 4 → (t.coreAt core).parBanks.getLsbD b =
        ((s.coreAt core).parBanks.getLsbD b && decide (b ≠ (s.coreAt core).ret.bank))) ∧
      t.retired = s.retired ++ [(1, (s.coreAt core).ret.bank, core)] ∧ (t.coreAt core).ret.phase = 0 := by
  obtain ⟨coreAt, retired⟩ := endRetirement_updCore hq (f := fun c =>
    { c with parBanks := c.parBanks &&& ~~~(BitVec.twoPow 4 (s.coreAt core).ret.bank) }) rfl
  rw [ha] at retired
  exact ⟨_, bankRetirement_takes hp ha (by decide) rfl,
    fun b hb => (congrArg (·.parBanks.getLsbD b) coreAt).trans (getLsbD_without _ _ hb), retired, congrArg (·.ret.phase) coreAt⟩

theorem accumulatorBank_stands (hp : (s.coreAt core).ret.phase = 1) (ha : (s.coreAt core).ret.array = 2) :
    ∃ t, exec (.bankRetirement core) s = .next t ∧ (t.coreAt core).capAcc = (s.coreAt core).capAcc - 4 ∧
      (t.coreAt core).ret.phase = 2 := by
  refine ⟨_, bankRetirement_takes hp ha (by decide) rfl, ?_⟩
  rw [coreAt_congr (raiseOver_cores _ core) core, State.coreAt_updCore_same]
  exact ⟨rfl, rfl⟩

/-- A word other than the last moves: the count of the bank's moved words is one more. -/
theorem syncWordMove_moves (hc : core % 48 = 0) (hp : (s.coreAt core).ret.phase = 4) (ha : (s.coreAt core).ret.array = 16)
    (more : SMap.get s.sync.spill 0 (core / 48 * 2 ^ 19 + (s.coreAt core).ret.bank * 2 ^ 15) + 1 < 2 ^ 15) :
    let w := core / 48 * 2 ^ 19 + (s.coreAt core).ret.bank * 2 ^ 15
    exec (.syncWordMove (core / 48)) s =
      .next { s with sync := { s.sync with spill := SMap.set s.sync.spill 0 w (SMap.get s.sync.spill 0 w + 1) } } := by
  have die : 48 * (core / 48) = core := Nat.mul_div_cancel' (Nat.dvd_of_mod_eq_zero hc)
  change execSyncWordMove (core / 48) s = _
  unfold execSyncWordMove bankWord
  rw [die]
  simp only [hp, ha, ne_eq, not_true_eq_false, or_self, if_false, if_neg (Nat.not_le.2 more)]

/-! ### QUOTA (R336) -/

/-- The quotas of a pair of a core. -/
def Machine.Core.setQuota (n tile acc : Nat) (c : Core) : Core :=
  { c with quotaT := SMap.set c.quotaT 512 n tile, quotaA := SMap.set c.quotaA 32 n acc }

/-- The quotas of a task, no higher than the PART and ACC of its job. -/
def Machine.Slot.setQuota (tile acc jobAcc : Nat) (k : Slot) : Slot :=
  { k with quotaT := min k.task.part tile, quotaA := min jobAcc acc }

/-- The quotas of a pair, and those of a task that runs on it. -/
def Machine.State.setQuota (s : State) (core n tile acc : Nat) : State :=
  let k := s.slotAt (4 * core + n)
  let t := s.updCore core (Core.setQuota n tile acc)
  if k.st = .free then t else t.updSlot (4 * core + n) (Slot.setQuota tile acc (s.jobAt k.task.job).acc)

theorem exec_quota {n : Nat} (hn : n < 4) (tile : BitVec 10) (acc : BitVec 6) :
    exec (.quota core n tile acc) s = .next ((s.setQuota core n tile.toNat acc.toNat).raiseOver core) := by
  change execQuota core n tile acc s = _
  unfold execQuota
  exact if_neg (Nat.not_le.2 hn)

theorem coreAt_setQuota (s : State) (core n tile acc : Nat) :
    (s.setQuota core n tile acc).coreAt core = (s.coreAt core).setQuota n tile acc := by
  have cores : (s.setQuota core n tile acc).cores = (s.updCore core (Core.setQuota n tile acc)).cores := by
    unfold State.setQuota
    dsimp only
    split <;> rfl
  rw [coreAt_congr cores core, State.coreAt_updCore_same]

theorem slotAt_setQuota (s : State) (core n tile acc : Nat) :
    let k := s.slotAt (4 * core + n)
    (s.setQuota core n tile acc).slotAt (4 * core + n) =
      if k.st = .free then k else k.setQuota tile acc (s.jobAt k.task.job).acc := by
  unfold State.setQuota
  dsimp only
  split
  · rfl
  · exact State.slotAt_updSlot_same (s.updCore core _) _ _

/-- CAPACITY is raised only while a retirement is in progress (log 61). -/
theorem raiseOver_idle (hp : (s.coreAt core).ret.phase = 0) : s.raiseOver core = s := if_pos hp

theorem quota_sets {n : Nat} (hn : n < 4) (hp : (s.coreAt core).ret.phase = 0) (tile : BitVec 10) (acc : BitVec 6) :
    let k := s.slotAt (4 * core + n)
    ∃ t, exec (.quota core n tile acc) s = .next t ∧ SMap.get (t.coreAt core).quotaT 512 n = tile.toNat ∧
      SMap.get (t.coreAt core).quotaA 32 n = acc.toNat ∧ t.slotAt (4 * core + n) = if k.st = .free then k else
        { k with quotaT := min k.task.part tile.toNat, quotaA := min (s.jobAt k.task.job).acc acc.toNat } := by
  have coreAt := coreAt_setQuota s core n tile.toNat acc.toNat
  have idle : ((s.setQuota core n tile.toNat acc.toNat).coreAt core).ret.phase = 0 := by
    rw [coreAt]
    exact hp
  refine ⟨_, (exec_quota hn tile acc).trans (congrArg _ (raiseOver_idle idle)), ?_, ?_, slotAt_setQuota ..⟩
  · rw [coreAt]
    exact SMap.get_set_same _ _ _ _
  · rw [coreAt]
    exact SMap.get_set_same _ _ _ _

end

/-- Settles O57: a case for each event, and for each phase that answers it differently. -/
theorem capacityEvents : Obligations.CapacityEvents := by
  unfold Obligations.CapacityEvents
  intro s core n
  refine ⟨fun hp hq array bank => ⟨retreq_accepted hp hq, retreq_refused hp hq⟩, shrink_lowers, retirementDeadline_stops,
    ?starts, fun i hm => ⟨fun hp j rest => relocate_ends hp hm, fun hp => reInterleave_ends hp hm⟩, reInterleave_done,
    fun hp hq _ => close_retires hp hq, fun hp hq => ⟨fun ha _ => instructionBank_retires hp hq ha,
      fun ha _ => parityBank_retires hp hq ha, accumulatorBank_stands hp⟩, syncWordMove_moves, quota_sets⟩
  case starts =>
    rintro (hp | hp) hm i rest todo tile still
    · exact (congrArg (exec · s) (if_pos hp)).trans (relocate_starts hp hm todo tile still)
    · have other : (s.coreAt core).ret.phase ≠ 3 := fun h => absurd (hp.symm.trans h) (by decide)
      exact (congrArg (exec · s) (if_neg other)).trans (reInterleave_starts hp hm todo tile still)

end Sys2Proof

/-! The proof of O50. Elements of an accumulator, and what a matrix command leaves in them. -/

namespace Sys2Proof

open Machine

/-! ### Elements of an accumulator (R229) -/

/-- Element (i, j) of accumulator `n`. -/
def Machine.Slot.accElem (k : Slot) (n i j : Nat) : Nat :=
  (SMap.get k.acc 0 (128 * n + i)).toNat / 2 ^ (32 * j) % 2 ^ 32

theorem accElem_lt (k : Slot) (n i j : Nat) : k.accElem n i j < 2 ^ 32 := Nat.mod_lt _ (Nat.two_pow_pos 32)

theorem accElem_congr {k k' : Slot} (h : k'.acc = k.acc) : k'.accElem = k.accElem := by
  unfold Slot.accElem
  rw [h]

theorem accElem_setAccTag (k : Slot) (n : Nat) (t : AccTag) : (k.setAccTag n t).accElem = k.accElem := accElem_congr rfl

/-- A word packed from 128 values has them, cut to 32 bits, as its elements. -/
theorem packed_elem (f : Nat → Nat) {j : Nat} (hj : j < 128) :
    (BitVec.ofNat 4096 (packBits 32 ((upto 128 0).map f))).toNat / 2 ^ (32 * j) % 2 ^ 32 = f j % 2 ^ 32 := by
  have len : ((upto 128 0).map f).length = 128 := by rw [List.length_map, length_upto]
  have value : ((upto 128 0).map f)[j]'(by omega) = f j := by rw [List.getElem_map, getElem_upto, Nat.zero_add]
  rw [toNat_ofNat_packBits (by rw [len]), packBits_lane 32 _ j (by omega), value]

/-! ### A row at a time -/

/-- Row `i` of accumulator `n` set to the values `r i`, with their flags: one step of `Slot.mapAcc`. -/
def Machine.Slot.putRow (n : Nat) (r : Nat → List Flagged) (k : Slot) (i : Nat) : Slot :=
  (k.setAccRow n i ((r i).map (·.1))).setFlags ((r i).foldl (fun m e => m ||| e.2) 0)

section

variable (n : Nat) (r : Nat → List Flagged)

theorem putRow_row (k : Slot) (i x : Nat) : SMap.get (k.putRow n r i).acc 0 x =
    if x = 128 * n + i then BitVec.ofNat 4096 (packBits 32 ((r i).map (·.1))) else SMap.get k.acc 0 x :=
  SMap.get_set _ _ _ _ _

theorem foldl_putRow_row_ne (l : List Nat) (k : Slot) {x : Nat} (hx : ∀ i ∈ l, x ≠ 128 * n + i) :
    SMap.get (l.foldl (Slot.putRow n r) k).acc 0 x = SMap.get k.acc 0 x := by
  induction l generalizing k with
  | nil => rfl
  | cons i l ih =>
    refine (ih _ fun y hy => hx y (List.mem_cons_of_mem _ hy)).trans ?_
    rw [putRow_row, if_neg (hx i List.mem_cons_self)]

theorem foldl_putRow_row {l : List Nat} (k : Slot) {i : Nat} (hi : i ∈ l) :
    SMap.get (l.foldl (Slot.putRow n r) k).acc 0 (128 * n + i) = BitVec.ofNat 4096 (packBits 32 ((r i).map (·.1))) := by
  induction l generalizing k with
  | nil => cases hi
  | cons y l ih =>
    by_cases again : i ∈ l
    · exact ih _ again
    · obtain rfl := (List.mem_cons.1 hi).resolve_right again
      refine (foldl_putRow_row_ne n r l _ fun y hy e => again ?_).trans ?_
      · rwa [Nat.add_left_cancel e]
      · rw [putRow_row, if_pos rfl]

theorem foldl_putRow_rest (l : List Nat) (k : Slot) :
    { l.foldl (Slot.putRow n r) k with acc := k.acc, statNum := k.statNum } = k :=
  foldl_keeps (fun x : Slot => { x with acc := k.acc, statNum := k.statNum }) (f := Slot.putRow n r) (fun _ _ => rfl) l k

variable (f : Nat → List Nat → List Flagged) (k : Slot)

/-- Every row is computed from what it held before the first of them was written. -/
theorem mapAcc_eq : k.mapAcc n f = (upto 128 0).foldl (Slot.putRow n fun i => f i (k.accRow n i)) k := by
  unfold Slot.mapAcc
  generalize upto 128 0 = rows
  rfl

/-- Elements of an accumulator each of whose rows becomes the values `v`. -/
theorem accElem_mapAcc {i j : Nat} {v : Nat → Flagged} (hv : f i (k.accRow n i) = (upto 128 0).map v)
    (hi : i < 128) (hj : j < 128) : (k.mapAcc n f).accElem n i j = (v j).1 % 2 ^ 32 := by
  unfold Slot.accElem
  rw [mapAcc_eq, foldl_putRow_row n _ k (mem_upto.2 ⟨Nat.zero_le i, by omega⟩), hv, List.map_map]
  exact packed_elem _ hj

theorem accElem_mapAcc_ne {m i : Nat} (hm : m ≠ n) (hi : i < 128) (j : Nat) :
    (k.mapAcc n f).accElem m i j = k.accElem m i j := by
  unfold Slot.accElem
  rw [mapAcc_eq, foldl_putRow_row_ne n _ _ k fun x hx => by have := mem_upto.1 hx; omega]

theorem mapAcc_rest : { k.mapAcc n f with acc := k.acc, statNum := k.statNum } = k := by
  rw [mapAcc_eq]
  exact foldl_putRow_rest n _ _ k

end

/-! ### An accumulator written whole -/

/-- Slot `k'` is `k` with the elements of accumulator `d` at the values `v`, its TYPE and DISC at `tag`, and other flags. -/
structure AccWritten (k k' : Slot) (d : Reg) (v : Nat → Nat → Nat) (tag : AccTag) : Prop where
  rest : { k' with acc := k.acc, accTag := k.accTag, statNum := k.statNum } = k
  elems : ∀ i j, i < 128 → j < 128 → k'.accElem d.toNat i j = v i j
  tag : SMap.get k'.accTag {} d.toNat = tag
  others : ∀ n : Reg, ∀ i j, n ≠ d → i < 128 → j < 128 → k'.accElem n.toNat i j = k.accElem n.toNat i j

theorem mapAcc_writes (k : Slot) (d : Reg) (f : Nat → List Nat → List Flagged) (tag : AccTag) {v : Nat → Nat → Flagged}
    (hv : ∀ i, f i (k.accRow d.toNat i) = (upto 128 0).map (v i)) (hlt : ∀ i j, (v i j).1 < 2 ^ 32) :
    AccWritten k ((k.mapAcc d.toNat f).setAccTag d.toNat tag) d (fun i j => (v i j).1) tag := by
  have rest := mapAcc_rest d.toNat f k
  have elems (i j) (hi : i < 128) (hj : j < 128) := accElem_mapAcc d.toNat f k (hv i) hi hj
  have others (n : Reg) (i j) (hn : n ≠ d) (hi : i < 128) :=
    accElem_mapAcc_ne d.toNat f k (fun e => hn (BitVec.eq_of_toNat_eq e)) hi j
  generalize k.mapAcc d.toNat f = k' at rest elems others ⊢
  refine ⟨congrArg (fun x : Slot => { x with accTag := k.accTag }) rest, fun i j hi hj => ?_, SMap.get_set_same _ _ _ _,
    fun n i j hn hi _ => ?_⟩
  · rw [accElem_setAccTag, elems i j hi hj, Nat.mod_eq_of_lt (hlt i j)]
  · rw [accElem_setAccTag, others n i j hn hi]

/-- What MZERO makes of its slot (R236). -/
def Machine.Slot.zeroAcc (k : Slot) (d : Reg) (disc : Bool) : Slot :=
  (k.mapAcc d.toNat fun _ r => r.map fun _ => (identityOf k.cfg, 0)).setAccTag d.toNat { int := k.cfg.int, disc := disc }

/-- What MACC without ADD makes of its slot (R244). -/
def Machine.Slot.copyAcc (k : Slot) (d e : Reg) : Slot :=
  (k.mapAcc d.toNat fun i _ => (k.accRow e.toNat i).map fun v => (v, 0)).setAccTag d.toNat
    { int := (k.accTagOf e.toNat).int, disc := false }

theorem identityOf_lt (c : MCfg) : identityOf c < 2 ^ 32 := by
  unfold identityOf
  split <;> decide

theorem zeroAcc_writes (k : Slot) (d : Reg) (disc : Bool) :
    AccWritten k (k.zeroAcc d disc) d (fun _ _ => identityOf k.cfg) ⟨k.cfg.int, disc⟩ :=
  mapAcc_writes k d _ _ (v := fun _ _ => (identityOf k.cfg, 0)) (fun _ => List.map_map ..) fun _ _ => identityOf_lt k.cfg

/-- The copied rows are those from before the copy, also where source and destination are one accumulator. -/
theorem copyAcc_writes (k : Slot) (d e : Reg) :
    AccWritten k (k.copyAcc d e) d (k.accElem e.toNat) ⟨(k.accTagOf e.toNat).int, false⟩ :=
  mapAcc_writes k d _ _ (v := fun i j => (k.accElem e.toNat i j, 0)) (fun _ => List.map_map ..) fun i j => accElem_lt k _ i j

/-! ### The end of a matrix command -/

section

variable {s : State} {core : Nat} {c : Cmd} {rest : List Cmd}

/-- COMMAND_FINISH of a started entry that works on its slot alone (R10, R12). -/
theorem commandFinish_updSlot {e : Engine} {f : Slot → Slot} (r : Runs s core e c rest)
    (run : s.endOf e (4 * core) c = some (s.updSlot (4 * core) f))
    (queue : (f (s.slotAt (4 * core))).queue e = (s.slotAt (4 * core)).queue e)
    (tok : (f (s.slotAt (4 * core))).tok = (s.slotAt (4 * core)).tok) :
    ∃ t, exec (.commandFinish core e) s = .next t ∧ Finished1 s t core e c rest ∧
      t.slotAt (4 * core) = ((f (s.slotAt (4 * core))).pushTok c.hdr.sig).dropHead e := by
  have ran := commandFinish_runs r run
  obtain ⟨hq, -, -, recorded, fits⟩ := r
  have sig : c.sigLeft = c.hdr.sig := by simp [Cmd.sigLeft, recorded]
  generalize hu : s.updSlot (4 * core) f = u at ran
  have worked : u.slotAt (4 * core) = f (s.slotAt (4 * core)) := hu ▸ State.slotAt_updSlot_same s _ _
  have fitsStill : (u.slotAt (4 * core)).tokFits c.hdr.sig = true := by
    unfold Slot.tokFits at fits ⊢
    rw [worked, tok, fits]
  obtain ⟨left, tokens, others, package⟩ := leaveQueue_effect (e := e) recorded fitsStill
  refine ⟨_, ran, ⟨?_, fun i => ?_, fun n hn => ?_, ?_⟩, ?_⟩
  · rw [left, worked, queue, hq, List.tail_cons]
  · rw [tokens, worked, tok]
  · rw [others n hn, ← hu, State.slotAt_updSlot_ne s _ hn]
  · exact (congrArg (fun t : State => { t with slots := s.slots }) package).trans (hu ▸ updSlot_package s _ _)
  · refine (State.slotAt_updSlot_same u _ _).trans ?_
    rw [sig, if_pos fitsStill, worked]

/-- Only CONFIG, the accumulators and the flags differ. -/
def MatrixStateOnly (k k' : Slot) : Prop :=
  { k' with cfg := k.cfg, acc := k.acc, accTag := k.accTag, statNum := k.statNum } = k

theorem AccWritten.cfg {k k' : Slot} {d : Reg} {v : Nat → Nat → Nat} {tag : AccTag} (w : AccWritten k k' d v tag) :
    k'.cfg = k.cfg := (congrArg Slot.cfg w.rest :)

theorem AccWritten.matrixStateOnly {k k' : Slot} {d : Reg} {v : Nat → Nat → Nat} {tag : AccTag}
    (w : AccWritten k k' d v tag) : MatrixStateOnly k k' := by
  unfold MatrixStateOnly
  rw [← w.cfg]
  exact w.rest

/-- What is written in an accumulator shows in every slot with the same CONFIG, accumulators and tags. -/
theorem AccWritten.shows {k k' q : Slot} {d : Reg} {v : Nat → Nat → Nat} {tag : AccTag} (w : AccWritten k k' d v tag)
    (cfg : q.cfg = k'.cfg) (acc : q.acc = k'.acc) (accTag : q.accTag = k'.accTag) :
    (∀ i j, i < 128 → j < 128 → q.accElem d.toNat i j = v i j) ∧ q.cfg = k.cfg ∧ SMap.get q.accTag {} d.toNat = tag ∧
      ∀ n : Reg, ∀ i j, n ≠ d → i < 128 → j < 128 → q.accElem n.toNat i j = k.accElem n.toNat i j := by
  rw [accElem_congr acc, cfg, accTag]
  exact ⟨w.elems, w.cfg, w.tag, w.others⟩

/-- A matrix command that changes CONFIG and accumulators alone ends with what its computation leaves, its SIG pushed. -/
theorem commandFinish_matrix {f : Slot → Slot} (r : Runs s core .matrix c rest)
    (run : s.matrixRun (4 * core) c = some (s.updSlot (4 * core) f))
    (only : MatrixStateOnly (s.slotAt (4 * core)) (f (s.slotAt (4 * core)))) :
    ∃ t, exec (.commandFinish core .matrix) s = .next t ∧ Finished1 s t core .matrix c rest ∧
      (t.slotAt (4 * core)).cfg = (f (s.slotAt (4 * core))).cfg ∧ (t.slotAt (4 * core)).acc = (f (s.slotAt (4 * core))).acc ∧
      (t.slotAt (4 * core)).accTag = (f (s.slotAt (4 * core))).accTag ∧
      (t.slotAt (4 * core)).v = (s.slotAt (4 * core)).v ∧ (t.slotAt (4 * core)).a = (s.slotAt (4 * core)).a ∧
      (t.slotAt (4 * core)).x = (s.slotAt (4 * core)).x := by
  obtain ⟨t, ran, finished, left⟩ := commandFinish_updSlot r run (congrArg Slot.mq only :) (congrArg Slot.tok only :)
  refine ⟨t, ran, finished, ?_⟩
  rw [left]
  exact ⟨rfl, rfl, rfl, (congrArg Slot.v only :), (congrArg Slot.a only :), (congrArg Slot.x only :)⟩

theorem matrixRun_mset {n : Nat} {h : Hdr} {fa fb : BitVec 4} {sr : BitVec 3} (hi : c.instr = .mset h fa fb sr) :
    s.matrixRun n c = some (s.updSlot n fun k => { k with cfg := ⟨fa, fb, sr⟩ }) := by
  simp only [State.matrixRun, State.operandsReady, State.matrixCompute, State.matrixOutput, hi, if_true]

theorem matrixRun_mzero {n : Nat} {h : Hdr} {d : Reg} {disc : Bool} (hi : c.instr = .mzero h d disc) :
    s.matrixRun n c = some (s.updSlot n fun k => k.zeroAcc d disc) := by
  simp only [State.matrixRun, State.operandsReady, State.matrixCompute, State.matrixOutput, hi, if_true, Slot.zeroAcc]

theorem matrixRun_macc_copy {n : Nat} {h : Hdr} {d e : Reg} (hi : c.instr = .macc h d e false) :
    s.matrixRun n c = some (s.updSlot n fun k => k.copyAcc d e) := by
  simp only [State.matrixRun, State.operandsReady, State.matrixCompute, State.matrixOutput, hi, if_true, Slot.copyAcc,
    Bool.false_eq_true, if_false]

end

/-- Settles O50: MSET writes CONFIG; MZERO and MACC write one accumulator, row by row, and its tag. -/
theorem matrixStateResults : Obligations.MatrixStateResults := by
  unfold Obligations.MatrixStateResults
  intro s core h d e fa fb sr disc c rest runs
  refine ⟨fun hi => ?mset, fun hi => ?mzero, fun hi => ?macc⟩
  case mset =>
    obtain ⟨t, ran, finished, cfg, acc, accTag, frame⟩ := commandFinish_matrix runs (matrixRun_mset hi) rfl
    exact ⟨t, ran, finished, ⟨cfg, acc, accTag⟩, frame⟩
  case mzero =>
    have w := zeroAcc_writes (s.slotAt (4 * core)) d disc
    obtain ⟨t, ran, finished, cfg, acc, accTag, frame⟩ := commandFinish_matrix runs (matrixRun_mzero hi) w.matrixStateOnly
    obtain ⟨elems, written⟩ := w.shows cfg acc accTag
    refine ⟨t, ran, finished, ⟨fun i j hi hj => (elems i j hi hj).trans ?_, written⟩, frame⟩
    -- the four identities of R85, as the statement lists them
    unfold identityOf
    split <;> simp only [*]
  case macc =>
    have w := copyAcc_writes (s.slotAt (4 * core)) d e
    obtain ⟨t, ran, finished, cfg, acc, accTag, frame⟩ := commandFinish_matrix runs (matrixRun_macc_copy hi) w.matrixStateOnly
    exact ⟨t, ran, finished, w.shows cfg acc accTag, frame⟩

end Sys2Proof

/-! The proofs of O6 and O8. Whose turn the next step takes, and the memories of the reset state. -/

namespace Sys2Proof

open Machine

/-! ### Turns (R97, R176) -/

theorem step_head {s : State} {turn : Turn} {r : List Turn} (h : s.agenda = turn :: r) :
    step s = State.take { s with agenda := r } turn := by
  have next : s.nextTurn = (turn, { s with agenda := r }) := by
    unfold State.nextTurn
    rw [h]
  unfold step State.advance
  rw [next]

/-- With nothing in the agenda and the cycle of the core in focus over, time passes and the focus moves on. -/
theorem step_cycle_over {s : State} (h : s.agenda = []) (past : s.cycle.length ≤ s.turn) :
    step s = .next { s with turn := 0, focus := (s.focus + 1) % 192, time := s.time + 1 } := by
  have next : s.nextTurn = (.tick 1, { s with turn := 0, focus := (s.focus + 1) % Config.cores }) := by
    unfold State.nextTurn
    rw [h, List.getElem?_eq_none past]
  unfold step State.advance
  rw [next]
  rfl

/-- Settles O6: the head of the agenda, or past the end of the cycle. -/
theorem stepTakesItsTurn : Obligations.StepTakesItsTurn := by
  unfold Obligations.StepTakesItsTurn
  exact fun s r => ⟨fun _ h => step_head h, fun _ h => step_head h, step_cycle_over⟩

/-- Settles O8: no memory lists a byte. -/
theorem resetMemoryIsCanonical : Obligations.ResetMemoryIsCanonical := by
  unfold Obligations.ResetMemoryIsCanonical
  exact ⟨reset_memoryOk, rfl, rfl⟩

end Sys2Proof

/-! The proof of O41. The binding of a range slot, which waits for its counters. -/

namespace Sys2Proof

open Machine

/-! ### Range bindings (R114, R190, R191) -/

theorem rngIdle_iff (k : Slot) (n : Nat) : k.rngIdle n = true ↔ SMap.get k.locals 0 n = 0 ∧ SMap.get k.homes 0 n = 0 := by
  simp [Slot.rngIdle]

/-- The instruction makes a range slot `r` where its counters stand at zero, and waits where one does not. -/
def SetsRange (s : State) (i : Instr) (h : Hdr) (n : Nat) (r : Rng) : Prop :=
  if SMap.get s.me.locals 0 n = 0 ∧ SMap.get s.me.homes 0 n = 0 then
    CompletesAs s i h s.cur.next none none { s.me with rng := SMap.set s.me.rng {} n r }
  else Stalls s i

theorem setsRange_of_body {s : State} {i : Instr} {h : Hdr} {gs : List Reg} {n : Nat} {r : Rng} {body : State → Body}
    (ready : Ready s h gs []) (he : exec i s = s.issueSeq h gs [] body) (hb : body s = s.bindRng n r) :
    SetsRange s i h n r := by
  unfold SetsRange
  split
  · next idle =>
    unfold CompletesAs
    rw [he]
    refine issueSeq_updMe (f := fun k => { k with rng := SMap.set k.rng {} n r }) ready ?_ rfl ?_
    · exact hb.trans (if_pos ((rngIdle_iff _ n).2 idle))
    · unfold State.mySeq
      cases s.cur.st <;> rfl
  · next busy =>
    unfold Stalls
    rw [he]
    exact issueSeq_stall ready (hb.trans (if_neg fun e => busy ((rngIdle_iff _ n).1 e)))

theorem lengthReg_eq (b : Reg) : (BitVec.setWidth 31 b).extractLsb' 0 5 = b := by
  apply BitVec.eq_of_toNat_eq
  have := b.isLt
  simp
  omega

section

variable {s : State} {h : Hdr} {n : BitVec 4} {a b : Reg} {len : BitVec 31}

/-- KIND 0: the bytes from an address on (R190). -/
theorem rngbind_bytes {lreg : Bool} {l : Nat} (ready : Ready s h (rngRegs a false lreg len) [])
    (hl : (if lreg then (s.rg (len.extractLsb' 0 5)).toNat else len.toNat) = l) (h1 : 1 ≤ l) (h2 : l ≤ 2 ^ 40) :
    SetsRange s (.rngbind h n a false lreg len) h n.toNat
      { bound := true, ident := s.rg a, len := l, lo := (s.rg a).toNat, hi := (s.rg a).toNat + l } := by
  refine setsRange_of_body ready (show execRngbind h n a false lreg len s = _ from rfl) ?_
  subst hl
  simp only [Bool.false_eq_true, if_false]
  exact if_neg (by omega)

/-- A length of 0 or above 2^40 (R190). -/
theorem rngbind_faults {lreg : Bool} {l : Nat} (ready : Ready s h (rngRegs a false lreg len) [])
    (hl : (if lreg then (s.rg (len.extractLsb' 0 5)).toNat else len.toNat) = l) (bad : l = 0 ∨ 2 ^ 40 < l) :
    Faults s (.rngbind h n a false lreg len) cILLEGAL 0x0F 0 := by
  change execRngbind h n a false lreg len s = _
  unfold execRngbind
  refine issueSeq_bad (b := ⟨cILLEGAL, 0x0F, 0⟩) ready ?_
  subst hl
  exact if_pos bad

/-- KIND 1: the bytes of a tensor whose descriptor the core holds (R190). -/
theorem rngbind_tensor {lreg : Bool} {td : TDesc} (ready : Ready s h [a] [])
    (held : s.descFor s.cur.slot ((s.rg a).toNat % 65536) = .ok (s, td)) :
    SetsRange s (.rngbind h n a true lreg len) h n.toNat
      { bound := true, tensor := true, ident := BitVec.ofNat 64 ((s.rg a).toNat % 65536), lo := td.span.1, hi := td.span.2 } := by
  refine setsRange_of_body ready (show execRngbind h n a true lreg len s = _ from rfl) ?_
  simp only [if_true, bits_zero, Nat.reducePow, held]

theorem rngfree_unbinds (ready : Ready s h [] []) : SetsRange s (.rngfree h n) h n.toNat {} := by
  refine setsRange_of_body ready (show execRngfree h n s = _ from rfl) ?_
  rfl

end

/-- Settles O41: each instruction ends in `State.bindRng`, whose two branches are those of the statement. -/
theorem rangeBindings : Obligations.RangeBindings := by
  unfold Obligations.RangeBindings
  intro s h n a b len td ready
  have one : Ready s h [a] [] := ready.mono (by simp) (List.Subset.refl _)
  have two : Ready s h (rngRegs a false true (BitVec.setWidth 31 b)) [] := by
    simpa [rngRegs, lengthReg_eq] using ready
  have hb : (if true then (s.rg ((BitVec.setWidth 31 b).extractLsb' 0 5)).toNat else (BitVec.setWidth 31 b).toNat) =
      (s.rg b).toNat := by rw [lengthReg_eq]; rfl
  refine ⟨fun h1 => rngbind_bytes one rfl h1 (by have := len.isLt; omega), fun h1 h2 => rngbind_bytes two hb h1 h2,
    fun bad => rngbind_faults two hb bad, fun held => rngbind_tensor one held, rngfree_unbinds (ready.mono (by simp) ?_)⟩
  exact List.Subset.refl _

end Sys2Proof

/-! The proof of O40. Lines of a core's data cache that are written back or invalidated, what that changes of the state, and
the fences (R103, R113, R116). -/

namespace Sys2Proof

open Machine

/-! ### Locations and lines (R99) -/

theorem mem_lineLocs {l : Loc} {key : Nat} : l ∈ lineLocs key ↔ l.pkg = 0 ∧ l.tier < 2 ∧ lineKey l = key := by
  obtain ⟨tier, pkg, pa⟩ := l
  simp only [lineLocs, keyLoc, lineKey, List.mem_map, mem_upto, Loc.mk.injEq]
  constructor
  · rintro ⟨a, ha, rfl, rfl, rfl⟩
    omega
  · rintro ⟨rfl, ht, rfl⟩
    exact ⟨pa, by omega, by omega, rfl, rfl⟩

/-- The home of a location of tier 0 or 1 is named by its tier and address alone. -/
theorem homeByte_congr (s : State) {l k : Loc} (hk : k.tier < 2) (ht : l.tier = k.tier) (ha : l.pa = k.pa) :
    s.homeByte l = s.homeByte k := by
  obtain ⟨tier, pkg, pa⟩ := k
  obtain ⟨tier', pkg', pa'⟩ := l
  obtain rfl : tier' = tier := ht
  obtain rfl : pa' = pa := ha
  rcases tier' with _ | _ | n
  · rfl
  · rfl
  · exact absurd hk (by simp)

/-- A byte of tier 0 or 1 after a value has been written at each of a list of locations. -/
theorem homeByte_setHomes (f : Loc → Byte) {L : List Loc} (hL : ∀ l ∈ L, l.pkg = 0) (s : State) {k : Loc} (hk : k.tier < 2) :
    (s.setHomes (L.map fun l => (l, f l))).homeByte k = if ⟨k.tier, 0, k.pa⟩ ∈ L then f ⟨k.tier, 0, k.pa⟩ else s.homeByte k := by
  induction L generalizing s with
  | nil => rfl
  | cons l r ih =>
    refine (ih (fun x hx => hL x (List.mem_cons_of_mem _ hx)) _).trans ?_
    by_cases hr : (⟨k.tier, 0, k.pa⟩ : Loc) ∈ r
    · rw [if_pos hr, if_pos (List.mem_cons_of_mem _ hr)]
    by_cases hl : (⟨k.tier, 0, k.pa⟩ : Loc) = l
    · subst hl
      rw [if_neg hr, if_pos List.mem_cons_self, ← homeByte_congr (l := ⟨k.tier, 0, k.pa⟩) _ hk rfl rfl]
      exact homeByte_setHome_mem s ⟨k.tier, 0, k.pa⟩ _ hk
    · rw [if_neg hr, if_neg (by simp [hl, hr])]
      refine homeByte_setHome_ne _ _ _ _ ?_ hk
      have hp := hL l List.mem_cons_self
      obtain ⟨tier, pkg, pa⟩ := l
      simp only [Loc.mk.injEq] at hl hp ⊢
      omega

theorem get_mem {α : Type} {m : SMap α} {d : α} {k : Nat} (h : SMap.get m d k ≠ d) : (k, SMap.get m d k) ∈ m := by
  induction m with
  | nil => exact absurd rfl h
  | cons e r ih =>
    obtain ⟨j, w⟩ := e
    by_cases hj : j = k
    · subst hj
      simp [SMap.get]
    · simp only [SMap.get, hj, if_false] at h ⊢
      exact List.mem_cons_of_mem _ (ih h)

/-- A line the core holds is among those that satisfy what it satisfies. -/
theorem mem_linesWhere {s : State} {core key : Nat} {p : Loc → DLine → Bool} (held : s.lineAt core key ≠ {})
    (hp : p (keyLoc key) (s.lineAt core key) = true) : key ∈ s.linesWhere core p :=
  List.mem_map.2 ⟨(key, s.lineAt core key), List.mem_filter.2 ⟨get_mem held, hp⟩, rfl⟩

theorem hasLine_iff (s : State) (core key : Nat) : s.hasLine core key = true ↔ s.lineAt core key ≠ {} := by
  simp [State.hasLine]

theorem ne_default_of_dirty {l : DLine} (h : l.dirty = true) : l ≠ {} := by
  rintro rfl
  cases h

theorem viewByte_of_dirty {s : State} {core : Nat} {l : Loc} (h : (s.lineAt core (lineKey l)).dirty = true) :
    s.viewByte core l = byteOf (s.lineAt core (lineKey l)).data (l.pa % 128) :=
  if_pos ((hasLine_iff s core _).2 (ne_default_of_dirty h))

/-! ### One line is written back, or invalidated (R103, R116) -/

/-- A line once it has been written back. -/
def Machine.DLine.clean (l : DLine) : DLine := if l.dirty then { l with dirty := false, stores := [] } else l

theorem clean_dirty (l : DLine) : l.clean.dirty = false := by
  unfold DLine.clean
  split
  · rfl
  · next h => simpa using h

theorem clean_of_not_dirty {l : DLine} (h : ¬ l.dirty = true) : l.clean = l := if_neg h

theorem storesHome_eq (s : State) (core key : Nat) (l : List (Nat × Nat × BitVec 16)) :
    ∃ slots, s.storesHome core key l = { s with slots := slots } := by
  induction l generalizing s with
  | nil => exact ⟨s.slots, rfl⟩
  | cons x r ih =>
    obtain ⟨num, slot, tags⟩ := x
    simp only [State.storesHome]
    split
    · exact ih s
    · obtain ⟨slots, e⟩ := ih (s.updSlot slot fun k => { k with homes := lowerTags k.homes tags })
      exact ⟨slots, e⟩

theorem setHome_cores (s : State) (l : Loc) (b : Byte) : (s.setHome l b).cores = s.cores := by
  unfold State.setHome
  split <;> rfl

theorem setHomes_cores (s : State) (l : List (Loc × Byte)) : (s.setHomes l).cores = s.cores := by
  induction l generalizing s with
  | nil => rfl
  | cons x r ih => exact (ih _).trans (setHome_cores s _ _)

/-- The state with the bytes of a line at their homes and its stores performed. -/
def Machine.State.lineHome (s : State) (core key : Nat) : State :=
  (s.setHomes ((lineLocs key).map fun l => (l, byteOf (s.lineAt core key).data (l.pa % 128)))).storesHome core key
    (s.lineAt core key).stores

theorem writeBack_dirty {s : State} {core key : Nat} (h : (s.lineAt core key).dirty = true) :
    s.writeBack core key = (s.lineHome core key).updCore core fun c =>
      { c with dc := SMap.upd c.dc {} key fun x => { x with dirty := false, stores := [] } } := if_pos h

theorem writeBack_not_dirty {s : State} {core key : Nat} (h : ¬ (s.lineAt core key).dirty = true) :
    s.writeBack core key = s := if_neg h

theorem lineHome_cores (s : State) (core key : Nat) : (s.lineHome core key).cores = s.cores := by
  obtain ⟨slots, e⟩ := storesHome_eq (s.setHomes _) core key (s.lineAt core key).stores
  exact (congrArg State.cores e).trans (setHomes_cores s _)

theorem lineAt_writeBack (s : State) (core key k : Nat) :
    (s.writeBack core key).lineAt core k = if k = key then (s.lineAt core key).clean else s.lineAt core k := by
  by_cases h : (s.lineAt core key).dirty = true
  · rw [writeBack_dirty h]
    unfold State.lineAt at h ⊢
    rw [State.coreAt_updCore_same, coreAt_congr (lineHome_cores s core key), DLine.clean, if_pos h]
    exact SMap.get_set _ _ _ _ _
  · rw [writeBack_not_dirty h, clean_of_not_dirty h]
    split
    · next e => rw [e]
    · rfl

theorem homeByte_writeBack (s : State) (core key : Nat) {l : Loc} (hl : l.tier < 2) :
    (s.writeBack core key).homeByte l =
      if lineKey l = key ∧ (s.lineAt core key).dirty = true then s.viewByte core l else s.homeByte l := by
  by_cases h : (s.lineAt core key).dirty = true
  · obtain ⟨slots, e⟩ := storesHome_eq (s.setHomes _) core key (s.lineAt core key).stores
    rw [writeBack_dirty h]
    refine (congrArg (fun z : State => z.homeByte l) e).trans ?_
    refine (homeByte_setHomes (fun l => byteOf (s.lineAt core key).data (l.pa % 128))
      (fun x hx => (mem_lineLocs.1 hx).1) s hl).trans ?_
    by_cases hk : lineKey l = key
    · have mem : (⟨l.tier, 0, l.pa⟩ : Loc) ∈ lineLocs key := mem_lineLocs.2 ⟨rfl, hl, hk⟩
      subst hk
      rw [if_pos mem, if_pos ⟨rfl, h⟩, viewByte_of_dirty h]
    · have notMem : ¬ (⟨l.tier, 0, l.pa⟩ : Loc) ∈ lineLocs key := fun m => hk (mem_lineLocs.1 m).2.2
      rw [if_neg notMem, if_neg fun c => hk c.1]
  · rw [writeBack_not_dirty h, if_neg fun c => h c.2]

theorem lineAt_invalidate (s : State) (core key k : Nat) :
    (s.invalidate core key).lineAt core k = if k = key then {} else s.lineAt core k := by
  have removed : (s.invalidate core key).lineAt core k = SMap.get (SMap.erase ((s.writeBack core key).coreAt core).dc key) {} k := by
    unfold State.lineAt State.invalidate
    rw [State.coreAt_updCore_same]
  rw [removed]
  split
  · next e => rw [e, SMap.get_erase_same]
  · next e => exact (SMap.get_erase_ne _ _ e).trans ((lineAt_writeBack s core key k).trans (if_neg e))

theorem homeByte_invalidate (s : State) (core key : Nat) {l : Loc} (hl : l.tier < 2) :
    (s.invalidate core key).homeByte l =
      if lineKey l = key ∧ (s.lineAt core key).dirty = true then s.viewByte core l else s.homeByte l :=
  homeByte_writeBack s core key hl

/-! ### Several lines -/

theorem lineAt_writeBacks (core : Nat) (keys : List Nat) (s : State) (k : Nat) :
    (keys.foldl (fun t key => t.writeBack core key) s).lineAt core k =
      if k ∈ keys then (s.lineAt core k).clean else s.lineAt core k := by
  induction keys generalizing s with
  | nil => rfl
  | cons key r ih =>
    rw [List.foldl_cons, ih, lineAt_writeBack]
    by_cases e : k = key
    · subst e
      simp [clean_of_not_dirty, clean_dirty]
    · simp [e]

theorem lineAt_invalidates (core : Nat) (keys : List Nat) (s : State) (k : Nat) :
    (keys.foldl (fun t key => t.invalidate core key) s).lineAt core k = if k ∈ keys then {} else s.lineAt core k := by
  induction keys generalizing s with
  | nil => rfl
  | cons key r ih =>
    rw [List.foldl_cons, ih, lineAt_invalidate]
    by_cases e : k = key
    · simp only [e, List.mem_cons, true_or, if_true, ite_self]
    · simp only [e, List.mem_cons, false_or, if_false]

/-- After a write-back of a slot's lines, each that its test names is clean. -/
theorem writeBackWhere_clean {s : State} {slot key : Nat} {p : DLine → Bool}
    (hn : (s.lineAt (coreOf slot) key).names (placeOf slot) = true) (hp : p (s.lineAt (coreOf slot) key) = true) :
    ((s.writeBackWhere slot p).lineAt (coreOf slot) key).dirty = false := by
  unfold State.writeBackWhere
  rw [lineAt_writeBacks]
  split
  · exact clean_dirty _
  · next notMem =>
    by_contra dirty
    have dirty : (s.lineAt (coreOf slot) key).dirty = true := by simpa using dirty
    exact notMem (mem_linesWhere (ne_default_of_dirty dirty) (by simp [dirty, hn, hp]))

/-- A write-back of a slot's lines changes no mask. -/
theorem writeBackWhere_names (s : State) (slot key place : Nat) (p : DLine → Bool) :
    ((s.writeBackWhere slot p).lineAt (coreOf slot) key).names place = (s.lineAt (coreOf slot) key).names place := by
  unfold State.writeBackWhere
  rw [lineAt_writeBacks]
  split
  · unfold DLine.clean
    split <;> rfl
  · rfl

/-- A line that an invalidation of a slot's lines leaves stands as it stood, and its test names it not. -/
theorem invalidateWhere_leaves {s : State} {slot key : Nat} {p : DLine → Bool}
    (held : (s.invalidateWhere slot p).lineAt (coreOf slot) key ≠ {}) :
    (s.invalidateWhere slot p).lineAt (coreOf slot) key = s.lineAt (coreOf slot) key ∧
      ((s.lineAt (coreOf slot) key).names (placeOf slot) && p (s.lineAt (coreOf slot) key)) = false := by
  unfold State.invalidateWhere at held ⊢
  rw [lineAt_invalidates] at held ⊢
  split at held
  · exact absurd rfl held
  · next notMem =>
    refine ⟨if_neg notMem, ?_⟩
    by_contra named
    exact notMem (mem_linesWhere held (by simpa using named))

/-! ### What changes with the data cache of one core -/

/-- Nothing has changed but module and host memory, held translations, the data cache of one core, HOME counters, and the
count of free values drawn. -/
structure CacheFrame (core : Nat) (s t : State) : Prop where
  package : { t with mem := s.mem, host := s.host, tlb := s.tlb, cores := s.cores, slots := s.slots, free := s.free } = s
  cores : ∀ c, c ≠ core → t.coreAt c = s.coreAt c
  own : { t.coreAt core with dc := (s.coreAt core).dc, nextStore := (s.coreAt core).nextStore } = s.coreAt core
  slots : ∀ n, { t.slotAt n with homes := (s.slotAt n).homes } = s.slotAt n

section

variable {core : Nat} {s t u : State}

theorem CacheFrame.refl (core : Nat) (s : State) : CacheFrame core s s := ⟨rfl, fun _ _ => rfl, rfl, fun _ => rfl⟩

theorem CacheFrame.trans (f : CacheFrame core s t) (f' : CacheFrame core t u) : CacheFrame core s u := by
  refine ⟨?_, fun c hc => (f'.cores c hc).trans (f.cores c hc), ?_, fun n => ?_⟩
  · have h := congrArg (fun z : State => { z with mem := s.mem, host := s.host, tlb := s.tlb, cores := s.cores,
                                                  slots := s.slots, free := s.free }) f'.package
    exact h.trans f.package
  · have h := congrArg (fun z : Core => { z with dc := (s.coreAt core).dc, nextStore := (s.coreAt core).nextStore }) f'.own
    exact h.trans f.own
  · have h := congrArg (fun z : Slot => { z with homes := (s.slotAt n).homes }) (f'.slots n)
    exact h.trans (f.slots n)

theorem CacheFrame.cur (f : CacheFrame core s t) : t.cur = s.cur := by
  have h := congrArg (fun z : State => z.cur) f.package
  exact h

theorem CacheFrame.sync (f : CacheFrame core s t) : t.sync = s.sync := by
  have h := congrArg (fun z : State => z.sync) f.package
  exact h

theorem CacheFrame.recounts (f : CacheFrame core s t) : Recounts s t := by
  refine ⟨f.cur, fun n => ?_⟩
  have h := congrArg (fun z : Slot => { z with cg := (s.slotAt n).cg, locals := (s.slotAt n).locals }) (f.slots n)
  exact h

theorem CacheFrame.me (f : CacheFrame core s t) : { t.me with homes := s.me.homes } = s.me := by
  unfold State.me
  rw [f.cur]
  exact f.slots _

theorem cacheFrame_setHome (core : Nat) (s : State) {l : Loc} (hl : l.tier < 2) (b : Byte) :
    CacheFrame core s (s.setHome l b) := by
  obtain ⟨tier, pkg, pa⟩ := l
  rcases tier with _ | _ | n
  · exact ⟨rfl, fun _ _ => rfl, rfl, fun _ => rfl⟩
  · exact ⟨rfl, fun _ _ => rfl, rfl, fun _ => rfl⟩
  · exact absurd hl (by simp)

theorem cacheFrame_setHomes (core : Nat) {L : List (Loc × Byte)} (hL : ∀ e ∈ L, e.1.tier < 2) (s : State) :
    CacheFrame core s (s.setHomes L) := by
  induction L generalizing s with
  | nil => exact CacheFrame.refl core s
  | cons e r ih =>
    exact (cacheFrame_setHome core s (hL e List.mem_cons_self) e.2).trans (ih (fun x hx => hL x (List.mem_cons_of_mem _ hx)) _)

theorem cacheFrame_updHomes (core : Nat) (s : State) (n : Nat) (f : Slot → Slot)
    (hf : ∀ k, { f k with homes := k.homes } = k) : CacheFrame core s (s.updSlot n f) := by
  refine ⟨rfl, fun _ _ => rfl, rfl, fun m => ?_⟩
  rw [State.slotAt_updSlot]
  split
  · next e => rw [e]; exact hf _
  · rfl

theorem cacheFrame_storesHome (core key : Nat) (l : List (Nat × Nat × BitVec 16)) (s : State) :
    CacheFrame core s (s.storesHome core key l) := by
  induction l generalizing s with
  | nil => exact CacheFrame.refl core s
  | cons x r ih =>
    refine CacheFrame.trans ?_ (ih _)
    split
    · exact CacheFrame.refl core s
    · exact cacheFrame_updHomes core s _ _ fun _ => rfl

theorem cacheFrame_updLines (core : Nat) (s : State) (f : SMap DLine → SMap DLine) :
    CacheFrame core s (s.updCore core fun c => { c with dc := f c.dc }) := by
  refine ⟨rfl, fun c hc => State.coreAt_updCore_ne s _ hc, ?_, fun _ => rfl⟩
  rw [State.coreAt_updCore_same]

theorem cacheFrame_writeBack (s : State) (core key : Nat) : CacheFrame core s (s.writeBack core key) := by
  by_cases h : (s.lineAt core key).dirty = true
  · rw [writeBack_dirty h]
    have home : CacheFrame core s (s.lineHome core key) :=
      (cacheFrame_setHomes core ?_ s).trans (cacheFrame_storesHome core key _ _)
    · exact home.trans (cacheFrame_updLines core _ fun dc => SMap.upd dc {} key fun x => { x with dirty := false, stores := [] })
    intro e he
    obtain ⟨l, hl, rfl⟩ := List.mem_map.1 he
    exact (mem_lineLocs.1 hl).2.1
  · rw [writeBack_not_dirty h]
    exact CacheFrame.refl core s

/-! ### Where a line is no longer dirty, its bytes stand at their homes -/

/-- Lines of one core's data cache have moved: none has become dirty, and outside the bytes `stored` a byte of module or host
memory has changed exactly where its line, dirty before, is so no more: there it is what the core saw. -/
structure LinesMove (core : Nat) (stored : Loc → Prop) (s t : State) : Prop where
  lines : ∀ key, (t.lineAt core key).dirty = true →
    (s.lineAt core key).dirty = true ∧ (t.lineAt core key).data = (s.lineAt core key).data
  bytes : ∀ l : Loc, l.tier < 2 → ¬ stored l → t.homeByte l =
    if (s.lineAt core (lineKey l)).dirty = true ∧ ¬ (t.lineAt core (lineKey l)).dirty = true then s.viewByte core l
    else s.homeByte l

/-- A line dirty before and after shows the same bytes. -/
theorem LinesMove.view {stored : Loc → Prop} (m : LinesMove core stored s t) {l : Loc}
    (h : (t.lineAt core (lineKey l)).dirty = true) : t.viewByte core l = s.viewByte core l := by
  rw [viewByte_of_dirty h, viewByte_of_dirty (m.lines _ h).1, (m.lines _ h).2]

theorem LinesMove.trans {stored : Loc → Prop} (m : LinesMove core stored s t) (m' : LinesMove core stored t u) :
    LinesMove core stored s u := by
  refine ⟨fun key h => ?_, fun l hl ns => ?_⟩
  · obtain ⟨h', data'⟩ := m'.lines key h
    obtain ⟨h'', data⟩ := m.lines key h'
    exact ⟨h'', data'.trans data⟩
  · rw [m'.bytes l hl ns, m.bytes l hl ns]
    by_cases ht : (t.lineAt core (lineKey l)).dirty = true
    · rw [m.view ht]
      simp [ht, (m.lines _ ht).1]
    · have hu : ¬ (u.lineAt core (lineKey l)).dirty = true := fun h => ht (m'.lines _ h).1
      simp [ht, hu]

theorem LinesMove.mono {stored stored' : Loc → Prop} (m : LinesMove core stored s t) (h : ∀ l, stored l → stored' l) :
    LinesMove core stored' s t :=
  ⟨m.lines, fun l hl ns => m.bytes l hl fun c => ns (h l c)⟩

/-- What changes no line, and no memory outside `stored`. -/
theorem linesMove_of_same {stored : Loc → Prop} (dc : (t.coreAt core).dc = (s.coreAt core).dc)
    (bytes : ∀ l : Loc, l.tier < 2 → ¬ stored l → t.homeByte l = s.homeByte l) : LinesMove core stored s t := by
  have same : ∀ key, t.lineAt core key = s.lineAt core key := fun key => by unfold State.lineAt; rw [dc]
  refine ⟨fun key h => ?_, fun l hl ns => ?_⟩
  · rw [same] at h ⊢
    exact ⟨h, rfl⟩
  · rw [bytes l hl ns, same, if_neg fun c => c.2 c.1]

/-- Lines have moved, and nothing else has changed. -/
structure CacheMoves (core : Nat) (stored : Loc → Prop) (s t : State) : Prop extends
  CacheFrame core s t, LinesMove core stored s t

theorem CacheMoves.refl (core : Nat) (stored : Loc → Prop) (s : State) : CacheMoves core stored s s :=
  ⟨CacheFrame.refl core s, linesMove_of_same rfl fun _ _ _ => rfl⟩

theorem CacheMoves.trans {stored : Loc → Prop} (m : CacheMoves core stored s t) (m' : CacheMoves core stored t u) :
    CacheMoves core stored s u :=
  ⟨m.toCacheFrame.trans m'.toCacheFrame, m.toLinesMove.trans m'.toLinesMove⟩

/-- Operations that move lines move them in a row. -/
theorem CacheMoves.foldl {α : Type} {stored : Loc → Prop} {f : State → α → State}
    (hf : ∀ s x, CacheMoves core stored s (f s x)) (l : List α) (s : State) : CacheMoves core stored s (l.foldl f s) := by
  induction l generalizing s with
  | nil => exact CacheMoves.refl core stored s
  | cons x r ih => exact (hf s x).trans (ih _)

/-- One line has been replaced, by one that is not dirty unless it is as it was; its bytes are at home where it was dirty. -/
theorem CacheFrame.moves_line {key : Nat} (f : CacheFrame core s t) {x : DLine} (hx : x.dirty = false)
    (line : ∀ k, t.lineAt core k = if k = key then x else s.lineAt core k)
    (home : ∀ l : Loc, l.tier < 2 → t.homeByte l =
      if lineKey l = key ∧ (s.lineAt core key).dirty = true then s.viewByte core l else s.homeByte l)
    (stored : Loc → Prop) : CacheMoves core stored s t := by
  refine ⟨f, fun k h => ?_, fun l hl _ => ?_⟩
  · rw [line] at h ⊢
    split at h
    · simp [hx] at h
    · next ne => exact ⟨h, by rw [if_neg ne]⟩
  · rw [home l hl, line]
    by_cases e : lineKey l = key
    · simp [e, hx]
    · simp [e]

theorem moves_writeBack (core : Nat) (stored : Loc → Prop) (s : State) (key : Nat) :
    CacheMoves core stored s (s.writeBack core key) :=
  (cacheFrame_writeBack s core key).moves_line (clean_dirty _) (lineAt_writeBack s core key)
    (fun _ hl => homeByte_writeBack s core key hl) stored

theorem moves_invalidate (core : Nat) (stored : Loc → Prop) (s : State) (key : Nat) :
    CacheMoves core stored s (s.invalidate core key) := by
  have frame : CacheFrame core s (s.invalidate core key) :=
    (cacheFrame_writeBack s core key).trans (cacheFrame_updLines core _ fun dc => SMap.erase dc key)
  exact frame.moves_line rfl (lineAt_invalidate s core key) (fun _ hl => homeByte_invalidate s core key hl) stored

theorem moves_writeBackWhere (stored : Loc → Prop) (s : State) (slot : Nat) (p : DLine → Bool) :
    CacheMoves (coreOf slot) stored s (s.writeBackWhere slot p) :=
  CacheMoves.foldl (moves_writeBack (coreOf slot) stored) _ s

theorem moves_invalidateWhere (stored : Loc → Prop) (s : State) (slot : Nat) (p : DLine → Bool) :
    CacheMoves (coreOf slot) stored s (s.invalidateWhere slot p) :=
  CacheMoves.foldl (moves_invalidate (coreOf slot) stored) _ s

theorem moves_releaseCache (stored : Loc → Prop) (s : State) (slot scope : Nat) (fence : Bool) :
    CacheMoves (coreOf slot) stored s (s.releaseCache slot scope fence) := by
  unfold State.releaseCache
  split
  · exact CacheMoves.refl _ stored s
  · exact moves_writeBackWhere stored s slot _

theorem moves_acquireCache (stored : Loc → Prop) (s : State) (slot scope : Nat) (fence : Bool) :
    CacheMoves (coreOf slot) stored s (s.acquireCache slot scope fence) := by
  unfold State.acquireCache
  split
  · exact CacheMoves.refl _ stored s
  · exact moves_invalidateWhere stored s slot _

end

/-! ### What an instruction that moves lines leaves -/

/-- A change of counters writes nothing an instruction's retirement reports. -/
theorem Recounts.wrote {s u : State} (r : Recounts s u) : Body.Wrote s u none none := by
  have mine : u.mySeq = s.mySeq := by unfold State.mySeq; rw [r.me.seq, r.cur]
  refine ⟨by rw [r.cur], by rw [r.cur], r.me.keeps Slot.tok fun _ _ _ _ => rfl, fun x => ?_, fun x => ?_, ?_, ?_, ?_, ?_⟩ <;>
    rw [mine] <;> rfl

/-- What an access leaves of the state, its memories aside: beside moved lines only the sequencer in issue and its slot's tokens
have changed. -/
structure AccessFrame (s t : State) : Prop where
  package : { t with mem := s.mem, host := s.host, tlb := s.tlb, cores := s.cores, slots := s.slots, cur := s.cur,
                     free := s.free } = s
  cores : ∀ c, c ≠ coreOf s.cur.slot → t.coreAt c = s.coreAt c
  own : { t.coreAt (coreOf s.cur.slot) with dc := s.myCore.dc, nextStore := s.myCore.nextStore } = s.myCore
  slots : ∀ n, n ≠ s.cur.slot → { t.slotAt n with homes := (s.slotAt n).homes } = s.slotAt n
  slot : { t.slotOf s with tok := s.me.tok, a := s.me.a, x := s.me.x, homes := s.me.homes } = s.me
  other : ∀ st, st ≠ s.cur.st → (t.slotOf s).seq st = s.me.seq st
  curSlot : t.cur.slot = s.cur.slot
  curSt : t.cur.st = s.cur.st

section

variable {s t u : State}

theorem AccessFrame.trans (f : AccessFrame s t) (f' : AccessFrame t u) : AccessFrame s u := by
  have mine : t.slotOf s = t.me := slotOf_eq_me f.curSlot
  have slotOf : u.slotOf s = u.slotOf t := by unfold State.slotOf; rw [f.curSlot]
  have own := f'.own
  have cores := f'.cores
  rw [f.curSlot] at own cores
  refine ⟨?_, fun c hc => (cores c hc).trans (f.cores c hc), ?_, fun n hn => ?_, ?_, fun st hst => ?_,
    f'.curSlot.trans f.curSlot, f'.curSt.trans f.curSt⟩
  · have h := congrArg (fun z : State => { z with mem := s.mem, host := s.host, tlb := s.tlb, cores := s.cores,
                                                  slots := s.slots, cur := s.cur, free := s.free }) f'.package
    exact h.trans f.package
  · have h := congrArg (fun z : Core => { z with dc := s.myCore.dc, nextStore := s.myCore.nextStore }) own
    unfold State.myCore at h
    rw [f.curSlot] at h
    exact h.trans f.own
  · have h := congrArg (fun z : Slot => { z with homes := (s.slotAt n).homes }) (f'.slots n (by rw [f.curSlot]; exact hn))
    exact h.trans (f.slots n hn)
  · have h := congrArg (fun z : Slot => { z with tok := s.me.tok, a := s.me.a, x := s.me.x, homes := s.me.homes }) f'.slot
    have h' := f.slot
    rw [mine] at h'
    rw [slotOf]
    exact h.trans h'
  · rw [slotOf, f'.other st (by rw [f.curSt]; exact hst), ← mine]
    exact f.other st hst

theorem CacheFrame.access (f : CacheFrame (coreOf s.cur.slot) s t) : AccessFrame s t := by
  have mine : t.slotOf s = t.me := slotOf_eq_me (by rw [f.cur])
  refine ⟨?_, f.cores, f.own, fun n _ => f.slots n, ?_, fun st _ => ?_, by rw [f.cur], by rw [f.cur]⟩
  · have h := congrArg (fun z : State => { z with cur := s.cur }) f.package
    exact h
  · have h := congrArg (fun z : Slot => { z with tok := s.me.tok, a := s.me.a, x := s.me.x }) f.me
    rw [mine]
    exact h
  · rw [mine]
    exact f.recounts.me.seq st

theorem OnlySlots.coreAt (o : OnlySlots s t) (c : Nat) : t.coreAt c = s.coreAt c := by
  have h := congrArg (fun z : State => z.coreAt c) o
  exact h

theorem OnlySlots.homeByte (o : OnlySlots s t) (l : Loc) : t.homeByte l = s.homeByte l := by
  have h := congrArg (fun z : State => z.homeByte l) o
  exact h

theorem OnlyIssuer.access (o : OnlyIssuer s t) (hs : t.cur.slot = s.cur.slot) (ht : t.cur.st = s.cur.st) :
    AccessFrame s t := by
  refine ⟨?_, fun c _ => o.package.coreAt c, ?_, fun n hn => by rw [o.slots n hn], ?_, o.other, hs, ht⟩
  · have h := congrArg (fun z : State => { z with mem := s.mem, host := s.host, tlb := s.tlb, cores := s.cores,
                                                  free := s.free }) o.package
    exact h
  · rw [o.package.coreAt]
    rfl
  · have h := congrArg (fun z : Slot => { z with homes := s.me.homes }) o.slot
    exact h

theorem OnlySlots.linesMove (o : OnlySlots s t) (core : Nat) (stored : Loc → Prop) : LinesMove core stored s t :=
  linesMove_of_same (by rw [o.coreAt]) fun l _ _ => o.homeByte l

theorem AccessFrame.memFrame {stored : Loc → Prop} (f : AccessFrame s t) (m : LinesMove (coreOf s.cur.slot) stored s t) :
    MemFrame s t stored := by
  refine ⟨f.package, f.cores, f.own, f.slots, f.slot, f.other, fun l hl _ ns => ?_⟩
  rw [m.bytes l hl ns]
  split
  · next h => exact .inr ⟨h.1, rfl⟩
  · exact .inl rfl

/-- Behind moved lines only the sequencer in issue and its slot's tokens have changed. -/
theorem CacheMoves.memFrame {stored : Loc → Prop} (m : CacheMoves (coreOf s.cur.slot) stored s u) (o : OnlyIssuer u t)
    (hs : t.cur.slot = u.cur.slot) (ht : t.cur.st = u.cur.st) : MemFrame s t stored :=
  (m.access.trans (o.access hs ht)).memFrame (m.toLinesMove.trans (o.package.linesMove _ stored))

end

theorem onlyIssuer_stalled (s : State) : OnlyIssuer s s.stalled := ⟨⟨rfl, fun _ _ => rfl⟩, rfl, fun _ _ => rfl⟩

theorem issueSeq_retires {s u : State} {h : Hdr} {gs : List Reg} {ps : List PReg} {body : State → Body}
    (r : Ready s h gs ps) (e : body s = .done u) : s.issueSeq h gs ps body = .next (u.retire h) := by
  rw [issueSeq_ready _ r, e]

/-- An instruction whose body does nothing but move lines retires, and that is all it leaves. -/
theorem CacheMoves.retires {s u : State} {stored : Loc → Prop} {h : Hdr} (m : CacheMoves (coreOf s.cur.slot) stored s u) :
    Retired s (u.retire h) h s.cur.next none none ∧ MemFrame s (u.retire h) stored := by
  have retired := retired_of_wrote (h := h) m.recounts.wrote
  rw [m.cur] at retired
  exact ⟨retired, m.memFrame (retire_slotAs h (onlyIssuer_refl u) rfl rfl) rfl rfl⟩

theorem Recounted.copiesDone {k k' : Slot} (r : Recounted k k') : k'.copiesDone = k.copiesDone :=
  r.keeps Slot.copiesDone fun _ _ _ _ => rfl

/-! ### FENCE, FENCER and DRAIN -/

section

variable {s : State} {h : Hdr}

/-- The state after the write-back of a FENCE, and after its invalidation (R113). -/
def Machine.State.fenceOut (s : State) (scope : Nat) : State := s.releaseCache s.cur.slot scope true
def Machine.State.fenced (s : State) (scope : Nat) : State := (s.fenceOut scope).acquireCache s.cur.slot scope true

theorem moves_fenced (s : State) (scope : Nat) : CacheMoves (coreOf s.cur.slot) (fun _ => False) s (s.fenced scope) :=
  (moves_releaseCache _ s _ scope true).trans (moves_acquireCache _ _ _ scope true)

theorem fenceOut_cur (s : State) (scope : Nat) : (s.fenceOut scope).cur = s.cur :=
  (moves_releaseCache (fun _ => False) s s.cur.slot scope true).cur

theorem fenceOut_copiesDone (s : State) (scope : Nat) : (s.fenceOut scope).me.copiesDone = s.me.copiesDone :=
  (moves_releaseCache (fun _ => False) s s.cur.slot scope true).recounts.me.copiesDone

theorem exec_fence_done {scope : BitVec 3} (ready : Ready s h [] []) (done : s.me.copiesDone = true) :
    exec (.fence h scope) s = .next ((s.fenced scope.toNat).retire h) := by
  change execFence h scope s = _
  unfold execFence
  refine issueSeq_retires ready ((if_pos ((fenceOut_copiesDone s scope.toNat).trans done)).trans ?_)
  exact congrArg (fun n => Body.done ((s.fenceOut scope.toNat).acquireCache n scope.toNat true))
    (congrArg Cur.slot (fenceOut_cur s scope.toNat))

theorem exec_fence_waits {scope : BitVec 3} (ready : Ready s h [] []) (busy : s.me.copiesDone = false) :
    exec (.fence h scope) s = .next (s.fenceOut scope.toNat).stalled := by
  change execFence h scope s = _
  unfold execFence
  refine issueSeq_stall ready (if_neg ?_)
  intro done
  rw [(fenceOut_copiesDone s scope.toNat).symm.trans done] at busy
  cases busy

/-- After a FENCE at cluster scope or wider a line the core still holds names another slot. -/
theorem fenced_lines {scope key : Nat} (wide : 2 ≤ scope)
    (held : (s.fenced scope).lineAt (coreOf s.cur.slot) key ≠ {}) :
    ((s.fenced scope).lineAt (coreOf s.cur.slot) key).names (placeOf s.cur.slot) = false := by
  unfold State.fenced State.acquireCache at held ⊢
  rw [if_neg (by omega)] at held ⊢
  obtain ⟨same, test⟩ := invalidateWhere_leaves held
  rw [same]
  by_contra names
  have names : ((s.fenceOut scope).lineAt (coreOf s.cur.slot) key).names (placeOf s.cur.slot) = true := by simpa using names
  have clean : ((s.fenceOut scope).lineAt (coreOf s.cur.slot) key).dirty = false := by
    unfold State.fenceOut State.releaseCache at names ⊢
    rw [if_neg (by omega)] at names ⊢
    exact writeBackWhere_clean (by rwa [writeBackWhere_names] at names) rfl
  simp [names, clean] at test

/-- After a FENCE at cluster scope or wider no line is dirty that the slot had dirty. -/
theorem fenced_not_dirty {scope key : Nat} (wide : 2 ≤ scope)
    (named : (s.lineAt (coreOf s.cur.slot) key).names (placeOf s.cur.slot) = true) :
    ¬ ((s.fenced scope).lineAt (coreOf s.cur.slot) key).dirty = true := by
  intro dirty
  have dirtyOut := ((moves_acquireCache (fun _ => False) (s.fenceOut scope) s.cur.slot scope true).lines key dirty).1
  unfold State.fenceOut State.releaseCache at dirtyOut
  rw [if_neg (by omega), writeBackWhere_clean named rfl] at dirtyOut
  cases dirtyOut

/-- FENCE with its copies performed (R113). -/
theorem fence_retires {scope : BitVec 3} (ready : Ready s h [] []) (wide : 2 ≤ scope.toNat) (done : s.me.copiesDone = true) :
    ∃ t : State, exec (.fence h scope) s = .next t ∧ Retired s t h s.cur.next none none ∧ MemFrame s t (fun _ => False) ∧
      (∀ key, (s.lineAt (coreOf s.cur.slot) key).dirty = true →
        (s.lineAt (coreOf s.cur.slot) key).mask.getLsbD (s.cur.slot % 4) = true →
        ∀ m ∈ lineLocs key, t.homeByte m = s.viewByte (coreOf s.cur.slot) m) ∧
      ∀ key, t.hasLine (coreOf s.cur.slot) key = true →
        (t.lineAt (coreOf s.cur.slot) key).mask.getLsbD (s.cur.slot % 4) = false := by
  have moved := moves_fenced s scope.toNat
  obtain ⟨retired, frame⟩ := moved.retires (h := h)
  refine ⟨_, exec_fence_done ready done, retired, frame, fun key dirty named m hm => ?_, fun key held => ?_⟩
  · obtain ⟨-, tier, rfl⟩ := mem_lineLocs.1 hm
    exact (moved.bytes m tier not_false).trans (if_pos ⟨dirty, fenced_not_dirty wide named⟩)
  · exact fenced_lines wide ((hasLine_iff (s.fenced scope.toNat) _ _).1 held)

theorem fence_waits {scope : BitVec 3} (ready : Ready s h [] []) (busy : s.me.copiesDone = false) :
    ∃ t : State, exec (.fence h scope) s = .next t ∧ t.cur.went = .stalled ∧ MemFrame s t (fun _ => False) :=
  ⟨_, exec_fence_waits ready busy, rfl,
    (moves_releaseCache _ s s.cur.slot scope.toNat true).memFrame (onlyIssuer_stalled _) rfl rfl⟩

theorem tagsZero_local (k : Slot) (mask : BitVec 16) {scope : Nat} (narrow : scope < 2) :
    k.tagsZero mask scope = true ↔ ∀ i : Fin 16, mask.getLsbD i = true → SMap.get k.locals 0 i = 0 := by
  have le : scope ≤ 1 := by omega
  simp only [Slot.tagsZero, List.all_eq_true, mem_upto, Bool.or_eq_true, Bool.not_eq_true', le, if_true, beq_iff_eq]
  constructor
  · intro zero i hi
    exact (zero i ⟨Nat.zero_le _, by omega⟩).resolve_left (by simp [hi])
  · intro zero i hi
    cases hm : mask.getLsbD i with
    | false => exact .inl rfl
    | true => exact .inr (zero ⟨i, by omega⟩ hm)

/-- FENCER at core or task scope (R116). -/
theorem fencer_narrow {scope : BitVec 3} {mask : BitVec 16} (ready : Ready s h [] []) (narrow : scope.toNat < 2) :
    if ∀ i : Fin 16, mask.getLsbD i = true → SMap.get s.me.locals 0 i = 0 then
      Completes s (.fencer h scope mask) h s.cur.next none none
    else Stalls s (.fencer h scope mask) := by
  simp only [← tagsZero_local s.me mask narrow]
  split
  · next zero =>
    change ∃ t, execFencer h scope mask s = .next t ∧ _
    unfold execFencer
    refine issueSeq_done (u := s) ready ?_ (wrote_refl s) (onlyIssuer_refl s)
    simp only [narrow, if_true, zero]
  · next busy =>
    change execFencer h scope mask s = _
    unfold execFencer
    refine issueSeq_stall ready ?_
    simp only [narrow, if_true]
    exact if_neg busy

/-- FENCER at cluster scope or wider, behind the write-back of the lines its mask covers (R116). -/
theorem fencer_wide {scope : BitVec 3} {mask : BitVec 16} (ready : Ready s h [] []) (wide : 2 ≤ scope.toNat) :
    let u := s.writeBackWhere s.cur.slot fun l => s.me.covered mask l.va
    (u.me.tagsZero mask scope.toNat = true → ∃ t : State, exec (.fencer h scope mask) s = .next t ∧
      Retired s t h s.cur.next none none ∧ MemFrame s t (fun _ => False)) ∧
    (u.me.tagsZero mask scope.toNat = false → exec (.fencer h scope mask) s = .next u.stalled) := by
  intro u
  have wide : ¬ scope.toNat < 2 := by omega
  change (_ → ∃ t, execFencer h scope mask s = .next t ∧ _) ∧ (_ → execFencer h scope mask s = _)
  unfold execFencer
  rw [issueSeq_ready _ ready]
  simp only [wide, if_false]
  refine ⟨fun zero => ?_, fun busy => ?_⟩
  · rw [if_pos zero]
    exact ⟨_, rfl, ((moves_writeBackWhere _ s _ _).trans (moves_invalidateWhere _ _ _ _)).retires⟩
  · rw [if_neg (by rw [busy]; decide)]

/-- DRAIN, whose markers stand where they were placed first (R118). -/
theorem drain_outcome {eng : BitVec 3} (ready : Ready s h [] []) :
    let mark := s.mySeq.drain.getD s.me.nextCmd
    if s.me.drained eng mark then Completes s (.drain h eng) h s.cur.next none none
    else exec (.drain h eng) s = .next (s.updSeq s.cur.slot s.cur.st fun q => { q with drain := some mark }).stalled := by
  intro mark
  split
  · next empty =>
    change ∃ t, execDrain h eng s = .next t ∧ _
    unfold execDrain
    exact issueSeq_done (u := s) ready (if_pos empty) (wrote_refl s) (onlyIssuer_refl s)
  · next busy =>
    change execDrain h eng s = _
    unfold execDrain
    exact issueSeq_stall ready (if_neg busy)

end

/-- Settles O40: each fence by what its moves of cache lines are. -/
theorem fencesAndDrains : Obligations.FencesAndDrains := by
  unfold Obligations.FencesAndDrains
  exact fun s h scope mask eng ready => ⟨fence_retires ready, fence_waits ready, fencer_narrow ready, fencer_wide ready,
    drain_outcome ready⟩

end Sys2Proof

/-! The proof of O42. An access in order, and the words of the synchronisation engines that nobody waits for (R123, R186). -/

namespace Sys2Proof

open Machine

/-! ### The checks of an access in order (R97, R178) -/

/-- The bytes of an access with their leaves and locations. -/
def Machine.State.bytesAt (s : State) (va n : Nat) : List (Nat × Leaf × Loc) :=
  (upto n va).map fun a => (a, s.leafAt a, s.locAt a)

theorem leafAt_of_translate {s : State} {va : Nat} {l : Leaf} (h : s.translate s.me.task.asid va = .ok l) : s.leafAt va = l := by
  unfold State.leafAt
  rw [h]

/-- What an access in order says of each of its bytes. -/
theorem Accessible.at {s : State} {va n a : Nat} {ok : Leaf → Bool} (acc : Accessible s va n ok) (h : va ≤ a ∧ a < va + n) :
    s.translate s.me.task.asid a = .ok (s.leafAt a) ∧ ok (s.leafAt a) = true ∧
      ((s.locAt a).tier = 0 → (s.locAt a).pa < 3 * 2 ^ 40) ∧ s.linkHolds (s.locAt a) = none := by
  obtain ⟨l, translated, good, exists_, link⟩ := acc.leaf a h.1 h.2
  have leaf := leafAt_of_translate translated
  unfold State.locAt
  rw [leaf]
  exact ⟨translated, good, exists_, link⟩

theorem transBytes_ok {s : State} {as : List Nat} (h : ∀ a ∈ as, s.translate s.me.task.asid a = .ok (s.leafAt a)) :
    s.transBytes s.me.task.asid as = .ok (as.map fun a => (a, s.leafAt a, s.locAt a)) := by
  induction as with
  | nil => rfl
  | cons a r ih =>
    simp only [State.transBytes, h a List.mem_cons_self, ih fun x hx => h x (List.mem_cons_of_mem _ hx)]
    rfl

theorem firstRefused_none {cause : BitVec 8} {chk : Leaf → Option (BitVec 8)} {bs : List (Nat × Leaf × Loc)}
    (h : ∀ b ∈ bs, chk b.2.1 = none) : firstRefused cause chk bs = none := by
  induction bs with
  | nil => rfl
  | cons b r ih =>
    obtain ⟨a, l, loc⟩ := b
    simp only [firstRefused, h (a, l, loc) List.mem_cons_self]
    exact ih fun x hx => h x (List.mem_cons_of_mem _ hx)

theorem reach_none {s : State} {bs : List (Nat × Leaf × Loc)}
    (h : ∀ b ∈ bs, (b.2.2.tier = 0 → b.2.2.pa < 3 * 2 ^ 40) ∧ s.linkHolds b.2.2 = none) : s.reach bs = none := by
  induction bs with
  | nil => rfl
  | cons b r ih =>
    obtain ⟨a, l, loc⟩ := b
    obtain ⟨exists_, link⟩ := h (a, l, loc) List.mem_cons_self
    have there : ¬ (loc.tier = 0 ∧ Config.moduleBytes ≤ loc.pa) := fun c => Nat.not_lt.2 c.2 (exists_ c.1)
    simp only [State.reach, there, if_false, link]
    exact ih fun x hx => h x (List.mem_cons_of_mem _ hx)

/-- The checks of an access in order, where its own checks pass the leaves, give its bytes. -/
theorem access_ok {s : State} {va n : Nat} {ok : Leaf → Bool} {xl pr : Leaf → Option (BitVec 8)} (acc : Accessible s va n ok)
    (pass : ∀ l, ok l = true → xl l = none ∧ pr l = none) : s.access s.me.task.asid va n xl pr = .ok (s.bytesAt va n) := by
  have each : ∀ b ∈ s.bytesAt va n, ok b.2.1 = true ∧ (b.2.2.tier = 0 → b.2.2.pa < 3 * 2 ^ 40) ∧ s.linkHolds b.2.2 = none := by
    intro b hb
    obtain ⟨a, ha, rfl⟩ := List.mem_map.1 hb
    exact (acc.at (mem_upto.1 ha)).2
  have translated : s.transBytes s.me.task.asid (upto n va) = .ok (s.bytesAt va n) :=
    transBytes_ok fun a ha => (acc.at (mem_upto.1 ha)).1
  have space : ¬ 2 ^ 48 < va + n := Nat.not_lt.2 acc.space
  simp only [State.access, space, if_false, translated, firstRefused_none fun b hb => (pass _ (each b hb).1).1,
    firstRefused_none fun b hb => (pass _ (each b hb).1).2, reach_none fun b hb => (each b hb).2]

/-- The state with other translations held. -/
def Machine.State.holding (s : State) (tlb : SMap (Option Leaf)) : State := { s with tlb := tlb }

theorem holdAll_eq (s : State) (asid : Nat) (bs : List (Nat × Leaf × Loc)) : ∃ tlb, s.holdAll asid bs = s.holding tlb := by
  induction bs generalizing s with
  | nil => exact ⟨s.tlb, rfl⟩
  | cons b r ih =>
    obtain ⟨tlb, e⟩ := ih (s.hold asid b.1 b.2.1)
    exact ⟨tlb, e⟩

/-- The pages the synchronisation tier's instructions may write. -/
def syncPage (l : Leaf) : Bool := l.tier == 2 && l.write

theorem syncPage_iff {l : Leaf} : syncPage l = true ↔ l.tier = 2 ∧ l.write = true := by simp [syncPage]

/-- An object in order is reached: what is done with its first word is done, with its translations held. -/
theorem atWord_reached {s : State} {x : Word} {size : Nat} (aligned : x.toNat % size = 0)
    (acc : Accessible s x.toNat 8 syncPage) : ∃ tlb, ∀ {xl pr : Leaf → Option (BitVec 8)} (f : State → Nat → Body),
      (∀ l, syncPage l = true → xl l = none ∧ pr l = none) →
      s.atWord x size xl pr f = f (s.holding tlb) (syncKey (s.locAt x.toNat).pa) := by
  obtain ⟨tlb, held⟩ := holdAll_eq s s.me.task.asid (s.bytesAt x.toNat 8)
  refine ⟨tlb, fun f pass => ?_⟩
  unfold State.atWord
  rw [if_neg (not_not.2 aligned), access_ok acc pass]
  exact congrArg (fun t => f t _) held

theorem swXl_wrPr_pass (l : Leaf) (h : syncPage l = true) : swXl l = none ∧ wrPr l = none := by
  obtain ⟨tier, write⟩ := syncPage_iff.1 h
  simp [swXl, wrPr, tier, write]

theorem swXl_noPr_pass (l : Leaf) (h : syncPage l = true) : swXl l = none ∧ noPr l = none :=
  ⟨(swXl_wrPr_pass l h).1, rfl⟩

theorem objXl_wrPr_pass (l : Leaf) (h : syncPage l = true) : objXl l = none ∧ wrPr l = none := by
  obtain ⟨tier, write⟩ := syncPage_iff.1 h
  simp [objXl, wrPr, tier, write]

/-! ### Words nobody waits for (R123, R186) -/

theorem foldl_jobs {α : Type} {f : State → α → State}
    (hf : ∀ t x, ∃ jobs order, f t x = { t with jobs := jobs, nextOrder := order }) (l : List α) (s : State) :
    ∃ jobs order, l.foldl f s = { s with jobs := jobs, nextOrder := order } := by
  induction l generalizing s with
  | nil => exact ⟨s.jobs, s.nextOrder, rfl⟩
  | cons x r ih =>
    obtain ⟨jobs, order, e⟩ := hf s x
    obtain ⟨jobs', order', e'⟩ := ih (f s x)
    exact ⟨jobs', order', e'.trans (by rw [e])⟩

theorem depMet_eq (s : State) (key : Nat) : ∃ jobs order, s.depMet key = { s with jobs := jobs, nextOrder := order } := by
  refine foldl_jobs (fun t e => ?_) _ s
  split
  · exact ⟨_, _, rfl⟩
  · exact ⟨t.jobs, t.nextOrder, rfl⟩

@[simp] theorem syncWord_setSync (s : State) (key : Nat) (v : Word) : (s.setSync key v).syncWord key = v :=
  SMap.get_set_same s.sync.word 0 v key

@[simp] theorem syncFull_setFull (s : State) (key : Nat) (b : Bool) : (s.setFull key b).syncFull key = b :=
  SMap.get_set_same s.sync.full false b key

theorem serve_nobody {s : State} {key : Nat} (h : SMap.get s.sync.wait [] key = []) : s.serve key = s := by
  unfold State.serve
  rw [h]
  rfl

/-- A write of a word nobody waits for re-evaluates what depends on the word, and nothing else follows. -/
theorem written_nobody {t : State} {key : Nat} (h : SMap.get t.sync.wait [] key = []) :
    ∃ jobs order, (t.depMet key).serve key = { t with jobs := jobs, nextOrder := order } := by
  obtain ⟨jobs, order, e⟩ := depMet_eq t key
  exact ⟨jobs, order, (serve_nobody (by rw [e]; exact h)).trans e⟩

/-- The state with other synchronisation engines and job cards. -/
def Machine.State.synced (s : State) (sync : Sync) (jobs : SMap Job) (order : Nat) : State :=
  { s with sync := sync, jobs := jobs, nextOrder := order }

/-- A store to a word nobody waits for changes the word, its full bit as it says, and what depends on the word. -/
theorem syncStore_nobody {s : State} {key : Nat} (h : SMap.get s.sync.wait [] key = []) (v : Word) (full : Option Bool) :
    ∃ sync jobs order, s.syncStore key v full = s.synced sync jobs order ∧
      SMap.get sync.word 0 key = v ∧ SMap.get sync.full false key = full.getD (s.syncFull key) := by
  cases full with
  | none =>
    obtain ⟨jobs, order, e⟩ := written_nobody (t := s.setSync key v) h
    exact ⟨_, jobs, order, e, syncWord_setSync s key v, rfl⟩
  | some b =>
    obtain ⟨jobs, order, e⟩ := written_nobody (t := (s.setSync key v).setFull key b) h
    exact ⟨_, jobs, order, e, syncWord_setSync s key v, syncFull_setFull _ key b⟩

@[simp] theorem syncWord_joinWord (s : State) (key k : Nat) (w : Waiter) : (s.joinWord key w).syncWord k = s.syncWord k := by
  unfold State.joinWord
  dsimp only
  split <;> rfl

@[simp] theorem syncFull_joinWord (s : State) (key k : Nat) (w : Waiter) : (s.joinWord key w).syncFull k = s.syncFull k := by
  unfold State.joinWord
  dsimp only
  split <;> rfl

/-- Who joins a word nobody waits for is its only waiter. -/
theorem wait_joinWord {s : State} {key : Nat} (h : SMap.get s.sync.wait [] key = []) (w : Waiter) :
    SMap.get (s.joinWord key w).sync.wait [] key = [w] := by
  unfold State.joinWord
  rw [h]
  exact SMap.get_set_same s.sync.wait [] [w] key

/-! ### Instructions on a word -/

/-- The instruction retires, writing at most `g`, and leaves the word `v` with its full bit. -/
def LeavesWord (s : State) (i : Instr) (h : Hdr) (key : Nat) (g : Option (Reg × Word)) (v : Word) (full : Bool) : Prop :=
  ∃ t : State, exec i s = .next t ∧ Retired s t h s.cur.next g none ∧ t.syncWord key = v ∧ t.syncFull key = full

/-- The instruction joins the waiters of the word, which nobody waited for, and the word stands as it stood. -/
def JoinsWord (s : State) (i : Instr) (h : Hdr) (d : Reg) (key scope : Nat) (kind : WantKind) (v : Word) : Prop :=
  ∃ t : State, exec i s = .next t ∧ t.cur.went = .stalled ∧
    SMap.get t.sync.wait [] key = [⟨s.cur.slot, kind, h, d, s.cur.pc, s.cur.next, v, scope⟩] ∧
    t.syncWord key = s.syncWord key ∧ t.syncFull key = s.syncFull key

section

variable {s : State} {i : Instr} {h : Hdr} {d : Reg} {gs : List Reg} {key : Nat} {g : Option (Reg × Word)} {body : State → Body}

theorem leavesWord_of_body {u : State} {v : Word} {full : Bool} (ready : Ready s h gs [])
    (hi : exec i s = s.issueSeq h gs [] body) (hb : body s = .done u) (w : Body.Wrote s u g none)
    (next : u.cur.next = s.cur.next) (hv : u.syncWord key = v) (hf : u.syncFull key = full) : LeavesWord s i h key g v full := by
  have retired := retired_of_wrote (h := h) w
  rw [next] at retired
  exact ⟨u.retire h, hi.trans (issueSeq_retires ready hb), retired, hv, hf⟩

theorem joinsWord_of_body {u : State} {scope : Nat} {kind : WantKind} {v : Word} (ready : Ready s h gs [])
    (hi : exec i s = s.issueSeq h gs [] body) (hb : body s = .stall (u.joinWord key (u.waiter kind h d v scope)))
    (cur : u.cur = s.cur) (sync : u.sync = s.sync) (nobody : SMap.get s.sync.wait [] key = []) :
    JoinsWord s i h d key scope kind v := by
  refine ⟨_, hi.trans (issueSeq_stall ready hb), rfl, ?_, ?_, ?_⟩
  · refine (wait_joinWord (by rw [sync]; exact nobody) _).trans ?_
    unfold State.waiter
    rw [cur]
  · refine (syncWord_joinWord u key key _).trans ?_
    unfold State.syncWord
    rw [sync]
  · refine (syncFull_joinWord u key key _).trans ?_
    unfold State.syncFull
    rw [sync]

end

theorem CacheFrame.syncWord {core : Nat} {s t : State} (f : CacheFrame core s t) (key : Nat) :
    t.syncWord key = s.syncWord key := by
  unfold State.syncWord
  rw [f.sync]

theorem CacheFrame.syncFull {core : Nat} {s t : State} (f : CacheFrame core s t) (key : Nat) :
    t.syncFull key = s.syncFull key := by
  unfold State.syncFull
  rw [f.sync]

theorem CacheFrame.rg {core : Nat} {s t : State} (f : CacheFrame core s t) (r : Reg) : t.rg r = s.rg r := by
  unfold State.rg
  rw [f.cur]

theorem copies_performed {k : Slot} (done : k.copiesDone = true) : ¬ (!k.copiesDone) = true := by simp [done]

/-- A word of no group and no ring is no state word of a ring. -/
theorem not_ringState {s : State} {key : Nat} (plain : ¬ s.objectWord key = true) : ¬ s.ringState key = true := by
  intro state
  unfold State.ringState at state
  unfold State.objectWord at plain
  cases ring : s.ringOf key with
  | none => simp [ring] at state
  | some o => simp [ring] at plain

section

variable {s : State} {h : Hdr} {d a : Reg} {scope : BitVec 3}

/-- The number of the word a register names. -/
def Machine.State.wordAt (s : State) (a : Reg) : Nat := syncKey (s.locAt (s.rg a).toNat).pa

/-- A register names a word of a writable synchronisation page, in order. -/
structure NamesWord (s : State) (a : Reg) : Prop where
  aligned : (s.rg a).toNat % 8 = 0
  acc : Accessible s (s.rg a).toNat 8 syncPage

theorem NamesWord.reached (word : NamesWord s a) : ∃ tlb, ∀ {xl pr : Leaf → Option (BitVec 8)} (f : State → Nat → Body),
    (∀ l, syncPage l = true → xl l = none ∧ pr l = none) →
    s.atWord (s.rg a) 8 xl pr f = f (s.holding tlb) (s.wordAt a) := atWord_reached word.aligned word.acc

/-- A word of a group or ring in use (R192, R194). -/
theorem objectWord_faults (ready : Ready s h [d, a] []) (word : NamesWord s a) (object : s.objectWord (s.wordAt a) = true) :
    Faults s (.sldf h d a scope) cPROT 7 (s.rg a) ∧ Faults s (.sste h d a scope) cPROT 7 (s.rg a) ∧
      Faults s (.sstf h d a scope) cPROT 7 (s.rg a) ∧ Faults s (.seclr h a) cPROT 7 (s.rg a) := by
  obtain ⟨tlb, reached⟩ := word.reached
  have one : Ready s h [a] [] := ready.mono (by simp) (List.Subset.refl _)
  let fault : Bad := ⟨cPROT, 7, s.rg a⟩
  refine ⟨?_, ?_, ?_, ?_⟩
  · change execSldf h d a scope s = _
    exact issueSeq_bad (b := fault) ready ((reached _ swXl_wrPr_pass).trans (if_pos object))
  · change execSste h d a scope s = _
    exact issueSeq_bad (b := fault) ready ((reached _ swXl_wrPr_pass).trans (if_pos object))
  · change execSstf h d a scope s = _
    exact issueSeq_bad (b := fault) ready ((reached _ swXl_wrPr_pass).trans (if_pos object))
  · change execSeclr h a s = _
    exact issueSeq_bad (b := fault) one ((reached _ swXl_wrPr_pass).trans (if_pos object))

section

variable (ready : Ready s h [d, a] []) (word : NamesWord s a) (plain : ¬ s.objectWord (s.wordAt a) = true)
  (nobody : SMap.get s.sync.wait [] (s.wordAt a) = [])
include ready word plain nobody

/-- SECLR sets the word empty (R123). -/
theorem seclr_empties : LeavesWord s (.seclr h a) h (s.wordAt a) none (s.syncWord (s.wordAt a)) false := by
  obtain ⟨tlb, reached⟩ := word.reached
  let u := (s.holding tlb).setFull (s.wordAt a) false
  have emptied : Recounts s u := recounts_of_slots rfl rfl
  have served : u.serve (s.wordAt a) = u := serve_nobody nobody
  have one : Ready s h [a] [] := ready.mono (by simp) (List.Subset.refl _)
  refine leavesWord_of_body (u := u) one (show execSeclr h a s = _ from rfl) ?_ emptied.wrote rfl rfl (syncFull_setFull _ _ _)
  exact (reached _ swXl_wrPr_pass).trans ((if_neg plain).trans (congrArg Body.done served))

/-- SLDF of a full word takes the word and leaves it empty (R123). -/
theorem sldf_takes (full : s.syncFull (s.wordAt a) = true) : LeavesWord s (.sldf h d a scope) h (s.wordAt a)
    (some (d, s.syncWord (s.wordAt a))) (s.syncWord (s.wordAt a)) false := by
  obtain ⟨tlb, reached⟩ := word.reached
  let u := (s.holding tlb).setFull (s.wordAt a) false
  let v := u.wg d (s.syncWord (s.wordAt a))
  have emptied : Recounts s u := recounts_of_slots rfl rfl
  have served : v.serve (s.wordAt a) = v := serve_nobody nobody
  have moves := moves_acquireCache (fun _ => False) v s.cur.slot scope.toNat false
  refine leavesWord_of_body (u := v.acquireCache s.cur.slot scope.toNat false) ready (show execSldf h d a scope s = _ from rfl)
    ?_ ((emptied.wrote.trans (wrote_wg u d _)).andThen moves.recounts.wrote) (by rw [moves.cur]; rfl) ?_ ?_
  · refine (reached _ swXl_wrPr_pass).trans ((if_neg plain).trans ((if_pos full).trans ?_))
    exact congrArg (fun z : State => Body.done (z.acquireCache s.cur.slot scope.toNat false)) served
  · exact moves.syncWord _
  · exact (moves.syncFull _).trans (syncFull_setFull (s.holding tlb) (s.wordAt a) false)

/-- SLDF of an empty word waits (R123). -/
theorem sldf_waits (empty : ¬ s.syncFull (s.wordAt a) = true) :
    JoinsWord s (.sldf h d a scope) h d (s.wordAt a) scope.toNat .sldf 0 := by
  obtain ⟨tlb, reached⟩ := word.reached
  refine joinsWord_of_body (u := s.holding tlb) ready (show execSldf h d a scope s = _ from rfl) ?_ rfl rfl nobody
  exact (reached _ swXl_wrPr_pass).trans ((if_neg plain).trans (if_neg empty))

omit nobody in
/-- SLDW of a full word reads it and leaves it full (R123). -/
theorem sldw_reads (full : s.syncFull (s.wordAt a) = true) : LeavesWord s (.sldw h d a scope) h (s.wordAt a)
    (some (d, s.syncWord (s.wordAt a))) (s.syncWord (s.wordAt a)) true := by
  obtain ⟨tlb, reached⟩ := word.reached
  have value : (s.holding tlb).sldwVal (s.wordAt a) = s.syncWord (s.wordAt a) := if_neg (not_ringState plain)
  let v := (s.holding tlb).wg d (s.syncWord (s.wordAt a))
  let u : State := { v with free := v.free + 1 }
  have held : Recounts s (s.holding tlb) := recounts_of_slots rfl rfl
  have counted : Recounts v u := recounts_of_slots rfl rfl
  have moves := moves_acquireCache (fun _ => False) u s.cur.slot scope.toNat false
  refine leavesWord_of_body (u := u.acquireCache s.cur.slot scope.toNat false) ready (show execSldw h d a scope s = _ from rfl)
    ?_ ((held.wrote.trans (wrote_wg _ d _)).andThen (counted.wrote.trans moves.recounts.wrote)) (by rw [moves.cur]; rfl)
    (moves.syncWord _) ((moves.syncFull _).trans full)
  refine (reached _ swXl_noPr_pass).trans ((if_pos ?_).trans ?_)
  · rw [Bool.or_eq_true]
    exact .inl full
  · rw [value]
    rfl

/-- SLDW of an empty word waits (R123). -/
theorem sldw_waits (empty : ¬ s.syncFull (s.wordAt a) = true) :
    JoinsWord s (.sldw h d a scope) h d (s.wordAt a) scope.toNat .sldw 0 := by
  obtain ⟨tlb, reached⟩ := word.reached
  refine joinsWord_of_body (u := s.holding tlb) ready (show execSldw h d a scope s = _ from rfl) ?_ rfl rfl nobody
  refine (reached _ swXl_noPr_pass).trans (if_neg ?_)
  rw [Bool.or_eq_true]
  exact not_or.2 ⟨empty, not_ringState plain⟩

omit word plain in
/-- A store behind the release of the slot's lines (R103). -/
theorem leavesWord_of_store {i : Instr} {body : State → Body} {tlb : SMap (Option Leaf)} (hi : exec i s = s.issueSeq h [d, a] [] body)
    (hb : body s = .done (((s.holding tlb).releaseCache s.cur.slot scope.toNat false).syncStore (s.wordAt a)
      (((s.holding tlb).releaseCache s.cur.slot scope.toNat false).rg d) (some true))) :
    LeavesWord s i h (s.wordAt a) none (s.rg d) true := by
  have held : Recounts s (s.holding tlb) := recounts_of_slots rfl rfl
  have moves := moves_releaseCache (fun _ => False) (s.holding tlb) s.cur.slot scope.toNat false
  obtain ⟨sync, jobs, order, stored, value, full⟩ := syncStore_nobody
    (s := (s.holding tlb).releaseCache s.cur.slot scope.toNat false) (by rw [moves.sync]; exact nobody)
    (((s.holding tlb).releaseCache s.cur.slot scope.toNat false).rg d) (some true)
  rw [stored] at hb
  have written := recounts_of_slots (s := (s.holding tlb).releaseCache s.cur.slot scope.toNat false)
    (u := ((s.holding tlb).releaseCache s.cur.slot scope.toNat false).synced sync jobs order) rfl rfl
  exact leavesWord_of_body ready hi hb ((held.trans moves.recounts).trans written).wrote (congrArg Cur.next moves.cur)
    (value.trans (moves.rg d)) full

/-- SSTF stores and sets full, whatever the word was (R123). -/
theorem sstf_stores (done : s.me.copiesDone = true) : LeavesWord s (.sstf h d a scope) h (s.wordAt a) none (s.rg d) true := by
  obtain ⟨tlb, reached⟩ := word.reached
  have moves := moves_releaseCache (fun _ => False) (s.holding tlb) s.cur.slot scope.toNat false
  refine leavesWord_of_store ready nobody (scope := scope) (tlb := tlb) (show execSstf h d a scope s = _ from rfl) ?_
  rw [moves.rg]
  exact (reached _ swXl_wrPr_pass).trans ((if_neg plain).trans (if_neg (copies_performed done)))

/-- SSTE stores to an empty word and sets it full (R123). -/
theorem sste_stores (done : s.me.copiesDone = true) (empty : ¬ s.syncFull (s.wordAt a) = true) :
    LeavesWord s (.sste h d a scope) h (s.wordAt a) none (s.rg d) true := by
  obtain ⟨tlb, reached⟩ := word.reached
  have moves := moves_releaseCache (fun _ => False) (s.holding tlb) s.cur.slot scope.toNat false
  refine leavesWord_of_store ready nobody (scope := scope) (tlb := tlb) (show execSste h d a scope s = _ from rfl) ?_
  refine (reached _ swXl_wrPr_pass).trans ((if_neg plain).trans ((if_neg (copies_performed done)).trans (if_neg ?_)))
  exact (moves.syncFull _).symm ▸ empty

/-- SSTE of a full word waits, its value with it (R123, R186). -/
theorem sste_waits (done : s.me.copiesDone = true) (full : s.syncFull (s.wordAt a) = true) :
    JoinsWord s (.sste h d a scope) h d (s.wordAt a) scope.toNat .sste (s.rg d) := by
  obtain ⟨tlb, reached⟩ := word.reached
  have moves := moves_releaseCache (fun _ => False) (s.holding tlb) s.cur.slot scope.toNat false
  refine joinsWord_of_body (u := (s.holding tlb).releaseCache s.cur.slot scope.toNat false) ready
    (show execSste h d a scope s = _ from rfl) ?_ moves.cur moves.sync nobody
  rw [show s.rg d = _ from (moves.rg d).symm]
  refine (reached _ swXl_wrPr_pass).trans ((if_neg plain).trans ((if_neg (copies_performed done)).trans (if_pos ?_)))
  exact (moves.syncFull _).trans full

end

end

/-- Settles O42: each instruction by the full bit it finds, where nobody waits for the word. -/
theorem syncWordInstructions : Obligations.SyncWordInstructions := by
  unfold Obligations.SyncWordInstructions
  intro s h d a scope ready va key w aligned acc does waits
  have word : NamesWord s a := ⟨aligned, acc⟩
  refine ⟨objectWord_faults ready word, fun plain nobody => ?_⟩
  have plain : ¬ s.objectWord (s.wordAt a) = true := by rw [Bool.not_eq_true]; exact plain
  refine ⟨seclr_empties ready word plain nobody, sstf_stores ready word plain nobody,
    fun full => ⟨sldf_takes ready word plain nobody full, sldw_reads ready word plain full,
      fun done => sste_waits ready word plain nobody done full⟩, fun empty => ?_⟩
  have empty : ¬ s.syncFull (s.wordAt a) = true := by rw [Bool.not_eq_true]; exact empty
  exact ⟨sldf_waits ready word plain nobody empty, sldw_waits ready word plain nobody empty,
    fun done => sste_stores ready word plain nobody done empty⟩

end Sys2Proof

/-! The proof of O44. Groups: who joins, who leaves, and the barrier of a lone member. -/

namespace Sys2Proof

open Machine

/-! ### What the words of a group show (R192) -/

theorem syncWord_setSync_ne (s : State) {key k : Nat} (v : Word) (h : k ≠ key) : (s.setSync key v).syncWord k = s.syncWord k :=
  SMap.get_set_ne s.sync.word 0 v h

theorem groupAt_setGroup (s : State) (o : Nat) (g : Group) : (s.setGroup o g).groupAt o = g :=
  SMap.get_set_same s.sync.groups {} g o

/-- The members of a group. -/
def Machine.Group.ids (g : Group) : List Word := g.members.map (·.1)

theorem has_iff (g : Group) (id : Word) : g.has id = true ↔ id ∈ g.ids := by
  simp [Group.has, Group.ids]

/-- Nothing has changed but the synchronisation engines. -/
def OnlySync (s t : State) : Prop := { t with sync := s.sync } = s

theorem OnlySync.trans {s t u : State} (o : OnlySync s t) (o' : OnlySync t u) : OnlySync s u := by
  have h := congrArg (fun z : State => { z with sync := s.sync }) o'
  exact h.trans o

theorem OnlySync.slots {s t : State} (o : OnlySync s t) : t.slots = s.slots := by
  have h := congrArg State.slots o
  exact h

theorem OnlySync.cur {s t : State} (o : OnlySync s t) : t.cur = s.cur := by
  have h := congrArg State.cur o
  exact h

theorem OnlySync.recounts {s t : State} (o : OnlySync s t) : Recounts s t := recounts_of_slots o.cur o.slots

theorem OnlySync.foldl {α : Type} {f : State → α → State} (hf : ∀ t x, OnlySync t (f t x)) (l : List α) (s : State) :
    OnlySync s (l.foldl f s) := by
  induction l generalizing s with
  | nil => rfl
  | cons x r ih => exact (hf s x).trans (ih _)

/-- A word set to zero and empty, and a word set full. -/
def Machine.State.zeroWord (s : State) (k : Nat) : State := (s.setSync k 0).setFull k false
def Machine.State.fillWord (s : State) (k : Nat) : State := s.setFull k true

theorem syncWord_zeroWord_ne (s : State) {key k : Nat} (h : k ≠ key) : (s.zeroWord key).syncWord k = s.syncWord k :=
  syncWord_setSync_ne s 0 h

section

variable {s : State} {o : Nat}

theorem showGroup_none (h : (s.groupAt o).members = []) :
    s.showGroup o = (upto 4 o).foldl State.zeroWord (s.setGroup o {}) := if_pos (by simp [h])

theorem showGroup_some (h : (s.groupAt o).members ≠ []) : ∃ arrived, s.showGroup o = (upto 4 o).foldl State.fillWord
    ((s.setSync o (BitVec.ofNat 64 (s.groupAt o).members.length)).setSync (o + 2) arrived) := ⟨_, if_neg (by simpa using h)⟩

theorem showGroup_onlySync (s : State) (o : Nat) : OnlySync s (s.showGroup o) := by
  by_cases h : (s.groupAt o).members = []
  · rw [showGroup_none h]
    exact (show OnlySync s (s.setGroup o {}) from rfl).trans (OnlySync.foldl (f := State.zeroWord) (fun _ _ => rfl) _ _)
  · obtain ⟨arrived, e⟩ := showGroup_some h
    have shown : OnlySync s ((s.setSync o (BitVec.ofNat 64 (s.groupAt o).members.length)).setSync (o + 2) arrived) := rfl
    rw [e]
    exact shown.trans (OnlySync.foldl (f := State.fillWord) (fun _ _ => rfl) _ _)

/-- Where a group has members, its words show them, and only they change. -/
theorem showGroup_members (h : (s.groupAt o).members ≠ []) : (s.showGroup o).groupAt o = s.groupAt o ∧
    (s.showGroup o).syncWord o = BitVec.ofNat 64 (s.groupAt o).members.length ∧
    (s.showGroup o).syncWord (o + 1) = s.syncWord (o + 1) := by
  obtain ⟨arrived, e⟩ := showGroup_some h
  have group (t : State) : ((upto 4 o).foldl State.fillWord t).groupAt o = t.groupAt o :=
    foldl_keeps (f := State.fillWord) (fun z : State => z.groupAt o) (fun _ _ => rfl) _ t
  have word (t : State) (k : Nat) : ((upto 4 o).foldl State.fillWord t).syncWord k = t.syncWord k :=
    foldl_keeps (f := State.fillWord) (fun z : State => z.syncWord k) (fun _ _ => rfl) _ t
  rw [e, group, word, word]
  refine ⟨rfl, ?_, ?_⟩
  · rw [syncWord_setSync_ne _ _ (by omega), syncWord_setSync]
  · rw [syncWord_setSync_ne _ _ (by omega), syncWord_setSync_ne _ _ (by omega)]

/-- A group without members is gone, and its words are zero. -/
theorem showGroup_nobody (h : (s.groupAt o).members = []) : (s.showGroup o).groupAt o = {} ∧ (s.showGroup o).syncWord o = 0 := by
  rw [showGroup_none h]
  refine ⟨?_, ?_⟩
  · have group := foldl_keeps (f := State.zeroWord) (fun z : State => z.groupAt o) (fun _ _ => rfl) (upto 4 o) (s.setGroup o {})
    exact group.trans (groupAt_setGroup s o {})
  · simp only [upto, List.foldl_cons, List.foldl_nil]
    rw [syncWord_zeroWord_ne _ (by omega), syncWord_zeroWord_ne _ (by omega), syncWord_zeroWord_ne _ (by omega)]
    exact syncWord_setSync (s.setGroup o {}) o 0

/-- The words of a group show how many members it has, and the members stay. -/
theorem showGroup_shows (s : State) (o : Nat) : ((s.showGroup o).groupAt o).ids = (s.groupAt o).ids ∧
    (s.showGroup o).syncWord o = BitVec.ofNat 64 (s.groupAt o).ids.length := by
  by_cases h : (s.groupAt o).members = []
  · obtain ⟨group, word⟩ := showGroup_nobody h
    rw [group, word]
    simp [Group.ids, h]
  · obtain ⟨group, word, -⟩ := showGroup_members h
    rw [group, word]
    simp [Group.ids]

/-! ### Generations (R127, R275) -/

theorem closeGen_open (h : (s.groupAt o).complete = false) : s.closeGen o = s := if_neg (by simp [h])

/-- A group whose generation has ended with nobody left waiting. -/
def Machine.Group.ended (g : Group) : Group :=
  { g with opened := false, waiters := [], members := g.members.map fun m => (m.1, false, false) }

theorem ids_ended (g : Group) : g.ended.ids = g.ids := by simp [Group.ids, Group.ended]

/-- The end of a generation nobody waits in only counts it. -/
theorem closeGen_complete (h : (s.groupAt o).waiters = []) (complete : (s.groupAt o).complete = true) :
    s.closeGen o = (s.setGroup o (s.groupAt o).ended).setSync (o + 1) (s.syncWord (o + 1) + 1) := by
  unfold State.closeGen
  simp [complete, h, Group.ended]

theorem closeGen_nobody (h : (s.groupAt o).waiters = []) : OnlySync s (s.closeGen o) ∧
    ((s.closeGen o).groupAt o).ids = (s.groupAt o).ids ∧ ((s.closeGen o).groupAt o).waiters = [] := by
  cases complete : (s.groupAt o).complete with
  | false =>
    rw [closeGen_open complete]
    exact ⟨rfl, rfl, h⟩
  | true =>
    rw [closeGen_complete h complete]
    have group := groupAt_setGroup s o (s.groupAt o).ended
    exact ⟨rfl, (congrArg Group.ids group).trans (ids_ended _), congrArg Group.waiters group⟩

/-- A group nobody waits in, settled: its members stay, and its first word counts them. -/
theorem settleGroup_nobody (h : (s.groupAt o).waiters = []) : OnlySync s (s.settleGroup o) ∧
    ((s.settleGroup o).groupAt o).ids = (s.groupAt o).ids ∧
    (s.settleGroup o).syncWord o = BitVec.ofNat 64 (s.groupAt o).ids.length := by
  obtain ⟨only1, ids1, nobody1⟩ := closeGen_nobody h
  obtain ⟨only2, ids2, -⟩ := closeGen_nobody nobody1
  obtain ⟨ids3, word⟩ := showGroup_shows ((s.closeGen o).closeGen o) o
  have ids := ids2.trans ids1
  exact ⟨(only1.trans only2).trans (showGroup_onlySync _ o), ids3.trans ids, word.trans (by rw [ids])⟩

/-! ### Joining and leaving (R193) -/

/-- The state in which the slot in issue is in other groups. -/
def Machine.State.inGroups (s : State) (groups : List Nat) : State := s.updMe fun k => { k with groups := groups }

theorem inGroups_wrote (s : State) (groups : List Nat) : Body.Wrote s (s.inGroups groups) none none :=
  wrote_updMe s rfl (by unfold State.mySeq; cases s.cur.st <;> rfl)

theorem inGroups_me (s : State) (groups : List Nat) : (s.inGroups groups).me.groups = groups :=
  congrArg Slot.groups (State.me_updMe s fun k => { k with groups := groups })

/-- A task that joins stands last among the members, and the first word counts them. -/
theorem joinGroup_adds (s : State) (o : Nat) : OnlySync (s.inGroups (s.me.groups ++ [o])) (s.joinGroup o s.cur.slot) ∧
    ((s.joinGroup o s.cur.slot).groupAt o).ids = (s.groupAt o).ids ++ [s.me.task.taskId] ∧
    (s.joinGroup o s.cur.slot).syncWord o = BitVec.ofNat 64 ((s.groupAt o).members.length + 1) := by
  let joined : Group := { s.groupAt o with
    live := true, members := (s.groupAt o).members ++ [(s.me.task.taskId, false, false)] }
  let t := (s.setGroup o joined).updMe fun k => { k with groups := k.groups ++ [o] }
  have group : t.groupAt o = joined := groupAt_setGroup s o joined
  obtain ⟨ids, word⟩ := showGroup_shows t o
  rw [group] at ids word
  have only : OnlySync (s.inGroups (s.me.groups ++ [o])) t := rfl
  refine ⟨only.trans (showGroup_onlySync t o), ids.trans ?_, word.trans ?_⟩
  · simp [Group.ids, joined]
  · simp [Group.ids, joined]

/-- A task that leaves a group nobody waits in is no member any more, and the first word counts those that remain. -/
theorem leaveGroup_removes (nobody : (s.groupAt o).waiters = []) :
    OnlySync (s.inGroups (s.me.groups.filter (· != o))) (s.leaveGroup o s.cur.slot) ∧
    ((s.leaveGroup o s.cur.slot).groupAt o).ids = (s.groupAt o).ids.filter (· != s.me.task.taskId) ∧
    (s.leaveGroup o s.cur.slot).syncWord o =
      BitVec.ofNat 64 ((s.groupAt o).ids.filter (· != s.me.task.taskId)).length := by
  let left : Group := { s.groupAt o with
    members := (s.groupAt o).members.filter fun m => m.1 != s.me.task.taskId
    waiters := (s.groupAt o).waiters.filter fun w => w.slot != s.cur.slot }
  let t := (s.setGroup o left).updMe fun k => { k with groups := k.groups.filter (· != o) }
  have group : t.groupAt o = left := groupAt_setGroup s o left
  have ids : left.ids = (s.groupAt o).ids.filter (· != s.me.task.taskId) := by
    simp [Group.ids, left, List.filter_map, Function.comp_def]
  obtain ⟨settled, ids', word⟩ := settleGroup_nobody (s := t) (o := o) (by rw [group]; simp [left, nobody])
  rw [group, ids] at ids' word
  have only : OnlySync (s.inGroups (s.me.groups.filter (· != o))) t := rfl
  exact ⟨only.trans settled, ids', word⟩

end

/-! ### The instructions -/

/-- A register names an object of 32 bytes on a writable synchronisation page, in order. -/
structure NamesGroup (s : State) (a : Reg) : Prop where
  aligned : (s.rg a).toNat % 32 = 0
  acc : Accessible s (s.rg a).toNat 8 syncPage

theorem NamesGroup.reached {s : State} {a : Reg} (group : NamesGroup s a) : ∃ tlb, ∀ {xl pr : Leaf → Option (BitVec 8)}
    (f : State → Nat → Body), (∀ l, syncPage l = true → xl l = none ∧ pr l = none) →
    s.atWord (s.rg a) 32 xl pr f = f (s.holding tlb) (s.wordAt a) := atWord_reached group.aligned group.acc

section

variable {s : State} {h : Hdr} {d a : Reg} {scope : BitVec 3} (ready : Ready s h [d, a] []) (group : NamesGroup s a)
include ready

/-- An instruction that changes the slot's groups and the synchronisation engines, and then writes `v`. -/
theorem regroups {i : Instr} {body : State → Body} {tlb : SMap (Option Leaf)} {groups : List Nat} {u : State} {v : Word}
    (hi : exec i s = s.issueSeq h [d, a] [] body) (hb : body s = .done (u.wg d v))
    (only : OnlySync ((s.holding tlb).inGroups groups) u) :
    ∃ t : State, exec i s = .next t ∧ Retired s t h s.cur.next (some (d, v)) none ∧ t.sync = u.sync ∧
      (t.slotOf s).groups = groups := by
  have held : Recounts s (s.holding tlb) := recounts_of_slots rfl rfl
  have frame : OnlyIssuer u ((u.wg d v).retire h) := retire_slotAs h (onlyIssuer_updSeq u fun q => q.wr d v) rfl rfl
  have wrote := held.wrote.trans ((inGroups_wrote _ groups).trans (only.recounts.wrote.trans (wrote_wg u d v)))
  have retired := retired_of_wrote (h := h) wrote
  rw [show (u.wg d v).cur.next = s.cur.next from congrArg Cur.next only.cur] at retired
  refine ⟨(u.wg d v).retire h, hi.trans (issueSeq_retires ready hb), retired, rfl, ?_⟩
  have kept := congrArg (fun z : Slot => z.groups) frame.slot
  have mine : ((u.wg d v).retire h).slotOf s = ((u.wg d v).retire h).slotOf u := by
    unfold State.slotOf
    rw [only.cur]
    rfl
  rw [mine]
  refine kept.trans ((only.recounts.me.keeps Slot.groups fun _ _ _ _ => rfl).trans (inGroups_me _ groups))

include group

theorem gjoin_joins (objectReady : s.groupReady (s.wordAt a) = true) (noRing : s.ringOf (s.wordAt a) = none)
    (stranger : (s.groupAt (s.wordAt a)).has s.me.task.taskId = false) (few : s.me.groups.length < 8) :
    ∃ t : State, exec (.gjoin h d a) s = .next t ∧
      Retired s t h s.cur.next (some (d, BitVec.ofNat 64 ((s.groupAt (s.wordAt a)).members.length + 1))) none ∧
      (t.groupAt (s.wordAt a)).ids = (s.groupAt (s.wordAt a)).ids ++ [s.me.task.taskId] ∧
      (t.slotOf s).groups = s.me.groups ++ [s.wordAt a] := by
  obtain ⟨tlb, reached⟩ := group.reached
  obtain ⟨only, ids, word⟩ := joinGroup_adds (s.holding tlb) (s.wordAt a)
  have mayJoin : ¬ (!s.groupReady (s.wordAt a) || (s.ringOf (s.wordAt a)).isSome) = true := by simp [objectReady, noRing]
  obtain ⟨t, runs, retired, sync, groups⟩ := regroups (i := .gjoin h d a) ready (show execGjoin h d a s = _ from rfl)
    ((reached _ objXl_wrPr_pass).trans ((if_neg mayJoin).trans ((if_neg (ne_true_of_eq_false stranger)).trans
      (if_neg (Nat.not_le.2 few))))) only
  refine ⟨t, runs, word ▸ retired, ?_, groups⟩
  unfold State.groupAt at ids ⊢
  rw [sync]
  exact ids

theorem gleave_leaves (member : (s.groupAt (s.wordAt a)).has s.me.task.taskId = true)
    (nobody : (s.groupAt (s.wordAt a)).waiters = []) :
    ∃ t : State, exec (.gleave h d a) s = .next t ∧
      Retired s t h s.cur.next (some (d, BitVec.ofNat 64
        ((s.groupAt (s.wordAt a)).ids.filter (· != s.me.task.taskId)).length)) none ∧
      (t.groupAt (s.wordAt a)).ids = (s.groupAt (s.wordAt a)).ids.filter (· != s.me.task.taskId) ∧
      (t.slotOf s).groups = s.me.groups.filter (· != s.wordAt a) := by
  obtain ⟨tlb, reached⟩ := group.reached
  obtain ⟨only, ids, word⟩ := leaveGroup_removes (s := s.holding tlb) (o := s.wordAt a) nobody
  obtain ⟨t, runs, retired, sync, groups⟩ := regroups (i := .gleave h d a) ready (show execGleave h d a s = _ from rfl)
    ((reached _ objXl_wrPr_pass).trans (if_pos member)) only
  refine ⟨t, runs, word ▸ retired, ?_, groups⟩
  unfold State.groupAt at ids ⊢
  rw [sync]
  exact ids

theorem gleave_stranger (stranger : (s.groupAt (s.wordAt a)).has s.me.task.taskId = false) :
    ∃ t : State, exec (.gleave h d a) s = .next t ∧ Retired s t h s.cur.next (some (d, 0)) none ∧
      t.groupAt (s.wordAt a) = s.groupAt (s.wordAt a) := by
  obtain ⟨tlb, reached⟩ := group.reached
  have held : Recounts s (s.holding tlb) := recounts_of_slots rfl rfl
  refine ⟨((s.holding tlb).wg d 0).retire h, ?_, retired_of_wrote (held.wrote.trans (wrote_wg _ d 0)), rfl⟩
  change execGleave h d a s = _
  exact issueSeq_retires ready ((reached _ objXl_wrPr_pass).trans (if_neg (ne_true_of_eq_false stranger)))

theorem gbar_stranger (stranger : (s.groupAt (s.wordAt a)).has s.me.task.taskId = false) :
    Faults s (.gbar h d a scope) cPROT 8 (s.rg a) := by
  obtain ⟨tlb, reached⟩ := group.reached
  change execGbar h d a scope s = _
  refine issueSeq_bad (b := ⟨cPROT, 8, s.rg a⟩) ready ((reached _ objXl_wrPr_pass).trans (if_pos ?_))
  rw [Bool.not_eq_true']
  exact stranger

end

/-! ### The barrier of a lone member (R127, R275) -/

section

variable {s : State} {o : Nat} {w : Waiter} {live : Bool} {id : Word}

/-- A generation in which the only member has arrived ends: its waiter departs with the generation's number. -/
theorem closeGen_lone (hg : s.groupAt o = ⟨live, [(id, true, true)], true, [w]⟩) (who : (s.slotAt w.slot).task.taskId = id) :
    s.closeGen o = (((s.setGroup o ⟨live, [(id, false, false)], false, []⟩).setSync (o + 1)
      (s.syncWord (o + 1) + 1)).completeA w fun q => q.wr w.d (s.syncWord (o + 1))).acquireCache w.slot w.scope false := by
  unfold State.closeGen
  rw [hg]
  simp [Group.complete, who]

/-- The slot of a waiter once its instruction has completed with the value `v`. -/
def Machine.Waiter.departs (w : Waiter) (v : Word) (k : Slot) : Slot :=
  (k.updSeq .a fun q => q.wr w.d v).finish .a w.h w.pc w.next

/-- The only member of a group with no open generation arrives and departs in one: the generation is counted, nobody waits, and
the member's instruction has completed with the generation's number. -/
theorem arrive_lone (hid : (s.groupAt o).ids = [id]) (closed : (s.groupAt o).opened = false) (nobody : (s.groupAt o).waiters = [])
    (who : (s.slotAt w.slot).task.taskId = id) :
    (s.arrive o w).cur = s.cur ∧ ((s.arrive o w).groupAt o).waiters = [] ∧
      (s.arrive o w).syncWord (o + 1) = s.syncWord (o + 1) + 1 ∧
      Recounted (w.departs (s.syncWord (o + 1)) (s.slotAt w.slot)) ((s.arrive o w).slotAt w.slot) := by
  obtain ⟨⟨id', part, arrived⟩, hm⟩ : ∃ m, (s.groupAt o).members = [m] := by
    have := congrArg List.length hid
    exact List.length_eq_one_iff.1 (by simpa [Group.ids] using this)
  obtain rfl : id' = id := by simpa [Group.ids, hm] using hid
  let opened : Group := ⟨(s.groupAt o).live, [(id', true, true)], true, [w]⟩
  have hopen : s.arrive o w = (s.setGroup o opened).settleGroup o := by
    unfold State.arrive
    simp [closed, nobody, Group.start, hm, who, opened]
  let u := ((s.setGroup o opened).setGroup o ⟨(s.groupAt o).live, [(id', false, false)], false, []⟩).setSync (o + 1)
    (s.syncWord (o + 1) + 1)
  let v := u.completeA w fun q => q.wr w.d (s.syncWord (o + 1))
  let t := v.acquireCache w.slot w.scope false
  have ends : (s.setGroup o opened).closeGen o = t := closeGen_lone (groupAt_setGroup s o opened) who
  have moves := moves_acquireCache (fun _ => False) v w.slot w.scope false
  have group : t.groupAt o = ⟨(s.groupAt o).live, [(id', false, false)], false, []⟩ := by
    unfold State.groupAt
    rw [moves.sync]
    exact groupAt_setGroup _ o _
  have again : t.closeGen o = t := closeGen_open (by rw [group]; rfl)
  have shown : s.arrive o w = t.showGroup o := by
    rw [hopen]
    unfold State.settleGroup
    rw [ends, again]
  obtain ⟨groupShown, -, word⟩ := showGroup_members (s := t) (o := o) (by rw [group]; simp)
  have only := showGroup_onlySync t o
  rw [shown]
  refine ⟨only.cur.trans moves.cur, ?_, ?_, ?_⟩
  · rw [groupShown, group]
  · rw [word, moves.syncWord]
    exact syncWord_setSync _ (o + 1) _
  · refine Recounted.trans ?_ ((moves.recounts.trans only.recounts).slots w.slot)
    unfold Recounted
    rw [show v.slotAt w.slot = w.departs (s.syncWord (o + 1)) (s.slotAt w.slot) from State.slotAt_updSlot_same u w.slot _]

theorem departs_a (w : Waiter) (v : Word) (k : Slot) : (w.departs v k).a.pc = w.next ∧
    (w.d ≠ 0 → (w.departs v k).a.rd w.d = v) := by
  have f := finish_seq (k.updSeq .a fun q => q.wr w.d v) .a w.h w.pc w.next
  exact ⟨f.pc, fun hd => (rd_congr f.g w.d).trans (Seq.rd_wr_same k.a v hd)⟩

end

/-- The state after an instruction that has completed as a waiter: the step counts it as retired. -/
def Machine.State.served (s : State) : State := { s with cur := { s.cur with went := .retired } }

theorem served_slotOf (s t : State) : t.served.slotOf s = t.slotAt s.cur.slot := rfl

theorem served_syncWord (s : State) (k : Nat) : s.served.syncWord k = s.syncWord k := rfl

theorem issueSeq_served {s u : State} {h : Hdr} {gs : List Reg} {ps : List PReg} {body : State → Body}
    (r : Ready s h gs ps) (e : body s = .served u) : s.issueSeq h gs ps body = .next u.served := by
  rw [issueSeq_ready _ r, e]
  rfl

theorem gbar_lone {s : State} {h : Hdr} {d a : Reg} {scope : BitVec 3} (ready : Ready s h [d, a] []) (group : NamesGroup s a)
    (hid : (s.groupAt (s.wordAt a)).ids = [s.me.task.taskId]) (closed : (s.groupAt (s.wordAt a)).opened = false)
    (nobody : (s.groupAt (s.wordAt a)).waiters = []) (done : s.me.copiesDone = true) :
    ∃ t : State, exec (.gbar h d a scope) s = .next t ∧ t.cur.went = .retired ∧ (t.slotOf s).a.pc = s.cur.next ∧
      (d ≠ 0 → (t.slotOf s).a.rd d = s.syncWord (s.wordAt a + 1)) ∧
      t.syncWord (s.wordAt a + 1) = s.syncWord (s.wordAt a + 1) + 1 := by
  obtain ⟨tlb, reached⟩ := group.reached
  let u := (s.holding tlb).releaseCache s.cur.slot scope.toNat false
  let w := (s.holding tlb).waiter .gbar h d 0 scope.toNat
  have moves : CacheMoves (coreOf s.cur.slot) (fun _ => False) (s.holding tlb) u := moves_releaseCache _ _ _ _ _
  have same : u.groupAt (s.wordAt a) = s.groupAt (s.wordAt a) := by
    unfold State.groupAt
    rw [moves.sync]
    rfl
  have who : (u.slotAt w.slot).task.taskId = s.me.task.taskId :=
    (moves.recounts.slots w.slot).keeps (fun z : Slot => z.task.taskId) fun _ _ _ _ => rfl
  obtain ⟨cur, left, word, departed⟩ := arrive_lone (s := u) (o := s.wordAt a) (w := w) (by rw [same]; exact hid)
    (by rw [same]; exact closed) (by rw [same]; exact nobody) who
  have gen : u.syncWord (s.wordAt a + 1) = s.syncWord (s.wordAt a + 1) := moves.syncWord _
  obtain ⟨pc, reg⟩ := departs_a w (u.syncWord (s.wordAt a + 1)) (u.slotAt w.slot)
  have aSeq := departed.keeps Slot.a fun _ _ _ _ => rfl
  have member : ¬ (!(s.groupAt (s.wordAt a)).has s.me.task.taskId) = true := by
    have : s.me.task.taskId ∈ (s.groupAt (s.wordAt a)).ids := by simp [hid]
    simp [(has_iff _ _).2 this]
  have waits : ¬ ((s.groupAt (s.wordAt a)).waiters.any fun w => w.slot == s.cur.slot) = true := by simp [nobody]
  have departs : ¬ (((u.arrive (s.wordAt a) w).groupAt (s.wordAt a)).waiters.any
      fun x => x.slot == (u.arrive (s.wordAt a) w).cur.slot) = true := by simp [left]
  refine ⟨(u.arrive (s.wordAt a) w).served, ?_, rfl, ?_, fun hd => ?_, ?_⟩
  · change execGbar h d a scope s = _
    refine issueSeq_served ready ((reached _ objXl_wrPr_pass).trans ?_)
    exact (if_neg member).trans ((if_neg waits).trans ((if_neg (copies_performed done)).trans (if_neg departs)))
  · rw [served_slotOf]
    exact (congrArg Seq.pc aSeq).trans pc
  · rw [served_slotOf]
    exact (congrArg (fun q : Seq => q.rd d) aSeq).trans ((reg hd).trans gen)
  · rw [served_syncWord, word, gen]

/-- Settles O44: joining and leaving keep the list of members and the word that counts them, and the arrival of a lone member opens
and ends a generation in one step. -/
theorem groups : Obligations.Groups := by
  unfold Obligations.Groups
  intro s h d a scope ready _ va o id ids aligned acc
  have group : NamesGroup s a := ⟨aligned, acc⟩
  exact ⟨gjoin_joins ready group, fun stranger => ⟨gbar_stranger ready group stranger, gleave_stranger ready group stranger⟩,
    gleave_leaves ready group, gbar_lone ready group⟩

end Sys2Proof

/-! The proof of O39. Atomics: the operation at a home, and its issue (R94, R124, R182, R183). -/

namespace Sys2Proof

open Machine

/-! ### The patterns of a rounded sum (R75) -/

theorem mul_pow2_lt {m n : Nat} {d : Int} (h : (m.log2 : Int) + d < n) (hd : 0 ≤ d) : m * pow2 d < 2 ^ n := by
  calc m * 2 ^ d.toNat < 2 ^ (m.log2 + 1) * 2 ^ d.toNat := Nat.mul_lt_mul_of_pos_right Nat.lt_log2_self (by positivity)
    _ = 2 ^ (m.log2 + 1 + d.toNat) := (pow_add 2 _ _).symm
    _ ≤ 2 ^ n := Nat.pow_le_pow_right (by omega) (by omega)

theorem lt_mul_pow2 {m n : Nat} {d : Int} (h : (m.log2 : Int) < n + d) (hd : 0 ≤ d) : m < pow2 d * 2 ^ n := by
  calc m < 2 ^ (m.log2 + 1) := Nat.lt_log2_self
    _ ≤ 2 ^ (d.toNat + n) := Nat.pow_le_pow_right (by omega) (by omega)
    _ = 2 ^ d.toNat * 2 ^ n := pow_add 2 _ _

/-- A magnitude rounded so that at most `n` bits stand above its last place has at most `n` bits, or is the next power of two. -/
theorem roundAt_le {m n : Nat} {e q : Int} (h : (m.log2 : Int) + e < n + q) : (roundAt m e q).1 ≤ 2 ^ n := by
  unfold roundAt
  split
  · exact (mul_pow2_lt (by omega) (by omega)).le
  · have : m / pow2 (q - e) < 2 ^ n := Nat.div_lt_of_lt_mul (lt_mul_pow2 (by omega) (by omega))
    dsimp only
    split <;> omega

section

variable (f : Nat)

theorem nanBits_lt : nanBits f < 512 * 2 ^ f := by
  have : 2 ^ (f - 1) ≤ 2 ^ f := Nat.pow_le_pow_right (by omega) (by omega)
  have : 0 < 2 ^ f := by positivity
  unfold nanBits
  omega

theorem signBits_le (neg : Bool) : (if neg then 2 ^ (f + 8) else 0) ≤ 256 * 2 ^ f := by
  have : 2 ^ (f + 8) = 2 ^ f * 256 := pow_add 2 f 8
  split <;> omega

theorem infBits_lt (neg : Bool) : infBits f neg < 512 * 2 ^ f := by
  have := signBits_le f neg
  have : 0 < 2 ^ f := by positivity
  unfold infBits
  omega

/-- A rounded magnitude that has carried into the next power of two is halved, so its leading bit stands at place `f`. -/
theorem mantissa_lt {r : Nat} (h : r ≤ 2 ^ (f + 1)) : (if decide (2 ^ (f + 1) ≤ r) then r / 2 else r) < 2 * 2 ^ f := by
  have : 2 ^ (f + 1) = 2 ^ f * 2 := pow_succ 2 f
  have : 0 < 2 ^ f := by positivity
  simp only [decide_eq_true_eq]
  split <;> omega

/-- A sign, an exponent of 8 bits and a mantissa are put together, or the exponent is that of an infinity. -/
theorem packed_lt {sg mant : Nat} {q : Int} {inexact : Bool} (sign : sg ≤ 256 * 2 ^ f) (small : mant < 2 * 2 ^ f) (neg : Bool) :
    (if 127 < q + f then (⟨infBits f neg, true, true⟩ : Rounded)
     else if mant < 2 ^ f then ⟨sg + mant, inexact, false⟩
     else ⟨sg + (q + f + 127).toNat * 2 ^ f + (mant - 2 ^ f), inexact, false⟩).bits < 512 * 2 ^ f := by
  have pos : 0 < 2 ^ f := by positivity
  split_ifs with big sub
  · exact infBits_lt f neg
  · show sg + mant < _
    omega
  · have exponent : (q + f + 127).toNat * 2 ^ f ≤ 254 * 2 ^ f := Nat.mul_le_mul_right _ (by omega)
    show sg + (q + f + 127).toNat * 2 ^ f + (mant - 2 ^ f) < _
    omega

/-- A format with `f` fraction bits has `f + 9` bits. -/
theorem rne_lt (x : Fp) : (rne f x).bits < 512 * 2 ^ f := by
  have pos : 0 < 2 ^ f := by positivity
  cases x with
  | nan => exact nanBits_lt f
  | inf neg => exact infBits_lt f neg
  | fin neg m e =>
    have sign := signBits_le f neg
    by_cases zero : m = 0
    · rw [show rne f (.fin neg m e) = ⟨if neg then 2 ^ (f + 8) else 0, false, false⟩ from if_pos zero]
      show (if neg then 2 ^ (f + 8) else 0) < _
      omega
    · rw [show rne f (.fin neg m e) = _ from if_neg zero]
      exact packed_lt f sign (mantissa_lt f (roundAt_le (by omega))) neg

end

/-! ### The new value of a cell (R182) -/

/-- The new value of an atomic on a cell that holds a value of its width is of its width. -/
theorem atomNew_lt {op : AtomOp} {old v : Nat} (hold : old < 2 ^ (8 * op.size)) (sized : op.size = 2 ∨ 4 ≤ op.size)
    (h : atomNew op old = some v) : v < 2 ^ (8 * op.size) := by
  obtain ⟨kind, size, uns, pa, y, z⟩ := op
  have hy : y.toNat % 2 ^ (8 * size) < 2 ^ (8 * size) := Nat.mod_lt _ (by positivity)
  cases kind <;> simp only [atomNew, Option.some.injEq] at h hold sized ⊢
  case add => exact h ▸ Nat.mod_lt _ (by positivity)
  case fadd =>
    subst h
    split
    · next two =>
      subst two
      exact rne_lt 7 _
    · have wide : 2 ^ 32 ≤ 2 ^ (8 * size) := Nat.pow_le_pow_right (by omega) (by omega)
      exact (rne_lt 23 _).trans_le wide
  case min => subst h; split_ifs <;> assumption
  case max => subst h; split_ifs <;> assumption
  case and => exact h ▸ Nat.and_lt_two_pow _ hy
  case or => exact h ▸ Nat.or_lt_two_pow hold hy
  case xor => exact h ▸ Nat.xor_lt_two_pow hold hy
  case swap => exact h ▸ hy
  case cas =>
    split at h
    · exact Option.some.inj h ▸ Nat.mod_lt _ (by positivity)
    · cases h

/-! ### Numbers in memory (R5) -/

theorem upto_eq_map_range (n a : Nat) : upto n a = (List.range n).map (a + ·) := by
  refine List.ext_getElem (by simp) fun i h _ => ?_
  simp [getElem_upto h]

@[simp] theorem length_leBytes (n v : Nat) : (leBytes n v).length = n := by
  induction n generalizing v with
  | zero => rfl
  | succ n ih => simp [leBytes, ih]

theorem leNat_leBytes (n v : Nat) (h : v < 256 ^ n) : leNat (leBytes n v) = v := by
  induction n generalizing v with
  | zero => simp only [leBytes, leNat]; omega
  | succ n ih =>
    have rest : v / 256 < 256 ^ n := Nat.div_lt_of_lt_mul (by rw [← pow_succ']; exact h)
    simp only [leBytes, leNat, ih _ rest, BitVec.toNat_ofNat]
    omega

theorem leNat_lt (l : List Byte) : leNat l < 256 ^ l.length := by
  induction l with
  | nil => simp [leNat]
  | cons b r ih =>
    have := b.isLt
    simp only [leNat, List.length_cons, pow_succ]
    omega

theorem leNat_map_range_lt (f : Nat → Byte) (n : Nat) : leNat ((List.range n).map f) < 2 ^ (8 * n) := by
  have := leNat_lt ((List.range n).map f)
  rw [List.length_map, List.length_range] at this
  rw [pow_mul]
  exact this

/-- Bytes written at rising addresses are read there. -/
theorem read_writeBytes (m : Memory) (a : Nat) (l : List Byte) :
    (upto l.length a).map (SMap.get (writeBytes m a l) 0) = l := by
  induction l generalizing m a with
  | nil => rfl
  | cons b r ih =>
    have first : SMap.get (writeBytes m a (b :: r)) 0 a = b := by
      rw [get_writeBytes]
      simp
    exact congrArg₂ List.cons first (ih (SMap.set m 0 a b) (a + 1))

section

variable (s : State) (pa n : Nat)

theorem rdPhys_eq_homeBytes : s.rdPhys pa n = leNat ((List.range n).map fun i => s.homeByte ⟨0, 0, pa + i⟩) := by
  unfold State.rdPhys
  rw [upto_eq_map_range, List.map_map]
  rfl

theorem rdPhys_lt : s.rdPhys pa n < 2 ^ (8 * n) := by
  rw [rdPhys_eq_homeBytes]
  exact leNat_map_range_lt _ n

theorem rdPhys_wrPhys {v : Nat} (h : v < 2 ^ (8 * n)) : (s.wrPhys pa n v).rdPhys pa n = v := by
  have read := read_writeBytes s.mem pa (leBytes n v)
  rw [length_leBytes] at read
  rw [pow_mul] at h
  exact (congrArg leNat read).trans (leNat_leBytes n v h)

/-- A write of module memory leaves every byte outside it. -/
theorem homeByte_wrPhys {v : Nat} {l : Loc} (outside : ¬ (l.tier = 0 ∧ pa ≤ l.pa ∧ l.pa < pa + n)) :
    (s.wrPhys pa n v).homeByte l = s.homeByte l := by
  obtain ⟨tier, pkg, a⟩ := l
  rcases tier with _ | _ | _ | k
  · refine (get_writeBytes s.mem pa (leBytes n v) a).trans (if_neg ?_)
    rw [length_leBytes]
    exact fun c => outside ⟨rfl, c⟩
  all_goals rfl

end

/-! ### The operation at the home (R124, R183) -/

/-- What a cell that held `old` holds behind an atomic. -/
def AtomOp.leaves (op : AtomOp) (old : Nat) : Nat := (atomNew op old).getD old

/-- The state with another module memory. -/
def Machine.State.storing (s : State) (mem : Memory) : State := { s with mem := mem }

/-- An atomic on module memory returns what the cell held and changes the cell alone. -/
theorem atomHome_memory (s : State) {tier : Nat} {op : AtomOp} (memory : tier ≠ 2) (sized : op.size = 2 ∨ 4 ≤ op.size) :
    ∃ mem, s.atomHome tier op = (s.storing mem, s.rdPhys op.pa op.size) ∧
      (s.storing mem).rdPhys op.pa op.size = op.leaves (s.rdPhys op.pa op.size) ∧
      ∀ l : Loc, ¬ (l.tier = 0 ∧ op.pa ≤ l.pa ∧ l.pa < op.pa + op.size) →
        (s.storing mem).homeByte l = s.homeByte l := by
  unfold State.atomHome AtomOp.leaves
  rw [if_neg memory]
  dsimp only
  cases new : atomNew op (s.rdPhys op.pa op.size) with
  | none => exact ⟨s.mem, rfl, rfl, fun _ _ => rfl⟩
  | some v =>
    have small := atomNew_lt (rdPhys_lt s op.pa op.size) sized new
    exact ⟨_, rfl, rdPhys_wrPhys s op.pa op.size small, fun l outside => homeByte_wrPhys s op.pa op.size outside⟩

/-- An atomic on a whole word nobody waits for returns the word and changes it alone, and its full bit stays. -/
theorem atomHome_word {s : State} {op : AtomOp} (whole : op.size = 8) (aligned : op.pa % 8 = 0)
    (nobody : SMap.get s.sync.wait [] (syncKey op.pa) = []) :
    ∃ sync jobs order, s.atomHome 2 op = (s.synced sync jobs order, (s.syncWord (syncKey op.pa)).toNat) ∧
      SMap.get sync.word 0 (syncKey op.pa) = BitVec.ofNat 64 (op.leaves (s.syncWord (syncKey op.pa)).toNat) ∧
      SMap.get sync.full false (syncKey op.pa) = s.syncFull (syncKey op.pa) := by
  have old : bits (s.syncWord (syncKey op.pa)).toNat (8 * (op.pa % 8)) (8 * op.size) = (s.syncWord (syncKey op.pa)).toNat := by
    rw [aligned, whole, bits]
    simpa using (s.syncWord (syncKey op.pa)).isLt
  unfold State.atomHome AtomOp.leaves
  simp only [if_true, old]
  cases new : atomNew op (s.syncWord (syncKey op.pa)).toNat with
  | none => exact ⟨s.sync, s.jobs, s.nextOrder, rfl, by simp [State.syncWord], rfl⟩
  | some v =>
    obtain ⟨sync, jobs, order, stored, word, full⟩ := syncStore_nobody nobody (BitVec.ofNat 64 v) none
    refine ⟨sync, jobs, order, ?_, word, full⟩
    simp [aligned, stored]

/-! ### The issue of an atomic (R183) -/

/-- The state behind the release of an atomic, behind its acquire, and where its cell is at home. -/
def Machine.State.atomOut (s : State) (ord : BitVec 2) (scope : BitVec 3) : State :=
  if ord.getLsbD 1 then s.releaseCache s.cur.slot scope.toNat false else s
def Machine.State.atomIn (s : State) (slot : Nat) (ord : BitVec 2) (scope : BitVec 3) : State :=
  if ord.getLsbD 0 then s.acquireCache slot scope.toNat false else s
def Machine.State.atomHeld (s : State) (ord : BitVec 2) (scope : BitVec 3) (tlb : SMap (Option Leaf)) (l : Loc) : State :=
  ((s.atomOut ord scope).holding tlb).flushLoc s.cur.slot l

/-- The operation of an atomic whose registers are read. -/
def Machine.State.atomOp (s : State) (kind : AtomKind) (uns : Bool) (a b c : Reg) (sz : BitVec 2) : AtomOp :=
  ⟨kind, atomBytes sz, uns, (s.locAt (s.rg a).toNat).pa, s.rg b, s.rg c⟩

/-- An atomic in order on pages of this package: its registers are read, no range counter is full, and a release has its copies
performed. -/
structure AtomReady (s : State) (h : Hdr) (d a b c : Reg) (sz ord : BitVec 2) (ok : Leaf → Bool) : Prop where
  ready : Ready s h [d, a, b, c] []
  aligned : (s.rg a).toNat % atomBytes sz = 0
  acc : Accessible s (s.rg a).toNat (atomBytes sz) ok
  tags : s.me.tagsFull (s.me.tagsOf [((s.rg a).toNat, atomBytes sz)]) = false
  copies : ord.getLsbD 1 = true → s.me.copiesDone = true

theorem bytesAt_atom (s : State) (va : Nat) (sz : BitVec 2) :
    ∃ rest, s.bytesAt va (atomBytes sz) = (va, s.leafAt va, s.locAt va) :: rest := by
  obtain ⟨m, hm⟩ : ∃ m, atomBytes sz = m + 1 := ⟨_, (Nat.sub_add_cancel (Nat.two_pow_pos _)).symm⟩
  rw [hm]
  exact ⟨_, rfl⟩

section

variable {s : State} {h : Hdr} {d a b c : Reg} {sz ord : BitVec 2} {scope : BitVec 3} {ok : Leaf → Bool}

theorem AtomReady.dropC (atom : AtomReady s h d a b c sz ord ok) : AtomReady s h d a b 0 sz ord ok := by
  refine { atom with ready := ⟨atom.ready.queues, ?_, atom.ready.tokens⟩ }
  have open_ := atom.ready.regs
  simp only [Seq.awaits, List.any_cons, List.any_nil, Bool.or_false, Bool.or_eq_false_iff] at open_ ⊢
  exact ⟨open_.1, open_.2.1, open_.2.2.1, rfl⟩

/-- An atomic in order performs its operation at the home, writes the old value, and retires. -/
theorem atomic_performs (atom : AtomReady s h d a b c sz ord ok) (pass : ∀ l, ok l = true → atXl l = none ∧ wrPr l = none)
    (mine : (s.locAt (s.rg a).toNat).tier ≠ 3)
    (plain : ¬ ((s.locAt (s.rg a).toNat).tier = 2 ∧ s.objectWord (syncKey (s.locAt (s.rg a).toNat).pa) = true))
    (kind : AtomKind) (uns : Bool) : ∃ tlb, ∀ {u : State} {old : Nat},
      (s.atomHeld ord scope tlb (s.locAt (s.rg a).toNat)).atomHome (s.locAt (s.rg a).toNat).tier (s.atomOp kind uns a b c sz) =
        (u, old) →
      s.atomic h kind uns d a b c sz ord scope =
        .next (((u.wg d (BitVec.ofNat 64 old)).atomIn s.cur.slot ord scope).retire h) := by
  obtain ⟨rest, bytes⟩ := bytesAt_atom s (s.rg a).toNat sz
  obtain ⟨tlb, held⟩ := holdAll_eq (s.atomOut ord scope) s.me.task.asid
    (((s.rg a).toNat, s.leafAt (s.rg a).toNat, s.locAt (s.rg a).toNat) :: rest)
  refine ⟨tlb, fun performed => ?_⟩
  have goes : ¬ (s.me.tagsFull (s.me.tagsOf [((s.rg a).toNat, atomBytes sz)]) || (ord.getLsbD 1 && !s.me.copiesDone)) = true := by
    simpa [atom.tags] using atom.copies
  unfold State.atomic
  refine issueSeq_retires atom.ready ?_
  rw [if_neg (not_not.2 atom.aligned), access_ok atom.acc pass, bytes]
  dsimp only
  rw [if_neg plain, if_neg goes, if_neg mine]
  unfold State.atomHeld at performed
  rw [← held] at performed
  unfold State.atomOut State.atomOp at performed
  rw [performed]
  rfl

/-- A word of a group or ring in use admits no atomic (R192, R194). -/
theorem atomic_objectWord (atom : AtomReady s h d a b c sz ord ok) (pass : ∀ l, ok l = true → atXl l = none ∧ wrPr l = none)
    (object : (s.locAt (s.rg a).toNat).tier = 2 ∧ s.objectWord (syncKey (s.locAt (s.rg a).toNat).pa) = true)
    (kind : AtomKind) (uns : Bool) :
    s.atomic h kind uns d a b c sz ord scope = .next (s.issueFault ⟨cPROT, 7, s.rg a⟩ 0 s.cur.pc) := by
  obtain ⟨rest, bytes⟩ := bytesAt_atom s (s.rg a).toNat sz
  unfold State.atomic
  refine issueSeq_bad (b := ⟨cPROT, 7, s.rg a⟩) atom.ready ?_
  rw [if_neg (not_not.2 atom.aligned), access_ok atom.acc pass, bytes]
  dsimp only
  rw [if_pos object]

end

/-! ### Atomics on sync words -/

/-- The instruction writes the old word of a cell to a register, leaves the cell's word as said and its full bit, and touches no
memory. -/
def ChangesWord (s : State) (i : Instr) (h : Hdr) (d : Reg) (key : Nat) (v : Word) : Prop :=
  ∃ t : State, exec i s = .next t ∧ Retired s t h s.cur.next (some (d, s.syncWord key)) none ∧
    t.syncWord key = v ∧ t.syncFull key = s.syncFull key ∧ t.mem = s.mem ∧ t.host = s.host

theorem atXl_wrPr_pass {l : Leaf} {tier : Nat} (near : tier ≠ 1) (h : (l.tier == tier && l.write) = true) :
    atXl l = none ∧ wrPr l = none := by
  simp only [Bool.and_eq_true, beq_iff_eq] at h
  obtain ⟨rfl, write⟩ := h
  simp [atXl, wrPr, near, write]

theorem tier_of_acc {s : State} {va n tier : Nat} (acc : Accessible s va n fun l => l.tier == tier && l.write) (hn : 0 < n) :
    (s.locAt va).tier = tier := by
  obtain ⟨-, good, -⟩ := acc.at (a := va) ⟨le_refl _, by omega⟩
  simp only [Bool.and_eq_true, beq_iff_eq] at good
  exact good.1

section

variable {s : State} {h : Hdr} {d a b c : Reg} {scope : BitVec 3}
  (atom : AtomReady s h d a b c 2 0 fun l => l.tier == 2 && l.write) (plain : s.objectWord (s.wordAt a) = false)
  (nobody : SMap.get s.sync.wait [] (s.wordAt a) = []) (aligned : (s.locAt (s.rg a).toNat).pa % 8 = 0)
include atom plain nobody aligned

theorem atomic_changesWord {i : Instr} {kind : AtomKind} {uns : Bool} {v : Word}
    (hi : exec i s = s.atomic h kind uns d a b c 2 0 scope)
    (hv : BitVec.ofNat 64 ((s.atomOp kind uns a b c 2).leaves (s.syncWord (s.wordAt a)).toNat) = v) :
    ChangesWord s i h d (s.wordAt a) v := by
  have tier := tier_of_acc atom.acc (by decide)
  obtain ⟨tlb, performs⟩ := atomic_performs (scope := scope) atom (fun _ => atXl_wrPr_pass (by decide)) (by simp [tier])
    (fun object => ne_true_of_eq_false plain object.2) kind uns
  have held : s.atomHeld 0 scope tlb (s.locAt (s.rg a).toNat) = s.holding tlb := by
    simp [State.atomHeld, State.atomOut, State.flushLoc, tier]
  obtain ⟨sync, jobs, order, stored, word, full⟩ := atomHome_word (s := s.holding tlb) (op := s.atomOp kind uns a b c 2)
    rfl aligned nobody
  have synced : Recounts s ((s.holding tlb).synced sync jobs order) := recounts_of_slots rfl rfl
  rw [held, tier] at performs
  have old : BitVec.ofNat 64 ((s.holding tlb).syncWord (s.wordAt a)).toNat = s.syncWord (s.wordAt a) :=
    (BitVec.ofNat_toNat 64 _).trans (BitVec.setWidth_eq _)
  have retired := retired_of_wrote (h := h) (synced.wrote.trans (wrote_wg _ d (s.syncWord (s.wordAt a))))
  refine ⟨_, (hi.trans (performs stored)).trans ?_, retired, word.trans hv, full, rfl, rfl⟩
  exact congrArg (fun x => Host.Outcome.next (State.retire (((s.holding tlb).synced sync jobs order).wg d x) h)) old

end

/-- Settles O39: the operation at the home on a whole word nobody waits for. -/
theorem atomicsOnSyncWords : Obligations.AtomicsOnSyncWords := by
  unfold Obligations.AtomicsOnSyncWords
  intro s h d a b c scope ready va key old aligned acc whole tags gives
  have cas : AtomReady s h d a b c 2 0 fun l => l.tier == 2 && l.write :=
    ⟨ready, aligned, acc, tags, fun release => absurd release (by decide)⟩
  have atom := cas.dropC
  refine ⟨fun object => ?_, fun plain nobody => ⟨?_, ?_, ?_⟩⟩
  · have tier := tier_of_acc acc (by decide)
    change execAadd h d a b 2 0 scope s = _
    exact atomic_objectWord atom (fun _ => atXl_wrPr_pass (by decide)) ⟨tier, object⟩ .add false
  · refine atomic_changesWord (i := .aadd h d a b 2 0 scope) atom plain nobody whole
      (show execAadd h d a b 2 0 scope s = _ from rfl) ?_
    change BitVec.ofNat 64 ((old.toNat + (s.rg b).toNat % 2 ^ 64) % 2 ^ 64) = old + s.rg b
    bv_omega
  · refine atomic_changesWord (i := .aswp h d a b 2 0 scope) atom plain nobody whole
      (show execAswp h d a b 2 0 scope s = _ from rfl) ?_
    change BitVec.ofNat 64 ((s.rg b).toNat % 2 ^ 64) = s.rg b
    bv_omega
  · refine atomic_changesWord (i := .acas h d a b 2 0 scope c) cas plain nobody whole
      (show execAcas h d a b 2 0 scope c s = _ from rfl) ?_
    change BitVec.ofNat 64 ((if old.toNat = (s.rg b).toNat % 2 ^ 64 then some ((s.rg c).toNat % 2 ^ 64) else none).getD old.toNat) = _
    by_cases same : old = s.rg b
    · rw [if_pos same, if_pos (by bv_omega)]
      change BitVec.ofNat 64 ((s.rg c).toNat % 2 ^ 64) = s.rg c
      bv_omega
    · rw [if_neg same, if_neg (by bv_omega)]
      change BitVec.ofNat 64 old.toNat = old
      bv_omega

end Sys2Proof

/-! The proof of O38. Atomics on module memory: the lines that move home before the operation and leave after it (R124, R183). -/

namespace Sys2Proof

open Machine

section

variable {core : Nat} {stored : Loc → Prop}

theorem moves_holding (core : Nat) (stored : Loc → Prop) (s : State) (tlb : SMap (Option Leaf)) :
    CacheMoves core stored s (s.holding tlb) :=
  ⟨⟨rfl, fun _ _ => rfl, rfl, fun _ => rfl⟩, linesMove_of_same rfl fun _ _ _ => rfl⟩

theorem moves_storing (core : Nat) {s : State} {mem : Memory}
    (home : ∀ l : Loc, ¬ stored l → (s.storing mem).homeByte l = s.homeByte l) : CacheMoves core stored s (s.storing mem) :=
  ⟨⟨rfl, fun _ _ => rfl, rfl, fun _ => rfl⟩, linesMove_of_same rfl fun l _ => home l⟩

theorem moves_flushLoc (stored : Loc → Prop) (s : State) (slot : Nat) (l : Loc) :
    CacheMoves (coreOf slot) stored s (s.flushLoc slot l) := by
  unfold State.flushLoc
  split
  · exact moves_invalidate _ stored s _
  · exact CacheMoves.refl _ stored s

/-- The line an atomic goes to is dirty in its core no more. -/
theorem flushLoc_clean (s : State) (slot : Nat) {l : Loc} (memory : l.tier < 2) :
    ¬ ((s.flushLoc slot l).lineAt (coreOf slot) (lineKey l)).dirty = true := by
  unfold State.flushLoc
  cases held : s.hasLine (coreOf slot) (lineKey l) with
  | true =>
    rw [if_pos (by simp [memory]), lineAt_invalidate, if_pos rfl]
    decide
  | false =>
    have nothing : s.lineAt (coreOf slot) (lineKey l) = {} := by
      by_contra line
      rw [(hasLine_iff s _ _).2 line] at held
      cases held
    rw [if_neg (by simp), nothing]
    decide

theorem moves_atomOut (stored : Loc → Prop) (s : State) (ord : BitVec 2) (scope : BitVec 3) :
    CacheMoves (coreOf s.cur.slot) stored s (s.atomOut ord scope) := by
  unfold State.atomOut
  split
  · exact moves_releaseCache stored s _ _ _
  · exact CacheMoves.refl _ stored s

theorem moves_atomIn (stored : Loc → Prop) (s : State) (slot : Nat) (ord : BitVec 2) (scope : BitVec 3) :
    CacheMoves (coreOf slot) stored s (s.atomIn slot ord scope) := by
  unfold State.atomIn
  split
  · exact moves_acquireCache stored s _ _ _
  · exact CacheMoves.refl _ stored s

theorem moves_atomHeld (stored : Loc → Prop) (s : State) (ord : BitVec 2) (scope : BitVec 3) (tlb : SMap (Option Leaf)) (l : Loc) :
    CacheMoves (coreOf s.cur.slot) stored s (s.atomHeld ord scope tlb l) :=
  ((moves_atomOut stored s ord scope).trans (moves_holding _ stored _ tlb)).trans (moves_flushLoc stored _ s.cur.slot l)

/-- An instruction whose body moves lines, writes a register, and moves lines again. -/
theorem CacheMoves.wg_retires {s w y : State} {h : Hdr} {d : Reg} {v : Word} (before : CacheMoves (coreOf s.cur.slot) stored s w)
    (after : CacheMoves (coreOf s.cur.slot) stored (w.wg d v) y) :
    Retired s (y.retire h) h s.cur.next (some (d, v)) none ∧ MemFrame s (y.retire h) stored := by
  have cur : y.cur = s.cur := after.cur.trans before.cur
  have slot : (w.wg d v).cur.slot = s.cur.slot := congrArg Cur.slot before.cur
  have writes : OnlyIssuer w (w.wg d v) := onlyIssuer_updSeq w fun q => q.wr d v
  have retires : OnlyIssuer y (y.retire h) := retire_slotAs h (onlyIssuer_refl y) rfl rfl
  have retired := retired_of_wrote (h := h) ((before.recounts.wrote.trans (wrote_wg w d v)).andThen after.recounts.wrote)
  rw [cur] at retired
  refine ⟨retired, AccessFrame.memFrame ?_ ?_⟩
  · have back : AccessFrame (w.wg d v) y := CacheFrame.access (slot.symm ▸ after.toCacheFrame)
    exact (before.access.trans (writes.access rfl rfl)).trans (back.trans (retires.access rfl rfl))
  · exact (before.toLinesMove.trans (writes.package.linesMove _ stored)).trans
      (after.toLinesMove.trans (retires.package.linesMove _ stored))

end

/-- The instruction writes the old value of a cell of module memory to a register and leaves the value `v` there; every other byte of
memory stays but for write-backs. -/
def LeavesCell (s : State) (i : Instr) (h : Hdr) (d : Reg) (pa n old v : Nat) : Prop :=
  ∃ t : State, exec i s = .next t ∧ Retired s t h s.cur.next (some (d, BitVec.ofNat 64 old)) none ∧ t.rdPhys pa n = v ∧
    MemFrame s t (fun m => m.tier = 0 ∧ pa ≤ m.pa ∧ m.pa < pa + n)

/-- What a cell holds at home once a dirty line of the core in issue is written back (R124). -/
def Machine.State.cellAt (s : State) (va n : Nat) : Nat :=
  leNat ((List.range n).map fun i =>
    if (s.lineAt (coreOf s.cur.slot) (lineKey (s.locAt va))).dirty then s.viewByte (coreOf s.cur.slot) (s.locAt (va + i))
    else s.homeByte (s.locAt (va + i)))

/-- The bytes of a cell of module memory stand in a row in one line. -/
structure CellInLine (s : State) (va n : Nat) : Prop where
  locs : ∀ i, i < n → s.locAt (va + i) = ⟨0, 0, (s.locAt va).pa + i⟩
  line : (s.locAt va).pa % 128 + n ≤ 128

section

variable {s : State} {va n : Nat}

theorem CellInLine.tier (cell : CellInLine s va n) (hn : 0 < n) : (s.locAt va).tier = 0 := by
  have first := cell.locs 0 hn
  rw [Nat.add_zero] at first
  rw [first]

theorem CellInLine.key (cell : CellInLine s va n) {i : Nat} (hi : i < n) :
    lineKey ⟨0, 0, (s.locAt va).pa + i⟩ = lineKey (s.locAt va) := by
  have line := cell.line
  unfold lineKey
  rw [cell.tier (by omega)]
  dsimp only
  omega

theorem rdPhys_congr {t u : State} {pa n : Nat} (h : ∀ i, i < n → t.homeByte ⟨0, 0, pa + i⟩ = u.homeByte ⟨0, 0, pa + i⟩) :
    t.rdPhys pa n = u.rdPhys pa n := by
  rw [rdPhys_eq_homeBytes, rdPhys_eq_homeBytes]
  exact congrArg leNat (List.map_congr_left fun i hi => h i (List.mem_range.1 hi))

/-- Once its line has moved home, a cell reads there what it held. -/
theorem CellInLine.reads (cell : CellInLine s va n) {u : State} (moves : CacheMoves (coreOf s.cur.slot) (fun _ => False) s u)
    (clean : ¬ (u.lineAt (coreOf s.cur.slot) (lineKey (s.locAt va))).dirty = true) :
    u.rdPhys (s.locAt va).pa n = s.cellAt va n := by
  rw [rdPhys_eq_homeBytes]
  refine congrArg leNat (List.map_congr_left fun i hi => ?_)
  have within := List.mem_range.1 hi
  rw [cell.locs i within, moves.bytes _ Nat.two_pos not_false, cell.key within]
  simp only [clean, Bool.false_eq_true, not_false_eq_true, and_true]

/-- What moves lines but not the cell's leaves the cell. -/
theorem CellInLine.keeps (cell : CellInLine s va n) {w y : State} {core : Nat} (moves : CacheMoves core (fun _ => False) w y)
    (clean : ¬ (w.lineAt core (lineKey (s.locAt va))).dirty = true) :
    y.rdPhys (s.locAt va).pa n = w.rdPhys (s.locAt va).pa n :=
  rdPhys_congr fun _ hi => (moves.bytes _ Nat.two_pos not_false).trans (if_neg fun moved => clean (cell.key hi ▸ moved.1))

end

section

variable {s : State} {h : Hdr} {d a b c : Reg} {sz ord : BitVec 2} {scope : BitVec 3}

theorem atomBytes_sized (sz : BitVec 2) : atomBytes sz = 2 ∨ 4 ≤ atomBytes sz := by
  revert sz
  decide

theorem atomic_leavesCell {i : Instr} {kind : AtomKind} {uns : Bool} {v : Nat}
    (atom : AtomReady s h d a b c sz ord fun l => l.tier == 0 && l.write)
    (cell : CellInLine s (s.rg a).toNat (atomBytes sz)) (hi : exec i s = s.atomic h kind uns d a b c sz ord scope)
    (hv : (s.atomOp kind uns a b c sz).leaves (s.cellAt (s.rg a).toNat (atomBytes sz)) = v) :
    LeavesCell s i h d (s.locAt (s.rg a).toNat).pa (atomBytes sz) (s.cellAt (s.rg a).toNat (atomBytes sz)) v := by
  have tier := cell.tier (Nat.two_pow_pos _)
  let core := coreOf s.cur.slot
  let l := s.locAt (s.rg a).toNat
  let n := atomBytes sz
  obtain ⟨tlb, performs⟩ := atomic_performs (scope := scope) atom (fun _ => atXl_wrPr_pass (by decide)) (by simp [tier])
    (by simp [tier]) kind uns
  let u := s.atomHeld ord scope tlb l
  have home : CacheMoves core (fun _ => False) s u := moves_atomHeld _ s ord scope tlb l
  have clean : ¬ (u.lineAt core (lineKey l)).dirty = true := flushLoc_clean _ _ (by simp [l, tier])
  have old : u.rdPhys l.pa n = s.cellAt (s.rg a).toNat n := cell.reads home clean
  obtain ⟨mem, changed, new, others⟩ := atomHome_memory u (tier := l.tier) (op := s.atomOp kind uns a b c sz) (by simp [l, tier])
    (atomBytes_sized sz)
  let w := u.storing mem
  let x := w.wg d (BitVec.ofNat 64 (u.rdPhys l.pa n))
  have stores : CacheMoves core (fun m => m.tier = 0 ∧ l.pa ≤ m.pa ∧ m.pa < l.pa + n) u w := moves_storing core others
  have kept : (x.atomIn s.cur.slot ord scope).rdPhys l.pa n = x.rdPhys l.pa n := cell.keeps (moves_atomIn _ x _ ord scope) clean
  obtain ⟨retired, frame⟩ := CacheMoves.wg_retires (h := h) ((moves_atomHeld _ s ord scope tlb l).trans stores)
    (moves_atomIn _ x s.cur.slot ord scope)
  refine ⟨_, hi.trans (performs changed), old ▸ retired, kept.trans (new.trans ?_), frame⟩
  rw [← hv]
  exact congrArg _ old

theorem sgn_of_lt {w v : Nat} (h : v < 2 ^ w) : sgn w v = if v < 2 ^ (w - 1) then (v : Int) else (v : Int) - 2 ^ w := by
  unfold sgn
  rw [Nat.mod_eq_of_lt h]
  push_cast
  rfl

end

/-- Settles O38: the lines of the core move home, the operation changes the cell there, and lines move again. -/
theorem atomicsAtHome : Obligations.AtomicsAtHome := by
  unfold Obligations.AtomicsAtHome
  intro s h d a b c sz ord scope uns ready _ n w va l core aligned acc locs line tags copies old y z sg less gives
  have cas : AtomReady s h d a b c sz ord fun l => l.tier == 0 && l.write := ⟨ready, aligned, acc, tags, copies⟩
  have atom := cas.dropC
  have cell : CellInLine s va n := ⟨locs, line⟩
  have leaves {i : Instr} {kind : AtomKind} {uns : Bool} {v : Nat} (hi : exec i s = s.atomic h kind uns d a b 0 sz ord scope)
      (hv : (s.atomOp kind uns a b 0 sz).leaves old = v) : gives i v := atomic_leavesCell atom cell hi hv
  have chooses : (if uns then decide (y < old) else decide (sgn w y < sgn w old)) = less := by
    have hold : old < 2 ^ w := leNat_map_range_lt _ n
    have hy : y < 2 ^ w := Nat.mod_lt _ (Nat.two_pow_pos w)
    rw [sgn_of_lt hy, sgn_of_lt hold]
  refine ⟨leaves (show execAadd h d a b sz ord scope s = _ from rfl) rfl,
    fun _ => leaves (show execAfadd h d a b sz ord scope s = _ from rfl) rfl,
    leaves (show execAmin h d a b sz ord scope uns s = _ from rfl) (congrArg (fun p : Bool => if p then y else old) chooses),
    leaves (show execAmax h d a b sz ord scope uns s = _ from rfl) (congrArg (fun p : Bool => if p then old else y) chooses),
    leaves (show execAand h d a b sz ord scope s = _ from rfl) rfl,
    leaves (show execAor h d a b sz ord scope s = _ from rfl) rfl,
    leaves (show execAxor h d a b sz ord scope s = _ from rfl) rfl,
    leaves (show execAswp h d a b sz ord scope s = _ from rfl) rfl,
    atomic_leavesCell cas cell (show execAcas h d a b sz ord scope c s = _ from rfl) ?_⟩
  change (if old = y then some z else none).getD old = _
  split <;> rfl

end Sys2Proof

/-! The proof of O2. The header and the token syllable as the encoder writes them and the decoder reads them, each row of the opcode
map, and the instructions. -/

namespace Sys2Proof

/-! ### Fields of a syllable (R132) -/

@[simp] theorem fld_eq_iff {w p k : Nat} {d : BitVec k} : fld w p k = d ↔ w / p % 2 ^ k = d.toNat := by
  rw [fld, ← BitVec.toNat_inj, BitVec.toNat_ofNat]

@[simp] theorem flag_eq_iff {w p : Nat} {b : Bool} : flag w p = b ↔ w / p % 2 = b.toNat := by
  unfold flag
  have := Nat.mod_lt (w / p) Nat.two_pos
  cases b <;> simp

@[simp] theorem zero_eq_true_iff {w p q : Nat} : zero w p q = true ↔ w / p % q = 0 := by simp [zero]

/-- What lies above a field does not show in it. -/
theorem add_mul_field {u y c p q : Nat} (h : c % (p * q) = 0) : (u + y * c) / p % q = u / p % q := by
  rw [← Nat.mod_mul_right_div_self, Nat.add_mod, Nat.mul_mod, h, Nat.mul_zero, Nat.zero_mod, Nat.add_zero, Nat.mod_mod,
    Nat.mod_mul_right_div_self]

theorem mul_field {y c p q : Nat} (h : c % (p * q) = 0) : y * c / p % q = 0 := by
  simpa using add_mul_field (u := 0) (y := y) h

/-- What lies below a field does not carry into it. -/
theorem add_div_of_lt {u v p : Nat} (h : u % p + v < p) : (u + v) / p = u / p := by
  conv_lhs => rw [← Nat.div_add_mod u p, Nat.add_assoc, Nat.mul_add_div (by omega), Nat.div_eq_of_lt h, Nat.add_zero]

/-! ### The header syllable (R133) -/

/-- A field of the format bits [20:0] is a field of what the header holds there. -/
theorem field_of_format {w f p q : Nat} (e : w % 0x200000 = f) (h : 0x200000 % (p * q) = 0) : w / p % q = f / p % q := by
  rw [← Nat.mod_mul_right_div_self, ← Nat.mod_mul_right_div_self f, ← e, Nat.mod_mod_of_dvd _ (Nat.dvd_of_mod_eq_zero h)]

section

variable {hd : Hdr} {len maj f : Nat} (hf : f < 0x200000) (hm : maj < 128)
include hf hm

theorem hdrWord_major : hdrWord hd len maj f / 0x200000 % 128 = maj := by
  unfold hdrWord
  omega

omit hm in
theorem hdrWord_format : hdrWord hd len maj f % 0x200000 = f := by
  unfold hdrWord
  omega

theorem hdrWord_token : flag (hdrWord hd len maj f) 0x10000000 = hd.tok.isSome := by
  have := hd.tok.isSome.toNat_le
  rw [flag_eq_iff, hdrWord]
  omega

variable (hl : len < 4)
include hl

theorem hdrWord_len : hdrWord hd len maj f / 0x20000000 % 4 = len := by
  have := hd.tok.isSome.toNat_le
  unfold hdrWord
  omega

theorem hdrWord_stop : flag (hdrWord hd len maj f) 0x80000000 = hd.stop := by
  have := hd.tok.isSome.toNat_le
  have := hd.stop.toNat_le
  rw [flag_eq_iff, hdrWord]
  omega

end

/-! ### The token syllable (R134) -/

theorem tokOf_tokWord (t : Tok) :
    tokOf (t.wait.toNat * 0x1000000 + t.sig.toNat * 0x10000 + t.itag.toNat * 0x100 + t.mod.toNat) = t := by
  obtain ⟨w, s, i, m⟩ := t
  simp only [tokOf, Tok.mk.injEq, fld_eq_iff]
  omega

theorem tokWords_read (hd : Hdr) : (if hd.tok.isSome = true then some (tokOf ((tokWords hd).headD 0)) else none) = hd.tok := by
  obtain ⟨stop, _ | t⟩ := hd
  · rfl
  · simp [tokWords, tokOf_tokWord]

/-! ### Rows of the opcode map -/

/-- Which table reads a header (R141). -/
theorem parse_of_major (h x y : Nat) (hd : Hdr) :
    (h / 0x200000 % 128 = 0x1 → parse h x y hd = parse01 h hd) ∧ (h / 0x200000 % 128 = 0x2 → parse h x y hd = parse02 h hd) ∧
    (h / 0x200000 % 128 = 0x3 → parse h x y hd = parse03 h hd) ∧ (h / 0x200000 % 128 = 0x4 → parse h x y hd = parse04 h hd) ∧
    (h / 0x200000 % 128 = 0x5 → parse h x y hd = parse05 h hd) ∧ (h / 0x200000 % 128 = 0x6 → parse h x y hd = parse06 h hd) ∧
    (h / 0x200000 % 128 = 0x7 → parse h x y hd = parse07 h hd) ∧ (h / 0x200000 % 128 = 0x8 → parse h x y hd = parse08 h hd) ∧
    (h / 0x200000 % 128 = 0x9 → parse h x y hd = parse09 h hd) ∧ (h / 0x200000 % 128 = 0xa → parse h x y hd = parse0A h hd) ∧
    (h / 0x200000 % 128 = 0xb → parse h x y hd = parse0B h x y hd) ∧ (h / 0x200000 % 128 = 0x10 → parse h x y hd = parse10 h hd) ∧
    (h / 0x200000 % 128 = 0x11 → parse h x y hd = parse11 h hd) ∧ (h / 0x200000 % 128 = 0x12 → parse h x y hd = parse12 h hd) ∧
    (h / 0x200000 % 128 = 0x13 → parse h x y hd = parse13 h x hd) ∧ (h / 0x200000 % 128 = 0x14 → parse h x y hd = parse14 h hd) ∧
    (h / 0x200000 % 128 = 0x15 → parse h x y hd = parse15 h hd) ∧ (h / 0x200000 % 128 = 0x16 → parse h x y hd = parse16 h x hd) ∧
    (h / 0x200000 % 128 = 0x18 → parse h x y hd = parse18 h hd) ∧ (h / 0x200000 % 128 = 0x19 → parse h x y hd = parse19 h x hd) ∧
    (h / 0x200000 % 128 = 0x1a → parse h x y hd = parse1A h x hd) ∧ (h / 0x200000 % 128 = 0x1b → parse h x y hd = parse1B h hd) ∧
    (h / 0x200000 % 128 = 0x20 → parse h x y hd = parse20 h hd) ∧ (h / 0x200000 % 128 = 0x21 → parse h x y hd = parse21 h hd) ∧
    (h / 0x200000 % 128 = 0x22 → parse h x y hd = parse22 h x hd) ∧ (h / 0x200000 % 128 = 0x23 → parse h x y hd = parse23 h hd) ∧
    (h / 0x200000 % 128 = 0x24 → parse h x y hd = parse24 h x hd) ∧ (h / 0x200000 % 128 = 0x25 → parse h x y hd = parse25 h x hd) ∧
    (h / 0x200000 % 128 = 0x26 → parse h x y hd = parse26 h hd) ∧ (h / 0x200000 % 128 = 0x27 → parse h x y hd = parse27 h hd) ∧
    (h / 0x200000 % 128 = 0x28 → parse h x y hd = parse28 h hd) ∧ (h / 0x200000 % 128 = 0x29 → parse h x y hd = parse29 h hd) ∧
    (h / 0x200000 % 128 = 0x30 → parse h x y hd = parse30 h x y hd) ∧ (h / 0x200000 % 128 = 0x31 → parse h x y hd = parse31 h x hd) ∧
    (h / 0x200000 % 128 = 0x32 → parse h x y hd = parse32 h x hd) ∧ (h / 0x200000 % 128 = 0x33 → parse h x y hd = parse33 h hd) ∧
    (h / 0x200000 % 128 = 0x34 → parse h x y hd = parse34 h hd) ∧ (h / 0x200000 % 128 = 0x35 → parse h x y hd = parse35 h hd) ∧
    (h / 0x200000 % 128 = 0x36 → parse h x y hd = parse36 h x hd) ∧ (h / 0x200000 % 128 = 0x37 → parse h x y hd = parse37 h x hd) ∧
    (h / 0x200000 % 128 = 0x38 → parse h x y hd = parse38 h hd) ∧ (h / 0x200000 % 128 = 0x39 → parse h x y hd = parse39 h hd) ∧
    (h / 0x200000 % 128 = 0x3a → parse h x y hd = parse3A h hd) ∧ (h / 0x200000 % 128 = 0x3b → parse h x y hd = parse3B h hd) ∧
    (h / 0x200000 % 128 = 0x40 → parse h x y hd = parse40 h hd) ∧ (h / 0x200000 % 128 = 0x41 → parse h x y hd = parse41 h hd) ∧
    (h / 0x200000 % 128 = 0x42 → parse h x y hd = parse42 h hd) ∧ (h / 0x200000 % 128 = 0x43 → parse h x y hd = parse43 h hd) ∧
    (h / 0x200000 % 128 = 0x44 → parse h x y hd = parse44 h x hd) ∧ (h / 0x200000 % 128 = 0x45 → parse h x y hd = parse45 h hd) ∧
    (h / 0x200000 % 128 = 0x46 → parse h x y hd = parse46 h x y hd) ∧ (h / 0x200000 % 128 = 0x47 → parse h x y hd = parse47 h hd) ∧
    (h / 0x200000 % 128 = 0x50 → parse h x y hd = parse50 h hd) ∧ (h / 0x200000 % 128 = 0x51 → parse h x y hd = parse51 h hd) ∧
    (h / 0x200000 % 128 = 0x52 → parse h x y hd = parse52 h hd) ∧ (h / 0x200000 % 128 = 0x53 → parse h x y hd = parse53 h hd) ∧
    (h / 0x200000 % 128 = 0x54 → parse h x y hd = parse54 h hd) ∧ (h / 0x200000 % 128 = 0x55 → parse h x y hd = parse55 h x hd) ∧
    (h / 0x200000 % 128 = 0x56 → parse h x y hd = parse56 h hd) ∧ (h / 0x200000 % 128 = 0x57 → parse h x y hd = parse57 h x hd) ∧
    (h / 0x200000 % 128 = 0x58 → parse h x y hd = parse58 h x hd) ∧ (h / 0x200000 % 128 = 0x59 → parse h x y hd = parse59 h x hd) ∧
    (h / 0x200000 % 128 = 0x5a → parse h x y hd = parse5A h hd) ∧ (h / 0x200000 % 128 = 0x5b → parse h x y hd = parse5B h hd) ∧
    (h / 0x200000 % 128 = 0x5c → parse h x y hd = parse5C h x hd) ∧ (h / 0x200000 % 128 = 0x5d → parse h x y hd = parse5D h x hd) ∧
    (h / 0x200000 % 128 = 0x5e → parse h x y hd = parse5E h hd) ∧ (h / 0x200000 % 128 = 0x5f → parse h x y hd = parse5F h hd) ∧
    (h / 0x200000 % 128 = 0x60 → parse h x y hd = parse60 h hd) := by
  and_intros
  all_goals
    intro major
    rw [parse, major]
    rfl

/-- `P` of the first two extension syllables, as the decoder reads them: 0 where there is none. -/
def ReadExt (P : Nat → Nat → Prop) : List Nat → Prop
  | [] => P 0 0
  | [x] => P x 0
  | x :: y :: _ => P x y

theorem readExt_iff (P : Nat → Nat → Prop) (ext : List Nat) : ReadExt P ext ↔ P (ext.headD 0) (ext.tail.headD 0) := by
  match ext with
  | [] => rfl
  | [_] => rfl
  | _ :: _ :: _ => rfl

/-- The encoder writes `i` as a header of `len` extension syllables, with major `maj` and format bits `f`, those syllables, and the
token syllable; and the tables read such a header and those syllables as `i`, with no reserved bit set. -/
def ReadsBack (i : Instr) : Prop :=
  ∃ hd len maj f ext, encode i = hdrWord hd len maj f :: ext ++ tokWords hd ∧ i.hdr? = some hd ∧ i.info.len = len ∧
    ext.length = len ∧ len < 3 ∧ maj < 128 ∧ f < 0x200000 ∧
    ∀ w, w / 0x200000 % 128 = maj → w % 0x200000 = f → ReadExt (fun x y => parse w x y hd = .ok i true true true) ext

/-- Where the decoder finds the syllables it reads, behind a header of `ext.length` extension syllables. -/
theorem decode_ext (h : Nat) (ext tok : List Nat) (n : Nat) (hn : ext.length = n) (h3 : n < 3) :
    (if 1 ≤ n then (h :: ext ++ tok).getD 1 0 else 0) = ext.headD 0 ∧
    (if 2 ≤ n then (h :: ext ++ tok).getD 2 0 else 0) = ext.tail.headD 0 ∧
    (h :: ext ++ tok).getD (n + 1) 0 = tok.headD 0 := by
  subst hn
  match ext, h3 with
  | [], _ => cases tok <;> simp
  | [x], _ => cases tok <;> simp
  | [x, y], _ => cases tok <;> simp

/-- The decoder, on what the encoder writes, is the checks of R147 that follow the tables. -/
theorem decode_hdrWord {hd : Hdr} {len maj f : Nat} (hf : f < 0x200000) (hm : maj < 128) {ext : List Nat} (hl : ext.length = len)
    (h3 : len < 3) (st : Option Stream) :
    decode st (hdrWord hd len maj f :: ext ++ tokWords hd) = checkParsed st maj len hd.tok.isSome
      (parse (hdrWord hd len maj f) (ext.headD 0) (ext.tail.headD 0) hd) := by
  have length : (hdrWord hd len maj f :: ext ++ tokWords hd).length = len + 1 + hd.tok.isSome.toNat := by
    simp [Laws.length_tokWords, hl, Nat.add_right_comm]
  obtain ⟨hx, hy, ht⟩ := decode_ext (hdrWord hd len maj f) ext (tokWords hd) _ hl h3
  have not3 : (len == 3) = false := by simp; omega
  have head : (hdrWord hd len maj f :: ext ++ tokWords hd).headD 0 = hdrWord hd len maj f := rfl
  simp only [decode, head, length, hdrWord_len hf hm (show len < 4 by omega), hdrWord_token hf hm, hdrWord_major hf hm,
    hdrWord_stop hf hm (show len < 4 by omega), hx, hy, ht, tokWords_read, not3, Nat.lt_irrefl, if_false, Bool.false_eq_true]

/-- The checks of R147 that follow the tables find nothing in a well-formed instruction whose reserved bits are zero. -/
theorem checkParsed_of_wellFormed {i : Instr} (w : WellFormed i) {hd : Hdr} (hh : i.hdr? = some hd) (maj : Nat) :
    checkParsed none maj i.info.len hd.tok.isSome (.ok i true true true) = .ok i (i.info.len + 1 + hd.tok.isSome.toNat) := by
  simp only [WellFormed, Instr.wf, Instr.operandOk, Bool.and_eq_true, Option.isNone_iff_eq_none] at w
  obtain ⟨⟨minor, operands⟩, token⟩ := w
  have allowed : (hd.tok.isSome && !i.info.tok) = false := by
    unfold Instr.tokenOk at token
    cases ht : hd.tok <;> simp_all
  simp [checkParsed, Instr.inStream, minor, token, allowed, firstReserved, firstBad, operands]

theorem decode_of_readsBack {i : Instr} (w : WellFormed i) (hr : ReadsBack i) :
    decode none (encode i) = .ok i (encode i).length := by
  obtain ⟨hd, len, maj, f, ext, he, hh, rfl, hl, h3, hm, hf, hp⟩ := hr
  have length : (encode i).length = i.info.len + 1 + hd.tok.isSome.toNat := by
    rw [he, Laws.length_row _ _ ext.length (by simp [Nat.add_comm]), hl, Nat.add_comm 1]
  rw [length, he, decode_hdrWord hf hm hl h3, (readExt_iff _ _).1 (hp _ (hdrWord_major hf hm) (hdrWord_format hf))]
  exact checkParsed_of_wellFormed w hh maj

/-- Arithmetic, R152. -/
theorem readsBack_arith (h : Hdr) (d a b : Reg := 0) {i : Instr}
    (mem : i ∈ [Instr.add h d a b, .sub h d a b, .mul h d a b, .mulh h d a b, .mulhu h d a b, .div h d a b, .divu h d a b,
      .rem h d a b, .remu h d a b, .and h d a b, .or h d a b, .xor h d a b, .andn h d a b, .shl h d a b, .shr h d a b,
      .sar h d a b, .rot h d a b, .min h d a b, .max h d a b, .minu h d a b, .maxu h d a b]) : ReadsBack i := by
  revert i
  simp only [List.forall_mem_cons, List.not_mem_nil, IsEmpty.forall_iff, implies_true, and_true]
  and_intros
  all_goals
    refine ⟨h, _, _, _, _, rfl, rfl, rfl, rfl, by decide, by decide, by omega, fun w major format => ?_⟩
    simp only [ReadExt, parse_of_major, major]
    simp (disch := omega) only [parse01, field_of_format format, add_mul_field, mul_field, Nat.reduceMod, Nat.reduceDiv]
    simp
    omega

/-- Immediate forms, R153 to R155. -/
theorem readsBack_immediate (h : Hdr) (d a : Reg := 0) (imm : BitVec 11 := 0) (n : BitVec 6 := 0) (p : PReg := 0)
    (c : BitVec 4 := 0) (imm7 : BitVec 7 := 0) {i : Instr}
    (mem : i ∈ [Instr.addi h d a imm, .andi h d a imm, .ori h d a imm, .xori h d a imm, .shli h d a n, .shri h d a n,
      .sari h d a n, .roti h d a n, .cmpi h p a c imm7]) : ReadsBack i := by
  revert i
  simp only [List.forall_mem_cons, List.not_mem_nil, IsEmpty.forall_iff, implies_true, and_true]
  and_intros
  all_goals
    refine ⟨h, _, _, _, _, rfl, rfl, rfl, rfl, by decide, by decide, by omega, fun w major format => ?_⟩
    simp only [ReadExt, parse_of_major, major]
    simp (disch := omega) only [parse02, parse03, parse04, parse05, parse06, parse07, field_of_format format, add_mul_field,
      mul_field, add_div_of_lt, Nat.reduceMod, Nat.reduceDiv]
    simp
    omega

/-- Bit fields, comparisons and predicates, R155 to R157. -/
theorem readsBack_bits (h : Hdr) (d a b : Reg := 0) (k : BitVec 5 := 0) (p pd pa pb : PReg := 0) (c6 : BitVec 6 := 0)
    {i : Instr}
    (mem : i ∈ [Instr.clz h d a, .popc h d a, .sext h d a k, .zext h d a k, .bfx h d a b, .bfi h d a b, .cmp h p c6 a b,
      .pand h pd pa pb, .por h pd pa pb, .pxor h pd pa pb, .pnot h pd pa, .pmov h pd pa]) : ReadsBack i := by
  revert i
  simp only [List.forall_mem_cons, List.not_mem_nil, IsEmpty.forall_iff, implies_true, and_true]
  and_intros
  all_goals
    refine ⟨h, _, _, _, _, rfl, rfl, rfl, rfl, by decide, by decide, by omega, fun w major format => ?_⟩
    simp only [ReadExt, parse_of_major, major]
    simp (disch := omega) only [parse08, parse09, parse0A, field_of_format format, add_mul_field, mul_field, Nat.reduceMod,
      Nat.reduceDiv]
    simp
    omega

/-- Branches and the queues between the sequencers, R159 to R163, R268. -/
theorem readsBack_branch (h : Hdr) (p : PReg := 0) (neg : Bool := false) (off : BitVec 13 := 0) (syl : BitVec 4 := 0)
    (a d : Reg := 0) {i : Instr}
    (mem : i ∈ [Instr.br h p neg off syl, .brl h p neg off syl, .jmpr h a, .call h d a, .ret h a, .dqpush h a, .dqpop h d,
      .bqpush h p, .brq h p neg off syl, .brmz h neg off syl]) : ReadsBack i := by
  have := neg.toNat_le
  revert i
  simp only [List.forall_mem_cons, List.not_mem_nil, IsEmpty.forall_iff, implies_true, and_true]
  and_intros
  all_goals
    refine ⟨h, _, _, _, _, rfl, rfl, rfl, rfl, by decide, by decide, by omega, fun w major format => ?_⟩
    simp only [ReadExt, parse_of_major, major]
    simp (disch := omega) only [parse10, parse11, parse12, parse14, parse15, parse60, field_of_format format, add_mul_field,
      mul_field, Nat.reduceMod, Nat.reduceDiv]
    simp
    omega

/-- Constants, loops, task control, traps and system registers, R158, R161, R164 to R175. -/
theorem readsBack_control (h : Hdr) (g c reg d a : Reg := 0) (lo hi keep : BitVec 32 := 0) (off : BitVec 13 := 0)
    (syl kind : BitVec 4 := 0) (dropt : Bool := false) (tag : BitVec 8 := 0) (code : BitVec 16 := 0)
    (idx : BitVec 12 := 0) (acc : BitVec 6 := 0) {i : Instr}
    (mem : i ∈ [Instr.li h g lo hi, .loop h c off syl, .fork h off syl, .rdv h, .exit h, .yield h dropt keep,
      .await h kind reg, .nop h, .qcancel h d tag, .trap h code, .eret h, .brk h code, .sysrd h d idx, .syswr h a idx,
      .shape h d a acc]) : ReadsBack i := by
  have := dropt.toNat_le
  revert i
  simp only [List.forall_mem_cons, List.not_mem_nil, IsEmpty.forall_iff, implies_true, and_true]
  and_intros
  all_goals
    refine ⟨h, _, _, _, _, rfl, rfl, rfl, rfl, by decide, by decide, by omega, fun w major format => ?_⟩
    simp only [ReadExt, parse_of_major, major]
    simp (disch := omega) only [parse0B, parse13, parse16, parse18, parse19, parse1A, parse1B, field_of_format format,
      add_div_of_lt, Nat.div_eq_of_lt, Nat.reduceMod, Nat.reduceDiv]
    simp
    omega

/-- Loads, stores and atomics, R180 to R183. -/
theorem readsBack_access (h : Hdr) (d b a c : Reg := 0) (z scope : BitVec 3 := 0) (o : BitVec 8 := 0)
    (sz ord : BitVec 2 := 0) (u : Bool := false) {i : Instr}
    (mem : i ∈ [Instr.ld h d b z o, .st h d b z o, .aadd h d a b sz ord scope, .afadd h d a b sz ord scope,
      .amin h d a b sz ord scope u, .amax h d a b sz ord scope u, .aand h d a b sz ord scope, .aor h d a b sz ord scope,
      .axor h d a b sz ord scope, .aswp h d a b sz ord scope, .acas h d a b sz ord scope c]) : ReadsBack i := by
  have := u.toNat_le
  revert i
  simp only [List.forall_mem_cons, List.not_mem_nil, IsEmpty.forall_iff, implies_true, and_true]
  and_intros
  all_goals
    refine ⟨h, _, _, _, _, rfl, rfl, rfl, rfl, by decide, by decide, by omega, fun w major format => ?_⟩
    simp only [ReadExt, parse_of_major, major]
    simp (disch := omega) only [parse20, parse21, parse22, field_of_format format, add_div_of_lt, Nat.div_eq_of_lt,
      Nat.reduceMod, Nat.reduceDiv]
    simp
    omega

/-- Synchronisation, fences, ranges, groups, rings and translations, R185 to R199. -/
theorem readsBack_sync (h : Hdr) (d a b e : Reg := 0) (scope eng : BitVec 3 := 0) (mask : BitVec 16 := 0)
    (n : BitVec 4 := 0) (kind lreg force : Bool := false) (len : BitVec 31 := 0) (p : PReg := 0) {i : Instr}
    (mem : i ∈ [Instr.sldf h d a scope, .sldw h d a scope, .sste h d a scope, .sstf h d a scope, .seclr h a, .fence h scope,
      .fencer h scope mask, .drain h eng, .rngbind h n a kind lreg len, .rngfree h n, .gjoin h d a, .gleave h d a,
      .gbar h d a scope, .rres h d a b, .rpub h e a b, .rtake h d a p, .rfree h e a, .xroute h d a b, .xinv h d a b force,
      .xpin h d a b, .xunpin h d a b]) : ReadsBack i := by
  have := kind.toNat_le
  have := lreg.toNat_le
  have := force.toNat_le
  revert i
  simp only [List.forall_mem_cons, List.not_mem_nil, IsEmpty.forall_iff, implies_true, and_true]
  and_intros
  all_goals
    refine ⟨h, _, _, _, _, rfl, rfl, rfl, rfl, by decide, by decide, by omega, fun w major format => ?_⟩
    simp only [ReadExt, parse_of_major, major]
    simp (disch := omega) only [parse23, parse24, parse25, parse26, parse27, parse28, parse29, field_of_format format,
      add_div_of_lt, Nat.div_eq_of_lt, Nat.reduceMod, Nat.reduceDiv]
    simp
    omega

/-- Fetches of tiles, R207, R208. -/
theorem readsBack_fetch (h : Hdr) (d t r c s u : Reg := 0) (len : BitVec 16 := 0) (cg : BitVec 3 := 0)
    (cgv disc rcmd : Bool := false) (mc : BitVec 4 := 0) {i : Instr}
    (mem : i ∈ [Instr.fetch h d t r len c s cg cgv disc rcmd u, .fetchT h d t r len c s cg cgv disc rcmd u,
      .fetchMc h d t r len c s cg cgv disc rcmd u mc, .fetchRf h d t r c cg cgv u]) : ReadsBack i := by
  have := cgv.toNat_le
  have := disc.toNat_le
  have := rcmd.toNat_le
  revert i
  simp only [List.forall_mem_cons, List.not_mem_nil, IsEmpty.forall_iff, implies_true, and_true]
  and_intros
  all_goals
    refine ⟨h, _, _, _, _, rfl, rfl, rfl, rfl, by decide, by decide, by omega, fun w major format => ?_⟩
    simp only [ReadExt, parse_of_major, major]
    simp (disch := omega) only [parse30, field_of_format format, add_div_of_lt, Nat.div_eq_of_lt, Nat.reduceMod, Nat.reduceDiv]
    simp
    omega

/-- Tiles and copy groups, R209 to R214. -/
theorem readsBack_tile (h : Hdr) (d t s r c hd u b a : Reg := 0) (disc cgv : Bool := false) (len : BitVec 16 := 0)
    (cg k sel : BitVec 3 := 0) {i : Instr}
    (mem : i ∈ [Instr.talloc h d t s disc len, .tstore h t r c hd u cg cgv, .tcon h hd, .trel h hd, .tadj h hd b,
      .tsettle h hd k, .tquery h d hd sel, .park h d a cg cgv, .unpark h d a cg cgv, .cgrp h cg, .cwait h cg])
      : ReadsBack i := by
  have := disc.toNat_le
  have := cgv.toNat_le
  revert i
  simp only [List.forall_mem_cons, List.not_mem_nil, IsEmpty.forall_iff, implies_true, and_true]
  and_intros
  all_goals
    refine ⟨h, _, _, _, _, rfl, rfl, rfl, rfl, by decide, by decide, by omega, fun w major format => ?_⟩
    simp only [ReadExt, parse_of_major, major]
    simp (disch := omega) only [parse31, parse32, parse33, parse34, parse35, field_of_format format, add_div_of_lt,
      Nat.div_eq_of_lt, Nat.reduceMod, Nat.reduceDiv]
    simp
    omega

/-- Copies, exchange, reductions and jobs, R215 to R226. -/
theorem readsBack_copy (h : Hdr) (d a n t l r m k b : Reg := 0) (cg sel : BitVec 3 := 0) (cgv : Bool := false)
    (len : BitVec 16 := 0) {i : Instr}
    (mem : i ∈ [Instr.ccopy h d a n cg cgv, .cgath h d t l len r m cg cgv, .cscat h d l r m cg cgv, .btnext h d k t,
      .dpost h a, .dcal h d a, .drun h cg cgv a b, .dstat h d a sel, .fred h a cg cgv, .jpost h d a b, .jwait h d a b])
      : ReadsBack i := by
  have := cgv.toNat_le
  revert i
  simp only [List.forall_mem_cons, List.not_mem_nil, IsEmpty.forall_iff, implies_true, and_true]
  and_intros
  all_goals
    refine ⟨h, _, _, _, _, rfl, rfl, rfl, rfl, by decide, by decide, by omega, fun w major format => ?_⟩
    simp only [ReadExt, parse_of_major, major]
    simp (disch := omega) only [parse36, parse37, parse38, parse39, parse3A, parse3B, field_of_format format, add_div_of_lt,
      Nat.div_eq_of_lt, Nat.reduceMod, Nat.reduceDiv]
    simp
    omega

/-- The matrix engine, R235 to R244. -/
theorem readsBack_matrix (h : Hdr) (fa fb fmt : BitVec 4 := 0) (sr k : BitVec 3 := 0) (n a b d e hd c : Reg := 0)
    (disc tb clr add half : Bool := false) (part : BitVec 2 := 0) (sigma slo shi : BitVec 32 := 0)
    (seed : BitVec 16 := 0) {i : Instr}
    (mem : i ∈ [Instr.mset h fa fb sr, .mzero h n disc, .mstart h, .mmul h a b n tb, .mmulc h d e b tb, .mrot h d e,
      .mdrain h hd n fmt part sigma, .mtopk h n c k clr, .mkat h seed slo shi, .macc h d e add, .mldacc h n hd half,
      .mstacc h n hd half]) : ReadsBack i := by
  have := disc.toNat_le
  have := tb.toNat_le
  have := clr.toNat_le
  have := add.toNat_le
  have := half.toNat_le
  revert i
  simp only [List.forall_mem_cons, List.not_mem_nil, IsEmpty.forall_iff, implies_true, and_true]
  and_intros
  all_goals
    refine ⟨h, _, _, _, _, rfl, rfl, rfl, rfl, by decide, by decide, by omega, fun w major format => ?_⟩
    simp only [ReadExt, parse_of_major, major]
    simp (disch := omega) only [parse40, parse41, parse42, parse43, parse44, parse45, parse46, parse47, field_of_format format,
      add_div_of_lt, Nat.div_eq_of_lt, Nat.reduceMod, Nat.reduceDiv]
    simp
    omega

/-- Floating-point lanes, R252 to R254. -/
theorem readsBack_float (h : Hdr) (d a b : Reg := 0) (k m c : BitVec 3 := 0) {i : Instr}
    (mem : i ∈ [Instr.vadd h d a b k, .vsub h d a b k, .vmul h d a b k, .vmin h d a b k, .vmax h d a b k, .vfma h d a b k,
      .vfmaN h d a b k, .vabs h d a k, .vneg h d a k, .vrcp h d a k, .vrsq h d a k, .vexp2 h d a k, .vlog2 h d a k,
      .vscale h d a b k, .vcmp h m c a b k, .vsel h d a b k]) : ReadsBack i := by
  revert i
  simp only [List.forall_mem_cons, List.not_mem_nil, IsEmpty.forall_iff, implies_true, and_true]
  and_intros
  all_goals
    refine ⟨h, _, _, _, _, rfl, rfl, rfl, rfl, by decide, by decide, by omega, fun w major format => ?_⟩
    simp only [ReadExt, parse_of_major, major]
    simp (disch := omega) only [parse50, parse51, parse52, parse53, parse54, field_of_format format, add_mul_field, mul_field,
      Nat.reduceMod, Nat.reduceDiv]
    simp
    omega

/-- Integer lanes, and lanes in tiles and registers, R255, R263 to R266. -/
theorem readsBack_integer (h : Hdr) (d a b hd c l : Reg := 0) (k : BitVec 3 := 0) (ew : BitVec 2 := 0)
    (u sat cons : Bool := false) {i : Instr}
    (mem : i ∈ [Instr.viadd h d a b k ew u sat, .visub h d a b k ew u sat, .vimul h d a b k ew u sat, .vshl h d a b k ew u,
      .vshr h d a b k ew u, .vsar h d a b k ew u, .vand h d a b k ew u, .vor h d a b k ew u, .vxor h d a b k ew u,
      .vld h d hd c cons k, .vldx h d hd b cons k, .vst h a hd c k, .vins h d a l, .vext h d a l u]) : ReadsBack i := by
  have := u.toNat_le
  have := sat.toNat_le
  have := cons.toNat_le
  revert i
  simp only [List.forall_mem_cons, List.not_mem_nil, IsEmpty.forall_iff, implies_true, and_true]
  and_intros
  all_goals
    refine ⟨h, _, _, _, _, rfl, rfl, rfl, rfl, by decide, by decide, by omega, fun w major format => ?_⟩
    simp only [ReadExt, parse_of_major, major]
    simp (disch := omega) only [parse55, parse5C, parse5D, parse5E, field_of_format format, add_div_of_lt, Nat.div_eq_of_lt,
      Nat.reduceMod, Nat.reduceDiv]
    simp
    omega

/-- Conversions, scans, permutations and the mask stack, R257 to R262, R267. -/
theorem readsBack_lanes (h : Hdr) (d a b : Reg := 0) (k o : BitVec 3 := 0) (fr tgt : BitVec 4 := 0)
    (iw : BitVec 2 := 0) (u aw sat : Bool := false) {i : Instr}
    (mem : i ∈ [Instr.vcvt h d a k fr tgt, .vscan h d a k o iw u aw sat, .vred h d a k o iw u aw sat, .vbcast h d a k,
      .vbcastL h d a b k, .vperm h d a b k, .vrotl h d a b k, .viota h d a k, .vcompress h d a k, .vexpand h d a k,
      .vmpush h k, .vminv h, .vmpop h]) : ReadsBack i := by
  have := u.toNat_le
  have := aw.toNat_le
  have := sat.toNat_le
  revert i
  simp only [List.forall_mem_cons, List.not_mem_nil, IsEmpty.forall_iff, implies_true, and_true]
  and_intros
  all_goals
    refine ⟨h, _, _, _, _, rfl, rfl, rfl, rfl, by decide, by decide, by omega, fun w major format => ?_⟩
    simp only [ReadExt, parse_of_major, major]
    simp (disch := omega) only [parse57, parse58, parse59, parse5A, parse5B, parse5F, field_of_format format, add_mul_field,
      mul_field, Nat.reduceMod, Nat.reduceDiv]
    simp
    omega

/-- SEL's minors carry its predicate in their low bits (R152). -/
theorem parse01_sel {w : Nat} (hd : Hdr) (lo : 24 ≤ w / 1 % 64) (hi : w / 1 % 64 < 32) :
    parse01 w hd = .ok (.sel hd (fld w 0x10000 5) (fld w 0x800 5) (fld w 0x40 5) (fld w 1 3)) true true true := by
  unfold parse01
  generalize w / 1 % 64 = m at lo hi ⊢
  interval_cases m <;> rfl

theorem readsBack_sel (h : Hdr) (d a b : Reg) (p : PReg) : ReadsBack (.sel h d a b p) := by
  refine ⟨h, _, _, _, _, rfl, rfl, rfl, rfl, by decide, by decide, by omega, fun w major format => ?_⟩
  simp only [ReadExt, parse_of_major, major]
  rw [parse01_sel h (by omega) (by omega)]
  simp
  omega

/-- VADDW's minors are its width (R256). -/
theorem parse56_vaddw {w : Nat} (hd : Hdr) (hi : w / 1 % 8 < 4) :
    parse56 w hd = .ok (.vaddw hd (fld w 0x10000 5) (fld w 0x800 5) (fld w 0x40 5) (fld w 0x8 3) (fld w 1 2)) true true true := by
  unfold parse56
  generalize w / 1 % 8 = m at hi ⊢
  interval_cases m <;> rfl

theorem readsBack_vaddw (h : Hdr) (d a b : Reg) (k : BitVec 3) (l : BitVec 2) : ReadsBack (.vaddw h d a b k l) := by
  refine ⟨h, _, _, _, _, rfl, rfl, rfl, rfl, by decide, by decide, by omega, fun w major format => ?_⟩
  simp only [ReadExt, parse_of_major, major]
  rw [parse56_vaddw h (by omega)]
  simp
  omega

/-- MTOPKRD and MTOPKRD_T share a minor; bit 2 tells them apart (R242). -/
theorem readsBack_mtopkrd (h : Hdr) (d i : Reg) : ReadsBack (.mtopkrd h d i) := by
  refine ⟨h, _, _, _, _, rfl, rfl, rfl, rfl, by decide, by decide, by omega, fun w major format => ?_⟩
  have minor : w / 0x10000 % 32 = 1 := by omega
  have toTile : flag w 4 = false := flag_eq_iff.2 (by simp; omega)
  simp only [ReadExt, parse_of_major, major, parse45, minor]
  simp [toTile]
  omega

theorem readsBack_mtopkrdT (h : Hdr) (hd : Reg) : ReadsBack (.mtopkrdT h hd) := by
  refine ⟨h, _, _, _, _, rfl, rfl, rfl, rfl, by decide, by decide, by omega, fun w major format => ?_⟩
  have minor : w / 0x10000 % 32 = 1 := by omega
  have toTile : flag w 4 = true := flag_eq_iff.2 (by simp; omega)
  simp only [ReadExt, parse_of_major, major, parse45, minor]
  simp [toTile]
  omega

/-! ### Every instruction -/

/-- The tables read every instruction back. -/
theorem readsBack (i : Instr) (header : i.hdr? ≠ none) : ReadsBack i := by
  cases i with
  | add h d a b | sub h d a b | mul h d a b | mulh h d a b | mulhu h d a b | div h d a b | divu h d a b | rem h d a b
  | remu h d a b | and h d a b | or h d a b | xor h d a b | andn h d a b | shl h d a b | shr h d a b | sar h d a b
  | rot h d a b | min h d a b | max h d a b | minu h d a b | maxu h d a b =>
    exact readsBack_arith h (d := d) (a := a) (b := b) (mem := by simp)
  | sel => exact readsBack_sel ..
  | addi h d a imm | andi h d a imm | ori h d a imm | xori h d a imm =>
    exact readsBack_immediate h (d := d) (a := a) (imm := imm) (mem := by simp)
  | shli h d a n | shri h d a n | sari h d a n | roti h d a n =>
    exact readsBack_immediate h (d := d) (a := a) (n := n) (mem := by simp)
  | cmpi h p a c imm7 => exact readsBack_immediate h (a := a) (p := p) (c := c) (imm7 := imm7) (mem := by simp)
  | clz h d a | popc h d a => exact readsBack_bits h (d := d) (a := a) (mem := by simp)
  | sext h d a k | zext h d a k => exact readsBack_bits h (d := d) (a := a) (k := k) (mem := by simp)
  | bfx h d a b | bfi h d a b => exact readsBack_bits h (d := d) (a := a) (b := b) (mem := by simp)
  | cmp h p c6 a b => exact readsBack_bits h (a := a) (b := b) (p := p) (c6 := c6) (mem := by simp)
  | pand h pd pa pb | por h pd pa pb | pxor h pd pa pb =>
    exact readsBack_bits h (pd := pd) (pa := pa) (pb := pb) (mem := by simp)
  | pnot h pd pa | pmov h pd pa => exact readsBack_bits h (pd := pd) (pa := pa) (mem := by simp)
  | li h g lo hi => exact readsBack_control h (g := g) (lo := lo) (hi := hi) (mem := by simp)
  | br h p neg off syl | brl h p neg off syl | brq h p neg off syl =>
    exact readsBack_branch h (p := p) (neg := neg) (off := off) (syl := syl) (mem := by simp)
  | jmpr h a | ret h a | dqpush h a => exact readsBack_branch h (a := a) (mem := by simp)
  | call h d a => exact readsBack_branch h (a := a) (d := d) (mem := by simp)
  | loop h c off syl => exact readsBack_control h (c := c) (off := off) (syl := syl) (mem := by simp)
  | dqpop h d => exact readsBack_branch h (d := d) (mem := by simp)
  | bqpush h p => exact readsBack_branch h (p := p) (mem := by simp)
  | fork h off syl => exact readsBack_control h (off := off) (syl := syl) (mem := by simp)
  | rdv h | exit h | nop h | eret h => exact readsBack_control h (mem := by simp)
  | yield h dropt keep => exact readsBack_control h (keep := keep) (dropt := dropt) (mem := by simp)
  | await h kind reg => exact readsBack_control h (reg := reg) (kind := kind) (mem := by simp)
  | qcancel h d tag => exact readsBack_control h (d := d) (tag := tag) (mem := by simp)
  | trap h code | brk h code => exact readsBack_control h (code := code) (mem := by simp)
  | sysrd h d idx => exact readsBack_control h (d := d) (idx := idx) (mem := by simp)
  | syswr h a idx => exact readsBack_control h (a := a) (idx := idx) (mem := by simp)
  | shape h d a acc => exact readsBack_control h (d := d) (a := a) (acc := acc) (mem := by simp)
  | ld h d b z o | st h d b z o => exact readsBack_access h (d := d) (b := b) (z := z) (o := o) (mem := by simp)
  | aadd h d a b sz ord scope | afadd h d a b sz ord scope | aand h d a b sz ord scope | aor h d a b sz ord scope
  | axor h d a b sz ord scope | aswp h d a b sz ord scope =>
    exact readsBack_access h (d := d) (b := b) (a := a) (scope := scope) (sz := sz) (ord := ord) (mem := by simp)
  | amin h d a b sz ord scope u | amax h d a b sz ord scope u =>
    exact readsBack_access h (d := d) (b := b) (a := a) (scope := scope) (sz := sz) (ord := ord) (u := u) (mem := by simp)
  | acas h d a b sz ord scope c =>
    exact readsBack_access h (d := d) (b := b) (a := a) (c := c) (scope := scope) (sz := sz) (ord := ord) (mem := by simp)
  | sldf h d a scope | sldw h d a scope | sste h d a scope | sstf h d a scope | gbar h d a scope =>
    exact readsBack_sync h (d := d) (a := a) (scope := scope) (mem := by simp)
  | seclr h a => exact readsBack_sync h (a := a) (mem := by simp)
  | fence h scope => exact readsBack_sync h (scope := scope) (mem := by simp)
  | fencer h scope mask => exact readsBack_sync h (scope := scope) (mask := mask) (mem := by simp)
  | drain h eng => exact readsBack_sync h (eng := eng) (mem := by simp)
  | rngbind h n a kind lreg len =>
    exact readsBack_sync h (a := a) (n := n) (kind := kind) (lreg := lreg) (len := len) (mem := by simp)
  | rngfree h n => exact readsBack_sync h (n := n) (mem := by simp)
  | gjoin h d a | gleave h d a => exact readsBack_sync h (d := d) (a := a) (mem := by simp)
  | rres h d a b | xroute h d a b | xpin h d a b | xunpin h d a b =>
    exact readsBack_sync h (d := d) (a := a) (b := b) (mem := by simp)
  | rpub h e a b => exact readsBack_sync h (a := a) (b := b) (e := e) (mem := by simp)
  | rtake h d a p => exact readsBack_sync h (d := d) (a := a) (p := p) (mem := by simp)
  | rfree h e a => exact readsBack_sync h (a := a) (e := e) (mem := by simp)
  | xinv h d a b force => exact readsBack_sync h (d := d) (a := a) (b := b) (force := force) (mem := by simp)
  | fetch h d t r len c s cg cgv disc rcmd u | fetchT h d t r len c s cg cgv disc rcmd u =>
    exact readsBack_fetch h (d := d) (t := t) (r := r) (c := c) (s := s) (u := u) (len := len) (cg := cg)
      (cgv := cgv) (disc := disc) (rcmd := rcmd) (mem := by simp)
  | fetchMc h d t r len c s cg cgv disc rcmd u mc =>
    exact readsBack_fetch h (d := d) (t := t) (r := r) (c := c) (s := s) (u := u) (len := len) (cg := cg)
      (cgv := cgv) (disc := disc) (rcmd := rcmd) (mc := mc) (mem := by simp)
  | fetchRf h d t r c cg cgv u =>
    exact readsBack_fetch h (d := d) (t := t) (r := r) (c := c) (u := u) (cg := cg) (cgv := cgv) (mem := by simp)
  | talloc h d t s disc len => exact readsBack_tile h (d := d) (t := t) (s := s) (disc := disc) (len := len) (mem := by simp)
  | tstore h t r c hd u cg cgv =>
    exact readsBack_tile h (t := t) (r := r) (c := c) (hd := hd) (u := u) (cgv := cgv) (cg := cg) (mem := by simp)
  | tcon h hd | trel h hd => exact readsBack_tile h (hd := hd) (mem := by simp)
  | tadj h hd b => exact readsBack_tile h (hd := hd) (b := b) (mem := by simp)
  | tsettle h hd k => exact readsBack_tile h (hd := hd) (k := k) (mem := by simp)
  | tquery h d hd sel => exact readsBack_tile h (d := d) (hd := hd) (sel := sel) (mem := by simp)
  | park h d a cg cgv | unpark h d a cg cgv => exact readsBack_tile h (d := d) (a := a) (cgv := cgv) (cg := cg) (mem := by simp)
  | cgrp h cg | cwait h cg => exact readsBack_tile h (cg := cg) (mem := by simp)
  | ccopy h d a n cg cgv => exact readsBack_copy h (d := d) (a := a) (n := n) (cg := cg) (cgv := cgv) (mem := by simp)
  | cgath h d t l len r m cg cgv =>
    exact readsBack_copy h (d := d) (t := t) (l := l) (r := r) (m := m) (cg := cg) (cgv := cgv) (len := len) (mem := by simp)
  | cscat h d l r m cg cgv =>
    exact readsBack_copy h (d := d) (l := l) (r := r) (m := m) (cg := cg) (cgv := cgv) (mem := by simp)
  | btnext h d k t => exact readsBack_copy h (d := d) (t := t) (k := k) (mem := by simp)
  | dpost h a => exact readsBack_copy h (a := a) (mem := by simp)
  | dcal h d a => exact readsBack_copy h (d := d) (a := a) (mem := by simp)
  | drun h cg cgv a b => exact readsBack_copy h (a := a) (b := b) (cg := cg) (cgv := cgv) (mem := by simp)
  | dstat h d a sel => exact readsBack_copy h (d := d) (a := a) (sel := sel) (mem := by simp)
  | fred h a cg cgv => exact readsBack_copy h (a := a) (cg := cg) (cgv := cgv) (mem := by simp)
  | jpost h d a b | jwait h d a b => exact readsBack_copy h (d := d) (a := a) (b := b) (mem := by simp)
  | mset h fa fb sr => exact readsBack_matrix h (fa := fa) (fb := fb) (sr := sr) (mem := by simp)
  | mzero h n disc => exact readsBack_matrix h (n := n) (disc := disc) (mem := by simp)
  | mstart h => exact readsBack_matrix h (mem := by simp)
  | mmul h a b n tb => exact readsBack_matrix h (n := n) (a := a) (b := b) (tb := tb) (mem := by simp)
  | mmulc h d e b tb => exact readsBack_matrix h (b := b) (d := d) (e := e) (tb := tb) (mem := by simp)
  | mrot h d e => exact readsBack_matrix h (d := d) (e := e) (mem := by simp)
  | mdrain h hd n fmt part sigma =>
    exact readsBack_matrix h (fmt := fmt) (n := n) (hd := hd) (part := part) (sigma := sigma) (mem := by simp)
  | mtopk h n c k clr => exact readsBack_matrix h (k := k) (n := n) (c := c) (clr := clr) (mem := by simp)
  | mtopkrd => exact readsBack_mtopkrd ..
  | mtopkrdT => exact readsBack_mtopkrdT ..
  | mkat h seed slo shi => exact readsBack_matrix h (slo := slo) (shi := shi) (seed := seed) (mem := by simp)
  | macc h d e add => exact readsBack_matrix h (d := d) (e := e) (add := add) (mem := by simp)
  | mldacc h n hd half | mstacc h n hd half => exact readsBack_matrix h (n := n) (hd := hd) (half := half) (mem := by simp)
  | vadd h d a b k | vsub h d a b k | vmul h d a b k | vmin h d a b k | vmax h d a b k | vfma h d a b k
  | vfmaN h d a b k | vscale h d a b k | vsel h d a b k =>
    exact readsBack_float h (d := d) (a := a) (b := b) (k := k) (mem := by simp)
  | vabs h d a k | vneg h d a k | vrcp h d a k | vrsq h d a k | vexp2 h d a k | vlog2 h d a k =>
    exact readsBack_float h (d := d) (a := a) (k := k) (mem := by simp)
  | vcmp h m c a b k => exact readsBack_float h (a := a) (b := b) (k := k) (m := m) (c := c) (mem := by simp)
  | viadd h d a b k ew u sat | visub h d a b k ew u sat | vimul h d a b k ew u sat =>
    exact readsBack_integer h (d := d) (a := a) (b := b) (k := k) (ew := ew) (u := u) (sat := sat) (mem := by simp)
  | vshl h d a b k ew u | vshr h d a b k ew u | vsar h d a b k ew u | vand h d a b k ew u | vor h d a b k ew u
  | vxor h d a b k ew u => exact readsBack_integer h (d := d) (a := a) (b := b) (k := k) (ew := ew) (u := u) (mem := by simp)
  | vaddw => exact readsBack_vaddw ..
  | vcvt h d a k fr tgt => exact readsBack_lanes h (d := d) (a := a) (k := k) (fr := fr) (tgt := tgt) (mem := by simp)
  | vscan h d a k o iw u aw sat | vred h d a k o iw u aw sat =>
    exact readsBack_lanes h (d := d) (a := a) (k := k) (o := o) (iw := iw) (u := u) (aw := aw) (sat := sat) (mem := by simp)
  | vbcast h d a k | viota h d a k | vcompress h d a k | vexpand h d a k =>
    exact readsBack_lanes h (d := d) (a := a) (k := k) (mem := by simp)
  | vbcastL h d a b k | vperm h d a b k | vrotl h d a b k =>
    exact readsBack_lanes h (d := d) (a := a) (b := b) (k := k) (mem := by simp)
  | vld h d hd c cons k => exact readsBack_integer h (d := d) (hd := hd) (c := c) (k := k) (cons := cons) (mem := by simp)
  | vldx h d hd b cons k => exact readsBack_integer h (d := d) (b := b) (hd := hd) (k := k) (cons := cons) (mem := by simp)
  | vst h a hd c k => exact readsBack_integer h (a := a) (hd := hd) (c := c) (k := k) (mem := by simp)
  | vins h d a l => exact readsBack_integer h (d := d) (a := a) (l := l) (mem := by simp)
  | vext h d a l u => exact readsBack_integer h (d := d) (a := a) (l := l) (u := u) (mem := by simp)
  | vmpush h k => exact readsBack_lanes h (k := k) (mem := by simp)
  | vminv h | vmpop h => exact readsBack_lanes h (mem := by simp)
  | brmz h neg off syl => exact readsBack_branch h (neg := neg) (off := off) (syl := syl) (mem := by simp)
  | _ => exact absurd rfl header

/-- Settles O2: the header, the extension syllables and the token syllable are read back, and the checks of R147 pass. -/
theorem encodeDecodeAgree : Obligations.EncodeDecodeAgree := by
  unfold Obligations.EncodeDecodeAgree
  exact fun i wf header => decode_of_readsBack wf (readsBack i header)

end Sys2Proof

/-! The proofs of O1 and of the negation of O3. Words of R133 that the decoder reads, one of which O3 has it refuse. -/

namespace Sys2Proof

open Machine

/-- Settles O1: each word evaluates. -/
theorem knownWordsDecode : Obligations.KnownWordsDecode := by
  unfold Obligations.KnownWordsDecode
  exact ⟨rfl, rfl, rfl, rfl, rfl, rfl⟩

/-- ADD may carry a token syllable (R142), so its header with T set and the syllable behind it are one instruction of two syllables. -/
theorem decode_add_with_token : decode (some .a) [0x80000000 + 0x10000000 + 0x01 * 0x200000, 0] =
    .ok (.add ⟨true, some ⟨0, 0, 0, 0⟩⟩ 0 0 0) 2 := rfl

/-- Refutes O3: of the words it names, the one refused for a token syllable is an ADD, which may carry one. -/
theorem not_refusedWords : ¬ Obligations.RefusedWords := by
  unfold Obligations.RefusedWords
  rintro ⟨-, -, -, -, -, -, -, token, -⟩
  rw [decode_add_with_token] at token
  cases token

end Sys2Proof

/-! The proof of O36. A store brings the lines of its bytes in, and puts each byte into its line or at its home (R99, R180, R181). -/

namespace Sys2Proof

open Machine

/-! ### A line that takes another's place, and the lines of an access (R99, log 8) -/

section

variable {core : Nat} {s t : State}

theorem lineAt_updLine (s : State) (core key : Nat) (f : DLine → DLine) (k : Nat) :
    (s.updCore core fun q => { q with dc := SMap.upd q.dc {} key f }).lineAt core k =
      if k = key then f (s.lineAt core key) else s.lineAt core k := by
  unfold State.lineAt
  rw [State.coreAt_updCore_same]
  exact SMap.get_set _ _ _ _ _

/-- A line has been replaced by one that is as dirty and, where dirty, holds the same data. -/
theorem moves_updLine (stored : Loc → Prop) (s : State) (core key : Nat) {f : DLine → DLine}
    (dirty : (f (s.lineAt core key)).dirty = (s.lineAt core key).dirty)
    (data : (s.lineAt core key).dirty = true → (f (s.lineAt core key)).data = (s.lineAt core key).data) :
    CacheMoves core stored s (s.updCore core fun q => { q with dc := SMap.upd q.dc {} key f }) := by
  have same : ∀ k, ((s.updCore core fun q => { q with dc := SMap.upd q.dc {} key f }).lineAt core k).dirty = (s.lineAt core k).dirty := by
    intro k
    rw [lineAt_updLine]
    split
    · next e => rw [dirty, e]
    · rfl
  refine ⟨cacheFrame_updLines core s fun dc => SMap.upd dc {} key f, fun k h => ?_, fun l _ _ => ?_⟩
  · rw [same] at h
    refine ⟨h, ?_⟩
    rw [lineAt_updLine]
    split
    · next e => subst e; exact data h
    · rfl
  · rw [same, if_neg fun c => c.2 c.1]
    rfl

/-- A choice has been drawn. -/
theorem moves_free (core : Nat) (stored : Loc → Prop) (s : State) (n : Nat) : CacheMoves core stored s { s with free := n } :=
  ⟨⟨rfl, fun _ _ => rfl, rfl, fun _ => rfl⟩, linesMove_of_same rfl fun _ _ _ => rfl⟩

theorem not_dirty_of_miss {key : Nat} (miss : ¬ s.hasLine core key = true) : (s.lineAt core key).dirty = false := by
  by_contra dirty
  exact miss ((hasLine_iff s core key).2 (ne_default_of_dirty (by simpa using dirty)))

/-- A clean line comes in where none is held. -/
theorem moves_fill (stored : Loc → Prop) {key : Nat} (clean : (s.lineAt core key).dirty = false) {x : DLine} (hx : x.dirty = false) :
    CacheMoves core stored s (s.updCore core fun q => { q with dc := SMap.set q.dc {} key x }) :=
  moves_updLine stored s core key (f := fun _ => x) (hx.trans clean.symm) (by simp [clean])

/-- A core's data cache with room for one more line. -/
def Machine.State.withRoom (s : State) (core : Nat) : State :=
  let c := s.coreAt core
  if c.dc.length < c.capD * 8 then s
  else { s.invalidate core (c.dc.getD (Config.evictPick s.free % max 1 c.dc.length) (0, {})).1 with free := s.free + 1 }

/-- The state with the line of a byte brought in. -/
def Machine.State.withLine (s : State) (slot : Nat) (b : Nat × Leaf × Loc) : State :=
  if s.hasLine (coreOf slot) (lineKey b.2.2) then s
  else
    let t := s.withRoom (coreOf slot)
    let x : DLine := ⟨t.homeLine (lineKey b.2.2), false, b.2.1.kind == 2, 0, b.1 / 128 * 128, []⟩
    t.updCore (coreOf slot) fun q => { q with dc := SMap.set q.dc {} (lineKey b.2.2) x }

theorem touchLine_eq (s : State) (slot : Nat) (b : Nat × Leaf × Loc) :
    s.touchLine slot b = (s.withLine slot b).updCore (coreOf slot) fun q =>
      { q with dc := SMap.upd q.dc {} (lineKey b.2.2) fun l => { l with mask := l.mask ||| BitVec.twoPow 4 (placeOf slot) } } := rfl

theorem moves_withRoom (core : Nat) (stored : Loc → Prop) (s : State) : CacheMoves core stored s (s.withRoom core) := by
  unfold State.withRoom
  dsimp only
  split
  · exact CacheMoves.refl core stored s
  · exact (moves_invalidate core stored s _).trans (moves_free core stored _ _)

theorem moves_withLine (stored : Loc → Prop) (s : State) (slot : Nat) (b : Nat × Leaf × Loc) :
    CacheMoves (coreOf slot) stored s (s.withLine slot b) := by
  unfold State.withLine
  split
  · exact CacheMoves.refl _ stored s
  · next miss =>
    have room := moves_withRoom (coreOf slot) stored s
    refine room.trans (moves_fill stored ?_ rfl)
    by_contra dirty
    have before := (room.lines _ (by simpa using dirty)).1
    rw [not_dirty_of_miss miss] at before
    cases before

theorem moves_touchLine (stored : Loc → Prop) (s : State) (slot : Nat) (b : Nat × Leaf × Loc) :
    CacheMoves (coreOf slot) stored s (s.touchLine slot b) := by
  rw [touchLine_eq]
  exact (moves_withLine stored s slot b).trans (moves_updLine stored _ _ _ rfl fun _ => rfl)

theorem moves_touchAll (stored : Loc → Prop) (s : State) (slot : Nat) (bs : List (Nat × Leaf × Loc)) :
    CacheMoves (coreOf slot) stored s (s.touchAll slot bs) := by
  induction bs generalizing s with
  | nil => exact CacheMoves.refl _ stored s
  | cons b r ih =>
    refine CacheMoves.trans ?_ (ih _)
    split
    · exact moves_touchLine stored s slot b
    · exact CacheMoves.refl _ stored s

theorem moves_holdAll (core : Nat) (stored : Loc → Prop) (s : State) (asid : Nat) (bs : List (Nat × Leaf × Loc)) :
    CacheMoves core stored s (s.holdAll asid bs) := by
  obtain ⟨tlb, held⟩ := holdAll_eq s asid bs
  rw [held]
  exact moves_holding core stored s tlb

end

/-! ### Bytes of a line -/

theorem getLsbD_setByte {w : Nat} (x : BitVec w) (i : Nat) (v : Byte) {k : Nat} (hk : k < w) :
    (setByte x i v).getLsbD k = if 8 * i ≤ k ∧ k < 8 * i + 8 then v.getLsbD (k - 8 * i) else x.getLsbD k := by
  unfold setByte
  simp only [BitVec.getLsbD_or, BitVec.getLsbD_and, BitVec.getLsbD_not, BitVec.getLsbD_shiftLeft, BitVec.getLsbD_setWidth,
    BitVec.getLsbD_allOnes, hk, decide_true, Bool.true_and]
  by_cases low : k < 8 * i
  · rw [if_neg (by omega)]
    simp [low]
  by_cases high : k < 8 * i + 8
  · have inside : k - 8 * i < 8 := by omega
    have width : k - 8 * i < w := by omega
    rw [if_pos (by omega)]
    simp [low, inside, width]
  · have outside : ¬ k - 8 * i < 8 := by omega
    rw [if_neg (by omega), BitVec.getLsbD_of_ge v _ (by omega)]
    simp [outside]

theorem byteOf_setByte {w i j : Nat} (x : BitVec w) (v : Byte) (hj : 8 * j + 8 ≤ w) :
    byteOf (setByte x i v) j = if j = i then v else byteOf x j := by
  refine BitVec.eq_of_getLsbD_eq fun k hk => ?_
  unfold byteOf
  rw [BitVec.getLsbD_extractLsb', getLsbD_setByte x i v (by omega)]
  by_cases e : j = i
  · rw [if_pos (by omega), if_pos e]
    simp [e, hk]
  · rw [if_neg (by omega), if_neg e, BitVec.getLsbD_extractLsb']
/-! ### A byte is stored (R180, R181) -/

theorem viewByte_held {s : State} {core : Nat} {l : Loc} (h : s.lineAt core (lineKey l) ≠ {}) :
    s.viewByte core l = byteOf (s.lineAt core (lineKey l)).data (l.pa % 128) := if_pos ((hasLine_iff s core _).2 h)

theorem viewByte_not_held {s : State} {core : Nat} {l : Loc} (h : s.lineAt core (lineKey l) = {}) :
    s.viewByte core l = s.homeByte l := if_neg fun c => (hasLine_iff s core _).1 c h

/-- A location of module or host memory of this package. -/
def Machine.Loc.Near (l : Loc) : Prop := l.tier < 2 ∧ l.pkg = 0

theorem Machine.Loc.Near.ne {l k : Loc} (hl : l.Near) (hk : k.Near) (h : l ≠ k) : l.tier ≠ k.tier ∨ l.pa ≠ k.pa := by
  obtain ⟨tier, pkg, pa⟩ := l
  obtain ⟨tier', pkg', pa'⟩ := k
  obtain ⟨-, rfl⟩ := hl
  obtain ⟨-, rfl⟩ := hk
  by_contra same
  simp only [not_or, not_not] at same
  exact h (by rw [same.1, same.2])

/-- Two bytes of one line differ in their place in it. -/
theorem Machine.Loc.Near.place_ne {l k : Loc} (hl : l.Near) (hk : k.Near) (h : l ≠ k) (line : lineKey l = lineKey k) :
    l.pa % 128 ≠ k.pa % 128 := by
  have apart := hl.ne hk h
  have hl := hl.1
  have hk := hk.1
  unfold lineKey at line
  omega

/-- A line with a byte put into it by a store that leaves it dirty, or that is written through. -/
def Machine.DLine.put (x : DLine) (slot num : Nat) (tags : BitVec 16) (through : Bool) (i : Nat) (v : Byte) : DLine :=
  { x with
    data := setByte x.data i v
    dirty := x.dirty || !through
    stores := if through || x.stores.any (fun e => e.1 == num) then x.stores else x.stores ++ [(num, slot, tags)] }

/-- Only a line that is written through can be left as a core that holds none shows it. -/
theorem through_of_put {x : DLine} {slot num i : Nat} {tags : BitVec 16} {through : Bool} {v : Byte}
    (h : x.put slot num tags through i v = {}) : through = true := by
  cases through with
  | true => rfl
  | false => exact absurd h (ne_default_of_dirty (Bool.or_true x.dirty))

section

variable {slot num : Nat} {tags : BitVec 16} {through : Bool} {s : State} {b c : Nat × Leaf × Loc} {v w : Byte}

/-- A byte of a store goes into a line of the core in issue. -/
def Machine.State.InLine (s : State) (slot : Nat) (b : Nat × Leaf × Loc) : Prop :=
  cached b.2.1 = true ∧ s.hasLine (coreOf slot) (lineKey b.2.2) = true

/-- The state with a byte put into its line. -/
def Machine.State.putByte (s : State) (slot num : Nat) (tags : BitVec 16) (through : Bool) (l : Loc) (v : Byte) : State :=
  s.updCore (coreOf slot) fun q =>
    { q with dc := SMap.upd q.dc {} (lineKey l) fun x => x.put slot num tags through (l.pa % 128) v }

theorem storeByte_inLine (h : s.InLine slot b) (v : Byte) :
    s.storeByte slot num tags through b v = if through then (s.putByte slot num tags through b.2.2 v).setHome b.2.2 v
      else s.putByte slot num tags through b.2.2 v := if_pos (by simpa [State.InLine] using h)

theorem storeByte_atHome (h : ¬ s.InLine slot b) (v : Byte) : s.storeByte slot num tags through b v = s.setHome b.2.2 v :=
  if_neg (by simpa [State.InLine] using h)

theorem cacheFrame_storeByte (near : b.2.2.tier < 2) : CacheFrame (coreOf slot) s (s.storeByte slot num tags through b v) := by
  by_cases h : s.InLine slot b
  · rw [storeByte_inLine h]
    have line : CacheFrame (coreOf slot) s (s.putByte slot num tags through b.2.2 v) := cacheFrame_updLines (coreOf slot) s
      fun dc => SMap.upd dc {} (lineKey b.2.2) fun x => x.put slot num tags through (b.2.2.pa % 128) v
    cases through with
    | true => exact line.trans (cacheFrame_setHome _ _ near v)
    | false => exact line
  · rw [storeByte_atHome h]
    exact cacheFrame_setHome _ s near v

theorem lineAt_setHome (s : State) (l : Loc) (v : Byte) (core key : Nat) : (s.setHome l v).lineAt core key = s.lineAt core key := by
  unfold State.lineAt
  rw [coreAt_congr (setHome_cores s l v)]

theorem lineAt_storeByte_inLine (h : s.InLine slot b) (v : Byte) (k : Nat) :
    (s.storeByte slot num tags through b v).lineAt (coreOf slot) k =
      if k = lineKey b.2.2 then (s.lineAt (coreOf slot) k).put slot num tags through (b.2.2.pa % 128) v
      else s.lineAt (coreOf slot) k := by
  rw [storeByte_inLine h]
  have put : (s.putByte slot num tags through b.2.2 v).lineAt (coreOf slot) k =
      if k = lineKey b.2.2 then (s.lineAt (coreOf slot) k).put slot num tags through (b.2.2.pa % 128) v
      else s.lineAt (coreOf slot) k := by
    refine (lineAt_updLine s (coreOf slot) (lineKey b.2.2) _ k).trans ?_
    split
    · next e => rw [e]
    · rfl
  split
  · exact (lineAt_setHome _ _ v _ k).trans put
  · exact put

theorem lineAt_storeByte_atHome (h : ¬ s.InLine slot b) (v : Byte) (k : Nat) :
    (s.storeByte slot num tags through b v).lineAt (coreOf slot) k = s.lineAt (coreOf slot) k := by
  rw [storeByte_atHome h]
  exact lineAt_setHome s _ v _ k

/-- A byte that is written through, or into no line, stands at its home. -/
theorem homeByte_storeByte_same (near : b.2.2.tier < 2) (h : through = true ∨ ¬ s.InLine slot b) :
    (s.storeByte slot num tags through b v).homeByte b.2.2 = v := by
  by_cases line : s.InLine slot b
  · obtain rfl := h.resolve_right (not_not.2 line)
    rw [storeByte_inLine line]
    exact homeByte_setHome_mem _ _ v near
  · rw [storeByte_atHome line]
    exact homeByte_setHome_mem s _ v near

/-- No other byte of memory changes. -/
theorem homeByte_storeByte_ne {l : Loc} (near : b.2.2.Near) (hl : l.Near) (ne : l ≠ b.2.2) :
    (s.storeByte slot num tags through b v).homeByte l = s.homeByte l := by
  have apart := hl.ne near ne
  by_cases line : s.InLine slot b
  · rw [storeByte_inLine line]
    cases through with
    | true => exact homeByte_setHome_ne _ _ _ v apart hl.1
    | false => rfl
  · rw [storeByte_atHome line]
    exact homeByte_setHome_ne s _ _ v apart hl.1

/-- A byte reads as stored: through the data cache where its page is cached, at its home otherwise; and where the store was written
through, at its home in any case. -/
structure Machine.State.Shows (s : State) (slot : Nat) (through : Bool) (b : Nat × Leaf × Loc) (v : Byte) : Prop where
  load : s.loadByte slot b = v
  home : through = true → s.homeByte b.2.2 = v

theorem loadByte_cached (h : cached b.2.1 = true) (s : State) (slot : Nat) : s.loadByte slot b = s.viewByte (coreOf slot) b.2.2 :=
  if_pos h

theorem loadByte_uncached (h : ¬ cached b.2.1 = true) (s : State) (slot : Nat) : s.loadByte slot b = s.homeByte b.2.2 :=
  if_neg h

theorem storeByte_shows (near : b.2.2.tier < 2) (s : State) (v : Byte) :
    (s.storeByte slot num tags through b v).Shows slot through b v := by
  refine ⟨?_, fun thr => homeByte_storeByte_same near (.inl thr)⟩
  by_cases line : s.InLine slot b
  · have put := lineAt_storeByte_inLine (num := num) (tags := tags) (through := through) line v (lineKey b.2.2)
    rw [if_pos rfl] at put
    rw [loadByte_cached line.1]
    by_cases held : (s.lineAt (coreOf slot) (lineKey b.2.2)).put slot num tags through (b.2.2.pa % 128) v = {}
    · rw [viewByte_not_held (put.trans held)]
      exact homeByte_storeByte_same near (.inl (through_of_put held))
    · rw [viewByte_held (by rw [put]; exact held), put]
      exact (byteOf_setByte _ v (by omega)).trans (if_pos rfl)
  · have home := homeByte_storeByte_same (num := num) (tags := tags) (through := through) (v := v) near (.inr line)
    by_cases hc : cached b.2.1 = true
    · have none : s.lineAt (coreOf slot) (lineKey b.2.2) = {} := by
        by_contra held
        exact line ⟨hc, (hasLine_iff s _ _).2 held⟩
      rw [loadByte_cached hc, viewByte_not_held ((lineAt_storeByte_atHome line v _).trans none), home]
    · rw [loadByte_uncached hc, home]

/-- A byte reads as it was stored after another byte has been stored. -/
theorem Machine.State.Shows.storeByte (shown : s.Shows slot through b v) (near : b.2.2.Near) (near' : c.2.2.Near)
    (ne : b.2.2 ≠ c.2.2) (w : Byte) : (s.storeByte slot num tags through c w).Shows slot through b v := by
  have home : (s.storeByte slot num tags through c w).homeByte b.2.2 = s.homeByte b.2.2 := homeByte_storeByte_ne near' near ne
  refine ⟨?_, fun thr => home.trans (shown.home thr)⟩
  by_cases hc : cached b.2.1 = true
  swap
  · rw [loadByte_uncached hc, home, ← loadByte_uncached hc, shown.load]
  rw [loadByte_cached hc]
  have view : s.viewByte (coreOf slot) b.2.2 = v := (loadByte_cached hc s slot).symm.trans shown.load
  by_cases same : s.InLine slot c ∧ lineKey b.2.2 = lineKey c.2.2
  · obtain ⟨line, key⟩ := same
    have put := lineAt_storeByte_inLine (num := num) (tags := tags) (through := through) line w (lineKey b.2.2)
    rw [if_pos key] at put
    by_cases held : (s.lineAt (coreOf slot) (lineKey b.2.2)).put slot num tags through (c.2.2.pa % 128) w = {}
    · rw [viewByte_not_held (put.trans held), home, shown.home (through_of_put held)]
    · have before : s.lineAt (coreOf slot) (lineKey b.2.2) ≠ {} := (hasLine_iff s _ _).1 (key ▸ line.2)
      rw [viewByte_held (by rw [put]; exact held), put, ← view, viewByte_held before]
      exact (byteOf_setByte _ w (by omega)).trans (if_neg (near.place_ne near' ne key))
  · have kept : (s.storeByte slot num tags through c w).lineAt (coreOf slot) (lineKey b.2.2) =
        s.lineAt (coreOf slot) (lineKey b.2.2) := by
      by_cases line : s.InLine slot c
      · rw [lineAt_storeByte_inLine line, if_neg fun key => same ⟨line, key⟩]
      · exact lineAt_storeByte_atHome line w _
    rw [← view]
    unfold State.viewByte State.hasLine
    rw [kept, home]

end

/-! ### The bytes of a store -/

section

variable {slot num : Nat} {tags : BitVec 16} {through : Bool} {s : State} {bs : List (Nat × Leaf × Loc)}

theorem cacheFrame_storeAll (near : ∀ b ∈ bs, b.2.2.Near) (vs : List Byte) (s : State) :
    CacheFrame (coreOf slot) s (s.storeAll slot num tags through bs vs) := by
  induction bs generalizing s vs with
  | nil => exact CacheFrame.refl _ s
  | cons b r ih =>
    cases vs with
    | nil => exact CacheFrame.refl _ s
    | cons v vs =>
      exact (cacheFrame_storeByte (near b List.mem_cons_self).1).trans (ih (fun c hc => near c (List.mem_cons_of_mem _ hc)) vs _)

theorem homeByte_storeAll_ne {l : Loc} (near : ∀ b ∈ bs, b.2.2.Near) (hl : l.Near) (ne : ∀ b ∈ bs, l ≠ b.2.2) (vs : List Byte)
    (s : State) : (s.storeAll slot num tags through bs vs).homeByte l = s.homeByte l := by
  induction bs generalizing s vs with
  | nil => rfl
  | cons b r ih =>
    cases vs with
    | nil => rfl
    | cons v vs =>
      exact (ih (fun c hc => near c (List.mem_cons_of_mem _ hc)) (fun c hc => ne c (List.mem_cons_of_mem _ hc)) vs _).trans
        (homeByte_storeByte_ne (near b List.mem_cons_self) hl (ne b List.mem_cons_self))

theorem Machine.State.Shows.storeAll {b : Nat × Leaf × Loc} {v : Byte} (hb : b.2.2.Near) (near : ∀ c ∈ bs, c.2.2.Near)
    (ne : ∀ c ∈ bs, b.2.2 ≠ c.2.2) (vs : List Byte) (shown : s.Shows slot through b v) :
    (s.storeAll slot num tags through bs vs).Shows slot through b v := by
  induction bs generalizing s vs with
  | nil => exact shown
  | cons c r ih =>
    cases vs with
    | nil => exact shown
    | cons w vs =>
      exact ih (fun x hx => near x (List.mem_cons_of_mem _ hx)) (fun x hx => ne x (List.mem_cons_of_mem _ hx)) vs
        (shown.storeByte hb (near c List.mem_cons_self) (ne c List.mem_cons_self) w)

/-- Where no two bytes of a store lie at one location, each reads as stored. -/
theorem storeAll_shows (near : ∀ b ∈ bs, b.2.2.Near) (apart : (bs.map fun b => b.2.2).Nodup) (vs : List Byte) (s : State) :
    ∀ p ∈ bs.zip vs, (s.storeAll slot num tags through bs vs).Shows slot through p.1 p.2 := by
  induction bs generalizing s vs with
  | nil => simp
  | cons b r ih =>
    cases vs with
    | nil => simp
    | cons v vs =>
      obtain ⟨first, rest⟩ := List.nodup_cons.1 apart
      have later : ∀ c ∈ r, c.2.2.Near := fun c hc => near c (List.mem_cons_of_mem _ hc)
      have here := near b List.mem_cons_self
      intro p hp
      rcases List.mem_cons.1 hp with rfl | hp
      · exact (storeByte_shows here.1 s v).storeAll here later (fun c hc e => first (List.mem_map.2 ⟨c, hc, e.symm⟩)) vs
      · exact ih later rest vs _ p hp

/-- What a core shows of a byte turns on its home and on the core's lines. -/
theorem loadByte_congr {s t : State} {b : Nat × Leaf × Loc} (home : t.homeByte b.2.2 = s.homeByte b.2.2)
    (dc : (t.coreAt (coreOf slot)).dc = (s.coreAt (coreOf slot)).dc) : t.loadByte slot b = s.loadByte slot b := by
  unfold State.loadByte State.viewByte State.hasLine State.lineAt
  rw [home, dc]

end

/-! ### The address and the bytes of an access (R5, R138) -/

theorem lsAddr_eq (s : State) (b : Reg) (z : BitVec 3) (o : BitVec 8) :
    s.lsAddr b z o = BitVec.ofInt 64 ((s.rg b).toInt + o.toInt * (accessBytes z : Nat)) := by
  rw [BitVec.ofInt_add, BitVec.ofInt_mul, BitVec.ofInt_toInt, BitVec.ofInt_natCast]
  rfl

theorem leBytes_eq_map_range (n v : Nat) : leBytes n v = (List.range n).map fun i => BitVec.ofNat 8 (v / 256 ^ i) := by
  induction n generalizing v with
  | zero => rfl
  | succ n ih =>
    rw [List.range_succ_eq_map, List.map_cons, List.map_map, leBytes, ih]
    simp [Function.comp_def, pow_succ', Nat.div_div_eq_div_mul]

/-- Each byte of an access is stored with its byte of the number. -/
theorem mem_zip_bytesAt (s : State) (va v : Nat) {n i : Nat} (hi : i < n) :
    ((va + i, s.leafAt (va + i), s.locAt (va + i)), BitVec.ofNat 8 (v / 256 ^ i)) ∈ (s.bytesAt va n).zip (leBytes n v) := by
  unfold State.bytesAt
  rw [leBytes_eq_map_range, upto_eq_map_range, List.map_map, List.zip_map']
  exact List.mem_map.2 ⟨i, List.mem_range.2 hi, rfl⟩

theorem mem_bytesAt {s : State} {va n : Nat} {b : Nat × Leaf × Loc} :
    b ∈ s.bytesAt va n ↔ ∃ i, i < n ∧ b = (va + i, s.leafAt (va + i), s.locAt (va + i)) := by
  unfold State.bytesAt
  rw [upto_eq_map_range, List.map_map]
  simp [eq_comm]

theorem nodup_locs {s : State} {va n : Nat} (apart : ∀ i j, i < n → j < n → i ≠ j → s.locAt (va + i) ≠ s.locAt (va + j)) :
    ((s.bytesAt va n).map fun b => b.2.2).Nodup := by
  unfold State.bytesAt
  rw [upto_eq_map_range, List.map_map, List.map_map]
  refine List.Nodup.map_on (fun i hi j hj e => ?_) List.nodup_range
  by_contra ne
  exact apart i j (List.mem_range.1 hi) (List.mem_range.1 hj) ne e

theorem near_locAt {s : State} {va : Nat} (h : (s.leafAt va).tier < 2) : (s.locAt va).Near :=
  ⟨h, if_neg (by omega)⟩

/-! ### ST (R180, R181) -/

section

variable {s : State} {h : Hdr} {d b : Reg} {z : BitVec 3} {o : BitVec 8}

/-- The state once a release has written back (R103). -/
def Machine.State.stOut (s : State) (h : Hdr) : State :=
  if h.mod.getLsbD 0 then s.releaseCache s.cur.slot (scopeLs h) false else s

/-- The state once the translations of an access are held and its lines brought in. -/
def Machine.State.broughtIn (t s : State) (bs : List (Nat × Leaf × Loc)) : State :=
  (t.holdAll s.me.task.asid bs).touchAll s.cur.slot bs

/-- The state once a store is counted: the next has another number, and one that is not written through is tagged HOME (R115). -/
def Machine.State.stCounted (t s : State) (through : Bool) (tags : BitVec 16) : State :=
  let u := t.updCore (coreOf s.cur.slot) fun c => { c with nextStore := s.myCore.nextStore + 1 }
  if through then u else u.updMe fun k => { k with homes := raiseTags k.homes tags }

/-- The state an ST leaves, before it retires. -/
def Machine.State.stDone (s : State) (h : Hdr) (va n v : Nat) : State :=
  let tags := s.me.tagsOf [(va, n)]
  let bs := s.bytesAt va n
  (((s.stOut h).broughtIn s bs).storeAll s.cur.slot s.myCore.nextStore tags (anySO bs) bs (leBytes n v)).stCounted s (anySO bs) tags

/-- An instruction that moves lines, and then stores into them or at homes. -/
theorem CacheMoves.stores_retires {u y : State} {stored : Loc → Prop} (m : CacheMoves (coreOf s.cur.slot) stored s u)
    (f : CacheFrame (coreOf s.cur.slot) u y) (kept : ∀ l : Loc, l.Near → ¬ stored l → y.homeByte l = u.homeByte l) :
    Retired s (y.retire h) h s.cur.next none none ∧ MemFrame s (y.retire h) stored := by
  have frame := m.toCacheFrame.trans f
  have retires : OnlyIssuer y (y.retire h) := retire_slotAs h (onlyIssuer_refl y) rfl rfl
  have retired := retired_of_wrote (h := h) frame.recounts.wrote
  rw [frame.cur] at retired
  have acc : AccessFrame s (y.retire h) := frame.access.trans (retires.access rfl rfl)
  refine ⟨retired, acc.package, acc.cores, acc.own, acc.slots, acc.slot, acc.other, fun l tier pkg ns => ?_⟩
  rw [retires.package.homeByte, kept l ⟨tier, pkg⟩ ns, m.bytes l tier ns]
  split
  · next moved => exact .inr ⟨moved.1, rfl⟩
  · exact .inl rfl

theorem moves_broughtIn (stored : Loc → Prop) (t s : State) (bs : List (Nat × Leaf × Loc)) :
    CacheMoves (coreOf s.cur.slot) stored t (t.broughtIn s bs) :=
  (moves_holdAll _ stored t _ bs).trans (moves_touchAll stored _ _ bs)

theorem moves_stOut (stored : Loc → Prop) (s : State) (h : Hdr) : CacheMoves (coreOf s.cur.slot) stored s (s.stOut h) := by
  unfold State.stOut
  split
  · exact moves_releaseCache stored s _ _ _
  · exact CacheMoves.refl _ stored s

theorem cacheFrame_stCounted (t s : State) (through : Bool) (tags : BitVec 16) :
    CacheFrame (coreOf s.cur.slot) t (t.stCounted s through tags) := by
  have numbered : CacheFrame (coreOf s.cur.slot) t
      (t.updCore (coreOf s.cur.slot) fun c => { c with nextStore := s.myCore.nextStore + 1 }) := by
    refine ⟨rfl, fun c hc => State.coreAt_updCore_ne t _ hc, ?_, fun _ => rfl⟩
    rw [State.coreAt_updCore_same]
  unfold State.stCounted
  dsimp only
  split
  · exact numbered
  · exact numbered.trans (cacheFrame_updHomes _ _ _ _ fun _ => rfl)

theorem homeByte_stCounted (t s : State) (through : Bool) (tags : BitVec 16) (l : Loc) :
    (t.stCounted s through tags).homeByte l = t.homeByte l := by
  unfold State.stCounted
  dsimp only
  split <;> rfl

theorem loadByte_stCounted (t s : State) (through : Bool) (tags : BitVec 16) (b : Nat × Leaf × Loc) :
    (t.stCounted s through tags).loadByte s.cur.slot b = t.loadByte s.cur.slot b := by
  refine loadByte_congr (homeByte_stCounted t s through tags _) ?_
  have numbered : ((t.updCore (coreOf s.cur.slot) fun c => { c with nextStore := s.myCore.nextStore + 1 }).coreAt
      (coreOf s.cur.slot)).dc = (t.coreAt (coreOf s.cur.slot)).dc := by rw [State.coreAt_updCore_same]
  unfold State.stCounted
  dsimp only
  split
  · exact numbered
  · exact numbered

theorem exec_st (ready : Ready s h [d, b] [])
    (acc : Accessible s (s.lsAddr b z o).toNat (accessBytes z) fun l => l.tier < 2 && l.write)
    (free : s.me.tagsFull (s.me.tagsOf [((s.lsAddr b z o).toNat, accessBytes z)]) = false)
    (copies : h.mod.getLsbD 0 = true → s.me.copiesDone = true) :
    exec (.st h d b z o) s = .next ((s.stDone h (s.lsAddr b z o).toNat (accessBytes z) (s.rg d).toNat).retire h) := by
  change execSt h d b z o s = _
  unfold execSt
  refine issueSeq_retires ready ?_
  have pass : ∀ l : Leaf, (decide (l.tier < 2) && l.write) = true → lsXl l = none ∧ stPr l = none := by
    intro l good
    simp only [Bool.and_eq_true, decide_eq_true_eq] at good
    have : l.tier ≠ 3 := by omega
    have : l.tier ≠ 2 := by omega
    simp [lsXl, stPr, good.2, *]
  have goes : ¬ (s.me.tagsFull (s.me.tagsOf [((s.lsAddr b z o).toNat, accessBytes z)]) ||
      (h.mod.getLsbD 0 && !s.me.copiesDone)) = true := by
    simpa [free] using copies
  dsimp only
  rw [access_ok acc pass]
  dsimp only
  rw [if_neg goes]
  rfl

/-- ST in order retires, has stored its bytes, and has changed no other byte of memory but by write-backs. -/
theorem st_stores {va n : Nat} (hva : (s.lsAddr b z o).toNat = va) (hn : accessBytes z = n) (ready : Ready s h [d, b] [])
    (acc : Accessible s va n fun l => l.tier < 2 && l.write) (free : s.me.tagsFull (s.me.tagsOf [(va, n)]) = false)
    (copies : h.mod.getLsbD 0 = true → s.me.copiesDone = true)
    (apart : ∀ i j, i < n → j < n → i ≠ j → s.locAt (va + i) ≠ s.locAt (va + j)) :
    ∃ t : State, exec (.st h d b z o) s = .next t ∧ Retired s t h s.cur.next none none ∧
      MemFrame s t (fun l => ∃ i, i < n ∧ l = s.locAt (va + i)) ∧
      ∀ i, i < n → BitVec.ofNat 8 ((s.rg d).toNat / 256 ^ i) =
        if cached (s.leafAt (va + i)) then t.viewByte (coreOf s.cur.slot) (s.locAt (va + i)) else t.homeByte (s.locAt (va + i)) := by
  subst hva hn
  let va := (s.lsAddr b z o).toNat
  let n := accessBytes z
  let bs := s.bytesAt va n
  let u := (s.stOut h).broughtIn s bs
  let y := s.stDone h va n (s.rg d).toNat
  have near : ∀ x ∈ bs, x.2.2.Near := by
    intro x hx
    obtain ⟨i, hi, rfl⟩ := mem_bytesAt.1 hx
    obtain ⟨-, good, -⟩ := acc.at (a := va + i) (by omega)
    simp only [Bool.and_eq_true, decide_eq_true_eq] at good
    exact near_locAt good.1
  have distinct : (bs.map fun x => x.2.2).Nodup := nodup_locs apart
  have kept : ∀ l : Loc, l.Near → ¬ (∃ i, i < n ∧ l = s.locAt (va + i)) → y.homeByte l = u.homeByte l := by
    intro l hl other
    refine (homeByte_stCounted _ s _ _ l).trans (homeByte_storeAll_ne near hl ?_ _ u)
    rintro x hx rfl
    obtain ⟨i, hi, rfl⟩ := mem_bytesAt.1 hx
    exact other ⟨i, hi, rfl⟩
  obtain ⟨retired, frame⟩ := ((moves_stOut _ s h).trans (moves_broughtIn _ _ s bs)).stores_retires (h := h)
    ((cacheFrame_storeAll near _ u).trans (cacheFrame_stCounted _ s _ _)) kept
  refine ⟨_, exec_st ready acc free copies, retired, frame, fun i hi => ?_⟩
  have retires : OnlyIssuer y (y.retire h) := retire_slotAs h (onlyIssuer_refl y) rfl rfl
  let byte : Nat × Leaf × Loc := (va + i, s.leafAt (va + i), s.locAt (va + i))
  have read : (y.retire h).loadByte s.cur.slot byte = y.loadByte s.cur.slot byte :=
    loadByte_congr (retires.package.homeByte _) (by rw [retires.package.coreAt])
  have shown := storeAll_shows (slot := s.cur.slot) (num := s.myCore.nextStore) (tags := s.me.tagsOf [(va, n)])
    (through := anySO bs) near distinct (leBytes n (s.rg d).toNat) u _ (mem_zip_bytesAt s va (s.rg d).toNat hi)
  exact (read.trans ((loadByte_stCounted _ s _ _ byte).trans shown.load)).symm

end

/-- Settles O36: the lines are brought in, each byte then reads as stored, and no other byte of memory changes. -/
theorem storesWriteMemory : Obligations.StoresWriteMemory := by
  unfold Obligations.StoresWriteMemory
  intro s h d b z o ready size n va acc free copies apart
  have bytes : accessBytes z = n := congrArg (2 ^ ·) (Nat.mod_eq_of_lt (by omega))
  exact st_stores (by rw [lsAddr_eq, bytes]) bytes ready acc free copies apart

end Sys2Proof

/-! The proof of the negation of O35. An LD reads after the lines of all its bytes have been brought in, and the line of one byte may by
then have made room for that of another (R97, R99, log 8). -/

namespace Sys2Proof

open Machine

/-! ### LD (R180) -/

section

variable {s : State} {h : Hdr} {d b : Reg} {z : BitVec 3} {o : BitVec 8}

/-- The number an LD reads, its lines brought in. -/
def Machine.State.ldNumber (s : State) (va n : Nat) : Nat :=
  leNat ((s.bytesAt va n).map ((s.broughtIn s (s.bytesAt va n)).ldByte s.cur.slot))

/-- The state an LD leaves before its acquire: its register written, a free value drawn. -/
def Machine.State.ldWritten (s : State) (d : Reg) (z : BitVec 3) (va n : Nat) : State :=
  { (s.broughtIn s (s.bytesAt va n)).wg d (extendLoad z (s.ldNumber va n)) with free := (s.broughtIn s (s.bytesAt va n)).free + 1 }

/-- The state an LD leaves, before it retires. -/
def Machine.State.ldDone (s : State) (h : Hdr) (d : Reg) (z : BitVec 3) (va n : Nat) : State :=
  if h.mod.getLsbD 0 then (s.ldWritten d z va n).acquireCache s.cur.slot (scopeLs h) false else s.ldWritten d z va n

theorem exec_ld (ready : Ready s h [d, b] [])
    (acc : Accessible s (s.lsAddr b z o).toNat (accessBytes z) fun l => l.tier != 3)
    (free : s.me.tagsFull (s.me.tagsOf [((s.lsAddr b z o).toNat, accessBytes z)]) = false) :
    exec (.ld h d b z o) s = .next ((s.ldDone h d z (s.lsAddr b z o).toNat (accessBytes z)).retire h) := by
  change execLd h d b z o s = _
  unfold execLd
  refine issueSeq_retires ready ?_
  have pass : ∀ l : Leaf, (l.tier != 3) = true → lsXl l = none ∧ (none : Option (BitVec 8)) = none :=
    fun l near => ⟨if_neg (by simpa using near), rfl⟩
  dsimp only
  rw [access_ok acc pass]
  dsimp only
  rw [if_neg (by simp [free])]
  rfl

theorem moves_ldDone (s : State) (h : Hdr) (d : Reg) (z : BitVec 3) (va n : Nat) :
    CacheMoves (coreOf s.cur.slot) (fun _ => False)
      ((s.broughtIn s (s.bytesAt va n)).wg d (extendLoad z (s.ldNumber va n))) (s.ldDone h d z va n) := by
  unfold State.ldDone
  split
  · exact (moves_free _ _ _ _).trans (moves_acquireCache _ _ _ _ _)
  · exact moves_free _ _ _ _

/-- LD in order retires with its register written, and changes no memory but by write-backs. -/
theorem ld_reads (ready : Ready s h [d, b] [])
    (acc : Accessible s (s.lsAddr b z o).toNat (accessBytes z) fun l => l.tier != 3)
    (free : s.me.tagsFull (s.me.tagsOf [((s.lsAddr b z o).toNat, accessBytes z)]) = false) :
    ∃ t : State, exec (.ld h d b z o) s = .next t ∧
      Retired s t h s.cur.next (some (d, extendLoad z (s.ldNumber (s.lsAddr b z o).toNat (accessBytes z)))) none ∧
      MemFrame s t (fun _ => False) :=
  ⟨_, exec_ld ready acc free, (moves_broughtIn _ s s _).wg_retires (moves_ldDone s h d z _ _)⟩

end

/-! ### A load across two lines of a full data cache -/

/-- A line that a core does not hold replaces the only line of a cache without room, whatever the choice (log 8). -/
theorem touchLine_replaces {s : State} {slot v : Nat} {b : Nat × Leaf × Loc} {x : DLine}
    (miss : s.hasLine (coreOf slot) (lineKey b.2.2) = false) (only : (s.coreAt (coreOf slot)).dc = [(v, x)])
    (full : (s.coreAt (coreOf slot)).capD = 0) :
    s.touchLine slot b =
      let t : State := { s.invalidate (coreOf slot) v with free := s.free + 1 }
      let ln : DLine := ⟨t.homeLine (lineKey b.2.2), false, b.2.1.kind == 2, 0, b.1 / 128 * 128, []⟩
      (t.updCore (coreOf slot) fun q => { q with dc := SMap.set q.dc {} (lineKey b.2.2) ln }).updCore (coreOf slot) fun q =>
        { q with dc := SMap.upd q.dc {} (lineKey b.2.2) fun l => { l with mask := l.mask ||| BitVec.twoPow 4 (placeOf slot) } } := by
  simp [State.touchLine, miss, only, full, Nat.mod_one]

theorem touchAll_cached {s : State} {slot : Nat} {b : Nat × Leaf × Loc} (r : List (Nat × Leaf × Loc)) (h : cached b.2.1 = true) :
    s.touchAll slot (b :: r) = (s.touchLine slot b).touchAll slot r := by
  rw [State.touchAll, if_pos h]

/-- A core whose eight data-cache banks are retired still holds the line it brought in last: that of 0x20000, clean, with ones where
the home has zeros. An LD of the two bytes at 0x2007F is in issue, of which the second lies in the next line. (A full cache of any
size may choose the line of the first byte likewise.) -/
def staleLine : State :=
  { State.reset with
    slots := [(0, { st := .solo })]
    tlb := [(tlbKey 0 16 0x20000, some { base := 0x100000 })]
    cores := [(0, { capD := 0, dc := [(0x4000, { data := BitVec.allOnes 1024, mask := 1, va := 0x20000 })] })]
    cur := { slot := 0, st := .a, pc := 0x10004, next := 0x10008, bundle := 0x10004,
             g := Vector.ofFn fun i => if i.val = 1 then 0x2007F else 0 } }

theorem staleLine_ready : Ready staleLine ⟨true, none⟩ [2, 1] [] := ⟨by decide, by decide, by decide⟩

theorem staleLine_accessible : Accessible staleLine 0x2007F 2 fun l => l.tier != 3 := by
  refine ⟨by decide, fun a h1 h2 => ?_⟩
  obtain rfl | rfl : a = 0x2007F ∨ a = 0x20080 := by omega
  · exact ⟨{ base := 0x100000 }, rfl, rfl, by decide, rfl⟩
  · exact ⟨{ base := 0x100000 }, rfl, rfl, by decide, rfl⟩

/-- The two bytes of that LD. -/
def firstByte : Nat × Leaf × Loc := (0x2007F, { base := 0x100000 }, ⟨0, 0, 0x10007F⟩)
def secondByte : Nat × Leaf × Loc := (0x20080, { base := 0x100000 }, ⟨0, 0, 0x100080⟩)

theorem staleLine_bytes : staleLine.bytesAt 0x2007F 2 = [firstByte, secondByte] := rfl

/-- The line of the first byte is gone when the load reads, so both bytes are those of the homes. -/
theorem staleLine_ldNumber : staleLine.ldNumber 0x2007F 2 = 0 := by
  unfold State.ldNumber State.broughtIn
  rw [staleLine_bytes, touchAll_cached _ (by decide), touchAll_cached _ (by decide),
    touchLine_replaces (b := secondByte) (v := 0x4000) (x := { data := BitVec.allOnes 1024, mask := 1, va := 0x20000 })
      (by decide +kernel) (by decide +kernel) (by decide +kernel)]
  decide +kernel

/-- Before the load the core sees ones in the first byte. -/
theorem staleLine_sees : staleLine.seesAt 0x2007F = 0xFF := by decide +kernel

/-- Refutes O35: the LD of `staleLine` reads the home of its first byte, whose line has made room for that of the second, and not the
byte the core saw in that line. -/
theorem not_loadsReadMemory : ¬ Obligations.LoadsReadMemory := by
  unfold Obligations.LoadsReadMemory
  intro claim
  obtain ⟨t, v, run, small, wrote, -, reads⟩ := claim staleLine ⟨true, none⟩ 2 1 1 0 staleLine_ready (by decide)
    staleLine_accessible (by decide)
  obtain ⟨t', run', wrote', -⟩ := ld_reads (s := staleLine) (h := ⟨true, none⟩) (d := 2) (b := 1) (z := 1) (o := 0)
    staleLine_ready staleLine_accessible (by decide)
  obtain rfl : t = t' := Host.Outcome.next.inj (run.symm.trans run')
  have number : staleLine.ldNumber (staleLine.lsAddr 1 1 0).toNat (accessBytes 1) = 0 := staleLine_ldNumber
  have register : BitVec.ofNat 64 v = extendLoad 1 0 := by
    have same := (wrote.regs 2).symm.trans (wrote'.regs 2)
    rw [number] at same
    exact same
  obtain rfl : v = 0 := by
    have small : v < 65536 := small
    have zero : v % 2 ^ 64 = 0 := congrArg BitVec.toNat register
    omega
  rcases reads 0 (by decide) (by decide +kernel) with seen | ⟨uncached, -⟩
  · have seen : 0 = (staleLine.seesAt 0x2007F).toNat := seen
    rw [staleLine_sees] at seen
    cases seen
  · cases uncached

end Sys2Proof

/-! The proofs of O10 to O14. The values of the scalar instructions, and the shapes in which they complete. -/

namespace Sys2Proof

open Machine

/-! ### Values of the register operations (R152) -/

theorem sub_eq_ofInt (x y : Word) : x - y = BitVec.ofInt 64 ((x.toNat : Int) - y.toNat) := by
  rw [Int.sub_eq_add_neg, BitVec.ofInt_add, BitVec.ofInt_neg, BitVec.ofInt_natCast, BitVec.ofInt_natCast,
    BitVec.ofNat_toNat, BitVec.ofNat_toNat, BitVec.setWidth_eq, BitVec.setWidth_eq, BitVec.sub_eq_add_neg]

theorem mul_eq_ofNat (x y : Word) : x * y = BitVec.ofNat 64 (x.toNat * y.toNat) := by
  apply BitVec.eq_of_toNat_eq
  rw [BitVec.toNat_mul, BitVec.toNat_ofNat]

theorem opDiv_eq (x y : Word) : opDiv x y = if y = 0 then BitVec.allOnes 64 else x.sdiv y := by
  have quotient : BitVec.ofInt 64 (x.toInt.tdiv y.toInt) = x.sdiv y := by
    apply BitVec.eq_of_toInt_eq
    rw [BitVec.toInt_ofInt, BitVec.toInt_sdiv]
  rw [opDiv, quotient]

theorem opDivu_eq (x y : Word) : opDivu x y = if y = 0 then BitVec.allOnes 64 else x / y := by
  rw [opDivu, ← BitVec.udiv_def]

theorem opRem_eq (x y : Word) : opRem x y = if y = 0 then x else x.srem y := by
  have remainder : BitVec.ofInt 64 (x.toInt - y.toInt * x.toInt.tdiv y.toInt) = x.srem y := by
    rw [← Int.tmod_def, ← BitVec.toInt_srem, BitVec.ofInt_toInt]
  rw [opRem, remainder]

theorem opRemu_eq (x y : Word) : opRemu x y = if y = 0 then x else x % y := by
  rw [opRemu, ← BitVec.umod_def]

theorem shAmt_eq (y : Word) : shAmt y = y.toNat % 64 := bits_zero y.toNat 6

theorem opShl_eq (x : Word) (n : Nat) : opShl x n = BitVec.ofNat 64 (x.toNat * 2 ^ n) := by
  apply BitVec.eq_of_toNat_eq
  rw [opShl, BitVec.toNat_shiftLeft, Nat.shiftLeft_eq, BitVec.toNat_ofNat]

theorem opShr_eq (x : Word) (n : Nat) : opShr x n = BitVec.ofNat 64 (x.toNat / 2 ^ n) := by
  apply BitVec.eq_of_toNat_eq
  rw [opShr, ← Nat.shiftRight_eq_div_pow, BitVec.toNat_ushiftRight, BitVec.toNat_ofNat, Nat.mod_eq_of_lt]
  exact Nat.lt_of_le_of_lt (Nat.shiftRight_le _ _) x.isLt

theorem opSar_eq (x : Word) (n : Nat) : opSar x n = BitVec.ofInt 64 (x.toInt / 2 ^ n) := by
  rw [opSar, BitVec.sshiftRight, Int.shiftRight_eq_div_pow, Int.natCast_pow, Int.cast_ofNat_Int]

theorem opRot_eq (x : Word) {n : Nat} (hn : n < 64) : opRot x n = x.rotateLeft n := by
  rw [opRot, BitVec.rotateLeft_def, Nat.mod_eq_of_lt hn]

theorem opMin_eq (x y : Word) : opMin x y = if x.toInt ≤ y.toInt then x else y := by
  simp only [opMin, BitVec.slt_iff_toInt_lt, ← not_lt, ite_not]

theorem opMinu_eq (x y : Word) : opMinu x y = if x.toNat ≤ y.toNat then x else y := by
  simp only [opMinu, BitVec.ult_iff_toNat_lt, ← not_lt, ite_not]

/-- Where the two are equal numbers either is the larger. -/
theorem opMax_eq (x y : Word) : opMax x y = if x.toInt ≤ y.toInt then y else x := by
  simp only [opMax, BitVec.slt_iff_toInt_lt]
  rcases lt_trichotomy x.toInt y.toInt with lt | eq | gt
  · rw [if_pos lt, if_pos lt.le]
  · rw [BitVec.toInt_inj.1 eq, ite_self, ite_self]
  · rw [if_neg gt.not_gt, if_neg gt.not_ge]

theorem opMaxu_eq (x y : Word) : opMaxu x y = if x.toNat ≤ y.toNat then y else x := by
  simp only [opMaxu, BitVec.ult_iff_toNat_lt]
  rcases lt_trichotomy x.toNat y.toNat with lt | eq | gt
  · rw [if_pos lt, if_pos lt.le]
  · rw [BitVec.toNat_inj.1 eq, ite_self, ite_self]
  · rw [if_neg gt.not_gt, if_neg gt.not_ge]

/-! ### The shapes of a computing instruction -/

section

variable {s : State} {h : Hdr} {named : List Reg} {i : Instr} {d a b : Reg} {v : Word}

/-- An instruction that writes `gD` with a value computed from what it reads at issue. -/
theorem writes_of_issue {ps : List PReg} {gs : List Reg} (f : State → State) (ready : Ready s h named ps) (hgs : gs ⊆ named)
    (hi : exec i s = s.issuePure h gs ps f) (hf : f s = s.wg d v) : Writes s i h d v := by
  unfold Writes Completes
  rw [hi]
  exact issuePure_writes f d v (ready.mono hgs (List.Subset.refl _)) hf

/-- gD := op(G(a), G(b)). -/
theorem alu_writes (op : Word → Word → Word) (ready : Ready s h [d, a, b] []) (hi : exec i s = s.alu h d a b op)
    (hv : op (s.rg a) (s.rg b) = v) : Writes s i h d v :=
  writes_of_issue _ ready (List.Subset.refl _) hi (congrArg (s.wg d) hv)

/-- gD := op(G(a), G(b)[5:0]), a shift. -/
theorem shift_writes (op : Word → Nat → Word) (ready : Ready s h [d, a, b] [])
    (hi : exec i s = s.alu h d a b fun x y => op x (shAmt y)) (hv : op (s.rg a) ((s.rg b).toNat % 64) = v) :
    Writes s i h d v :=
  alu_writes _ ready hi ((congrArg (op (s.rg a)) (shAmt_eq (s.rg b))).trans hv)

/-- gD := op(G(a)). -/
theorem alu1_writes (op : Word → Word) (ready : Ready s h named []) (hgs : [d, a] ⊆ named) (hi : exec i s = s.alu1 h d a op)
    (hv : op (s.rg a) = v) : Writes s i h d v :=
  writes_of_issue _ ready hgs hi (congrArg (s.wg d) hv)

end

/-- Settles O10: each instruction writes its operation's value, which is that of R152 on numbers. -/
theorem registerArithmetic : Obligations.RegisterArithmetic := by
  unfold Obligations.RegisterArithmetic
  intro s h d a b p ready
  dsimp only
  have small : (s.rg b).toNat % 64 < 64 := Nat.mod_lt _ (by decide)
  exact ⟨alu_writes (· + ·) ready rfl (BitVec.add_def _ _), alu_writes (· - ·) ready rfl (sub_eq_ofInt _ _),
    alu_writes (· * ·) ready rfl (mul_eq_ofNat _ _), alu_writes opMulh ready rfl rfl, alu_writes opMulhu ready rfl rfl,
    alu_writes opDiv ready rfl (opDiv_eq _ _), alu_writes opDivu ready rfl (opDivu_eq _ _),
    alu_writes opRem ready rfl (opRem_eq _ _), alu_writes opRemu ready rfl (opRemu_eq _ _),
    alu_writes (· &&& ·) ready rfl rfl, alu_writes (· ||| ·) ready rfl rfl, alu_writes (· ^^^ ·) ready rfl rfl,
    alu_writes opAndn ready rfl rfl, shift_writes opShl ready rfl (opShl_eq _ _), shift_writes opShr ready rfl (opShr_eq _ _),
    shift_writes opSar ready rfl (opSar_eq _ _), shift_writes opRot ready rfl (opRot_eq _ small),
    alu_writes opMin ready rfl (opMin_eq _ _), alu_writes opMax ready rfl (opMax_eq _ _),
    alu_writes opMinu ready rfl (opMinu_eq _ _), alu_writes opMaxu ready rfl (opMaxu_eq _ _), fun ready =>
      writes_of_issue (fun t => t.wg d (if t.rp p then t.rg a else t.rg b)) ready (List.Subset.refl _) rfl rfl⟩

/-! ### Immediate forms and constants (R153, R154, R158) -/

theorem add_imm11 (x : Word) (i : BitVec 11) : x + imm11 i = BitVec.ofInt 64 (x.toInt + i.toInt) := by
  rw [BitVec.ofInt_add, BitVec.ofInt_toInt]
  rfl

theorem li_value (lo hi : BitVec 32) :
    hi.setWidth 64 <<< 32 ||| lo.setWidth 64 = BitVec.ofNat 64 (lo.toNat + 2 ^ 32 * hi.toNat) := by
  have low : lo.toNat < 2 ^ 32 := lo.isLt
  have high : hi.toNat < 2 ^ 32 := hi.isLt
  have high64 : hi.toNat % 2 ^ 64 = hi.toNat := by omega
  have low64 : lo.toNat % 2 ^ 64 = lo.toNat := by omega
  have shifted : 2 ^ 32 * hi.toNat % 2 ^ 64 = 2 ^ 32 * hi.toNat := by omega
  apply BitVec.eq_of_toNat_eq
  rw [BitVec.toNat_or, BitVec.toNat_shiftLeft, BitVec.toNat_setWidth, BitVec.toNat_setWidth, BitVec.toNat_ofNat,
    high64, low64, Nat.shiftLeft_eq, Nat.mul_comm, shifted, ← Nat.two_pow_add_eq_or_of_lt low, Nat.add_comm]
  omega

/-- Settles O11: each instruction writes its operation's value with the immediate it carries. -/
theorem immediateArithmetic : Obligations.ImmediateArithmetic := by
  unfold Obligations.ImmediateArithmetic
  intro s h d a i n lo hi ready
  dsimp only
  have named : [d, a] ⊆ [d, a] := List.Subset.refl _
  exact ⟨alu1_writes (· + imm11 i) ready named rfl (add_imm11 _ _), alu1_writes (· &&& imm11 i) ready named rfl rfl,
    alu1_writes (· ||| imm11 i) ready named rfl rfl, alu1_writes (· ^^^ imm11 i) ready named rfl rfl,
    alu1_writes (opShl · n.toNat) ready named rfl (opShl_eq _ _), alu1_writes (opShr · n.toNat) ready named rfl (opShr_eq _ _),
    alu1_writes (opSar · n.toNat) ready named rfl (opSar_eq _ _), alu1_writes (opRot · n.toNat) ready named rfl (opRot_eq _ n.isLt),
    writes_of_issue (gs := [d]) (fun t => t.wg d (hi.setWidth 64 <<< 32 ||| lo.setWidth 64)) ready (by simp) rfl
      (congrArg (s.wg d) (li_value lo hi))⟩

/-! ### Bit fields and counts (R156) -/

theorem clzFrom_le (x : Word) (n : Nat) : clzFrom x n ≤ n := by
  induction n with
  | zero => exact Nat.le_refl 0
  | succ n ih =>
    unfold clzFrom
    split
    · exact Nat.zero_le _
    · exact Nat.succ_le_succ ih

/-- The bits counted are zero. -/
theorem clzFrom_zeros (x : Word) (n i : Nat) (hi : n - clzFrom x n ≤ i) (hn : i < n) : x.getLsbD i = false := by
  induction n with
  | zero => exact absurd hn (Nat.not_lt_zero i)
  | succ n ih =>
    unfold clzFrom at hi
    split at hi
    · omega
    · next top =>
      rcases Nat.lt_succ_iff_lt_or_eq.1 hn with below | rfl
      · exact ih (by omega) below
      · exact Bool.not_eq_true _ ▸ top

/-- The bit at which the count stops is set. -/
theorem clzFrom_stops (x : Word) (n : Nat) (h : clzFrom x n < n) : x.getLsbD (n - 1 - clzFrom x n) = true := by
  induction n with
  | zero => exact absurd h (Nat.not_lt_zero _)
  | succ n ih =>
    unfold clzFrom at h ⊢
    split at h
    · next top => simp [top]
    · next top =>
      have inner := ih (by omega)
      rw [if_neg top]
      rwa [show n + 1 - 1 - (clzFrom x n + 1) = n - 1 - clzFrom x n by omega]

theorem popFrom_eq (x : Word) (n : Nat) : popFrom x n = (List.range n).countP fun i => x.getLsbD i := by
  induction n with
  | zero => rfl
  | succ n ih =>
    rw [popFrom, ih, List.range_succ, List.countP_append, Nat.add_comm]
    cases bit : x.getLsbD n <;> simp [bit]

/-- The field 0, 1 or 2 of SEXT and ZEXT names 8, 16 or 32 bits. -/
theorem opSext_eq (x : Word) (k : Fin 3) :
    opSext x (BitVec.ofNat 5 k) = (x.setWidth (2 ^ (k.val + 3))).signExtend 64 := by
  match k with
  | 0 => exact congrArg (BitVec.signExtend 64) (BitVec.setWidth_eq_extractLsb' (w := 8) (by decide)).symm
  | 1 => exact congrArg (BitVec.signExtend 64) (BitVec.setWidth_eq_extractLsb' (w := 16) (by decide)).symm
  | 2 => exact congrArg (BitVec.signExtend 64) (BitVec.setWidth_eq_extractLsb' (w := 32) (by decide)).symm

theorem lowBits_eq_ofNat (x : Word) (w : Nat) : (x.extractLsb' 0 w).setWidth 64 = BitVec.ofNat 64 (x.toNat % 2 ^ w) := by
  apply BitVec.eq_of_toNat_eq
  simp

theorem opZext_eq (x : Word) (k : Fin 3) :
    opZext x (BitVec.ofNat 5 k) = BitVec.ofNat 64 (x.toNat % 2 ^ 2 ^ (k.val + 3)) := by
  match k with
  | 0 => exact lowBits_eq_ofNat x 8
  | 1 => exact lowBits_eq_ofNat x 16
  | 2 => exact lowBits_eq_ofNat x 32

theorem bfLsb_eq (v : Word) : bfLsb v = v.toNat % 64 := bits_zero v.toNat 6

theorem bfWidth_eq (v : Word) : bfWidth v = if v.toNat / 256 % 64 = 0 then 64 else v.toNat / 256 % 64 := rfl

/-- BFI bit by bit. -/
theorem getLsbD_opBfi (d x spec : Word) {i : Nat} (hi : i < 64) : (opBfi d x spec).getLsbD i =
    if bfLsb spec ≤ i ∧ i < bfLsb spec + bfWidth spec then x.getLsbD (i - bfLsb spec) else d.getLsbD i := by
  have mask : (bfMask spec).getLsbD i = decide (bfLsb spec ≤ i ∧ i < bfLsb spec + bfWidth spec) := by
    rw [bfMask, BitVec.getLsbD_ofNat, Nat.testBit_mul_two_pow, Nat.testBit_two_pow_sub_one, decide_eq_true hi,
      Bool.true_and, ← Bool.decide_and, decide_eq_decide]
    omega
  rw [opBfi, BitVec.getLsbD_or, BitVec.getLsbD_and, BitVec.getLsbD_and, BitVec.getLsbD_not, mask, BitVec.getLsbD_shiftLeft]
  split
  · next inside => simp [inside, hi]
  · next outside => simp [outside, hi]

/-- Settles O13: each instruction writes its operation's value, and that value is what R156 says bit by bit. -/
theorem bitFieldOperations : Obligations.BitFieldOperations := by
  unfold Obligations.BitFieldOperations
  intro s h d a b ready
  dsimp only
  have named : [d, a] ⊆ [d, a, b] := by simp
  have lsb := bfLsb_eq (s.rg b)
  have width := bfWidth_eq (s.rg b)
  refine ⟨⟨clzFrom (s.rg a) 64, clzFrom_le _ _, fun i hi => ?_, clzFrom_stops _ 64, alu1_writes opClz ready named rfl rfl⟩,
    alu1_writes opPopc ready named rfl (congrArg (BitVec.ofNat 64) (popFrom_eq _ 64)),
    fun k => alu1_writes (opSext · (BitVec.ofNat 5 k)) ready named rfl (opSext_eq _ k),
    fun k => alu1_writes (opZext · (BitVec.ofNat 5 k)) ready named rfl (opZext_eq _ k),
    alu_writes opBfx ready rfl ?_, opBfi (s.rg d) (s.rg a) (s.rg b), fun i hi => ?_,
    writes_of_issue (fun t => t.wg d (opBfi (t.rg d) (t.rg a) (t.rg b))) ready (List.Subset.refl _) rfl rfl⟩
  · rcases Nat.lt_or_ge i 64 with below | beyond
    · exact clzFrom_zeros _ 64 i hi below
    · exact BitVec.getLsbD_of_ge _ i beyond
  · rw [opBfx, lsb, width]
  · rw [getLsbD_opBfi _ _ _ hi, lsb, width]

/-! ### Comparisons and predicates (R155, R157) -/

theorem not_slt_eq (x y : Word) : (!x.slt y) = decide (x.toInt ≥ y.toInt) := by
  rw [BitVec.slt_eq_decide, ← decide_not, decide_eq_decide, not_lt]

theorem not_ult_eq (x y : Word) : (!x.ult y) = decide (x.toNat ≥ y.toNat) := by
  rw [BitVec.ult_eq_decide, ← decide_not, decide_eq_decide, not_lt]

/-- The conditions of R155 on numbers. -/
theorem condHolds_eq (x y : Word) {c : Nat} (hc : c ≤ 9) : condHolds c x y =
    if c = 0 then decide (x = y)
    else if c = 1 then decide (x ≠ y)
    else if c = 2 then decide (x.toInt < y.toInt)
    else if c = 3 then decide (x.toInt ≥ y.toInt)
    else if c = 4 then decide (x.toInt > y.toInt)
    else if c = 5 then decide (x.toInt ≤ y.toInt)
    else if c = 6 then decide (x.toNat < y.toNat)
    else if c = 7 then decide (x.toNat ≥ y.toNat)
    else if c = 8 then decide (x.toNat > y.toNat)
    else decide (x.toNat ≤ y.toNat) := by
  match c, hc with
  | 0, _ => exact beq_eq_decide x y
  | 1, _ => exact (congrArg (!·) (beq_eq_decide x y)).trans (decide_not (p := x = y)).symm
  | 2, _ => exact BitVec.slt_eq_decide
  | 3, _ => exact not_slt_eq x y
  | 4, _ => exact BitVec.slt_eq_decide
  | 5, _ => exact not_slt_eq y x
  | 6, _ => exact BitVec.ult_eq_decide
  | 7, _ => exact not_ult_eq x y
  | 8, _ => exact BitVec.ult_eq_decide
  | 9, _ => exact not_ult_eq y x
  | n + 10, hc => omega

/-- An instruction that writes `pD` with a value computed from what it reads at issue. -/
theorem writesP_of_issue {s : State} {h : Hdr} {i : Instr} {p : PReg} {v : Bool} {gs named : List Reg} {ps namedP : List PReg}
    (f : State → State) (ready : Ready s h named namedP) (hgs : gs ⊆ named) (hps : ps ⊆ namedP)
    (hi : exec i s = s.issuePure h gs ps f) (hf : f s = s.wp p v) : WritesP s i h p v := by
  unfold WritesP Completes
  rw [hi]
  exact issuePure_writesP f p v (ready.mono hgs hps) hf

/-- Settles O12: CMP and CMPI write the truth of `condHolds`, whose code the field holds whole. -/
theorem comparisons : Obligations.Comparisons := by
  unfold Obligations.Comparisons
  intro s h p a b i ready
  dsimp only
  intro c hc
  have code6 : (BitVec.ofNat 6 c).toNat = c := by rw [BitVec.toNat_ofNat]; omega
  have code4 : (BitVec.ofNat 4 c).toNat = c := by rw [BitVec.toNat_ofNat]; omega
  refine ⟨writesP_of_issue (gs := [a, b]) (fun t => t.wp p (condHolds (BitVec.ofNat 6 c).toNat (t.rg a) (t.rg b))) ready
      (List.Subset.refl _) (List.Subset.refl _) rfl (congrArg (s.wp p) ?_),
    writesP_of_issue (gs := [a]) (fun t => t.wp p (condHolds (BitVec.ofNat 4 c).toNat (t.rg a) (imm7 i))) ready
      (by simp) (List.Subset.refl _) rfl (congrArg (s.wp p) ?_)⟩
  · rw [code6, condHolds_eq _ _ hc]
  · rw [code4, condHolds_eq _ _ hc]
    rfl

/-- Settles O14: each instruction writes its operation of the predicates it reads. -/
theorem predicateOperations : Obligations.PredicateOperations := by
  unfold Obligations.PredicateOperations
  intro s h d a b ready
  dsimp only
  have none : [] ⊆ ([] : List Reg) := List.Subset.refl _
  have all : [d, a, b] ⊆ [d, a, b] := List.Subset.refl _
  have two : [d, a] ⊆ [d, a, b] := by simp
  exact ⟨writesP_of_issue (fun t => t.wp d (t.rp a && t.rp b)) ready none all rfl rfl,
    writesP_of_issue (fun t => t.wp d (t.rp a || t.rp b)) ready none all rfl rfl,
    writesP_of_issue (fun t => t.wp d (t.rp a ^^ t.rp b)) ready none all rfl rfl,
    writesP_of_issue (fun t => t.wp d (!t.rp a)) ready none two rfl rfl,
    writesP_of_issue (fun t => t.wp d (t.rp a)) ready none two rfl rfl⟩

end Sys2Proof

/-! The proofs of O15 to O17. Branches and LOOP. -/

namespace Sys2Proof

open Machine

/-! ### Bodies that change the place of the next instruction or the loop buffer -/

/-- The sequencer in issue with another loop buffer (R145). -/
def Machine.State.withLoop (s : State) (lb : LoopBuf) : State :=
  s.updSeq s.cur.slot s.cur.st fun q => { q with loop := lb }

theorem wrote_withLoop (s : State) (lb : LoopBuf) : Body.Wrote s (s.withLoop lb) none none := by
  have e : (s.withLoop lb).mySeq = { s.mySeq with loop := lb } := mySeq_updSeq s _
  have me : (s.withLoop lb).me = s.me.updSeq s.cur.st fun q => { q with loop := lb } := State.slotAt_updSlot_same s _ _
  exact ⟨rfl, rfl, by rw [me, tok_updSeq], fun r => congrArg (·.rd r) e, fun r => congrArg (·.rdP r) e, congrArg (·.awG) e,
    congrArg (·.awP) e, congrArg (·.issued) e, congrArg (·.held) e⟩

theorem wrote_jump (s : State) (target : Word) : Body.Wrote s (s.jump target) none none :=
  ⟨rfl, rfl, rfl, fun _ => rfl, fun _ => rfl, rfl, rfl, rfl, rfl⟩

theorem onlyIssuer_jump (s : State) (target : Word) : OnlyIssuer s (s.jump target) := ⟨⟨rfl, fun _ _ => rfl⟩, rfl, fun _ _ => rfl⟩

theorem onlyIssuer_withLoop (s : State) (lb : LoopBuf) : OnlyIssuer s (s.withLoop lb) := onlyIssuer_updSeq s _

/-- A computing instruction that makes `u` of the state goes on where `u` says. -/
theorem issuePure_done {s u : State} {h : Hdr} {gs : List Reg} {ps : List PReg} {f : State → State}
    {g : Option (Reg × Word)} {p : Option (PReg × Bool)} {k : Slot} (ready : Ready s h gs ps) (e : f s = u)
    (w : Body.Wrote s u g p) (o : SlotAs s u k) :
    ∃ t, s.issuePure h gs ps f = .next t ∧ Retired s t h u.cur.next g p ∧ SlotAs s t k :=
  issueSeq_done ready (congrArg Body.done e) w o

section

variable {s : State} {h : Hdr} {p : PReg} {neg : Bool} {off : BitVec 13} {syl : BitVec 4} {d a c : Reg}

/-! ### Conditional branches (R137, R159) -/

theorem br_passes (ready : Ready s h [] [p]) (passed : s.rp p = neg) : Completes s (.br h p neg off syl) h s.cur.next none none := by
  change ∃ t, execBr h p neg off syl s = .next t ∧ _
  unfold execBr
  refine issuePure_done ready ?_ (wrote_refl s) (onlyIssuer_refl s)
  rw [if_neg (by simpa using passed)]

theorem br_branches (ready : Ready s h [] [p]) (taken : s.rp p ≠ neg) :
    Completes s (.br h p neg off syl) h (s.target off syl) none none := by
  change ∃ t, execBr h p neg off syl s = .next t ∧ _
  unfold execBr
  refine issuePure_done (u := s.branch (s.target off syl)) ready ?_ (wrote_branch _ _) (onlyIssuer_branch _ _)
  rw [if_pos (by simpa using taken)]

theorem brl_passes (ready : Ready s h [31] [p]) (passed : s.rp p = neg) :
    Completes s (.brl h p neg off syl) h s.cur.next none none := by
  change ∃ t, execBrl h p neg off syl s = .next t ∧ _
  unfold execBrl
  refine issuePure_done ready ?_ (wrote_refl s) (onlyIssuer_refl s)
  rw [if_neg (by simpa using passed)]

theorem wrote_link (s : State) (d : Reg) (target : Word) :
    Body.Wrote s ((s.wg d s.cur.next).branch target) (some (d, s.cur.next)) none :=
  (wrote_wg s d _).andThen (wrote_branch _ _)

theorem onlyIssuer_link (s : State) (d : Reg) (target : Word) : OnlyIssuer s ((s.wg d s.cur.next).branch target) :=
  (onlyIssuer_updSeq s _).trans (onlyIssuer_branch _ _) rfl rfl

theorem brl_links (ready : Ready s h [31] [p]) (taken : s.rp p ≠ neg) :
    Completes s (.brl h p neg off syl) h (s.target off syl) (some (31, s.cur.next)) none := by
  change ∃ t, execBrl h p neg off syl s = .next t ∧ _
  unfold execBrl
  refine issuePure_done (u := (s.wg 31 s.cur.next).branch (s.target off syl)) ready ?_ (wrote_link _ _ _) (onlyIssuer_link _ _ _)
  rw [if_pos (by simpa using taken)]

/-! ### Branches to a register (R160) -/

theorem jmpr_branches (ready : Ready s h [a] []) : Completes s (.jmpr h a) h (s.rg a) none none :=
  issuePure_done (f := fun t => t.branch (t.rg a)) ready rfl (wrote_branch _ _) (onlyIssuer_branch _ _)

theorem ret_branches (ready : Ready s h [a] []) : Completes s (.ret h a) h (s.rg a) none none :=
  issuePure_done (f := fun t => t.branch (t.rg a)) ready rfl (wrote_branch _ _) (onlyIssuer_branch _ _)

theorem call_links (ready : Ready s h [d, a] []) : Completes s (.call h d a) h (s.rg a) (some (d, s.cur.next)) none :=
  issuePure_done (f := fun t => (t.wg d t.cur.next).branch (t.rg a)) ready rfl (wrote_link _ _ _) (onlyIssuer_link _ _ _)

/-! ### LOOP (R161) -/

theorem loop_zero (ready : Ready s h [c] []) (zero : s.rg c = 0) : Completes s (.loop h c off syl) h s.cur.next none none := by
  change ∃ t, execLoop h c off syl s = .next t ∧ _
  unfold execLoop
  refine issuePure_done (u := s.withLoop {}) ready ?_ (wrote_withLoop _ _) (onlyIssuer_withLoop _ _)
  exact if_pos zero

/-- The state in which the count of LOOP has gone down and the loop buffer is `lb`. -/
def Machine.State.counted (s : State) (c : Reg) (lb : LoopBuf) : State := (s.wg c (s.rg c - 1)).withLoop lb

theorem wrote_counted (s : State) (c : Reg) (lb : LoopBuf) : Body.Wrote s (s.counted c lb) (some (c, s.rg c - 1)) none :=
  (wrote_wg s c _).andThen (wrote_withLoop _ _)

theorem onlyIssuer_counted (s : State) (c : Reg) (lb : LoopBuf) : OnlyIssuer s (s.counted c lb) :=
  (onlyIssuer_updSeq s _).trans (onlyIssuer_withLoop _ _) rfl rfl

theorem loop_last (ready : Ready s h [c] []) (nonzero : s.rg c ≠ 0) (last : s.rg c - 1 = 0) :
    Completes s (.loop h c off syl) h s.cur.next (some (c, s.rg c - 1)) none := by
  change ∃ t, execLoop h c off syl s = .next t ∧ _
  unfold execLoop
  refine issuePure_done (u := s.counted c {}) ready ?_ (wrote_counted _ _ _) (onlyIssuer_counted _ _ _)
  exact (if_neg nonzero).trans (if_pos last)

theorem loop_again (ready : Ready s h [c] []) (nonzero : s.rg c ≠ 0) (more : s.rg c - 1 ≠ 0) :
    Completes s (.loop h c off syl) h (s.target off syl) (some (c, s.rg c - 1)) none := by
  change ∃ t, execLoop h c off syl s = .next t ∧ _
  unfold execLoop
  let lb := s.capture s.cur.slot s.cur.st s.cur.pc (s.target off syl)
  refine issuePure_done (u := (s.counted c lb).jump (s.target off syl)) ready ?_ ((wrote_counted _ _ _).andThen (wrote_jump _ _))
    ((onlyIssuer_counted _ _ _).trans (onlyIssuer_jump _ _) rfl rfl)
  exact (if_neg nonzero).trans (if_neg more)

end

/-- Settles O15: the target is the model's, written as an integer, and each branch passes or is taken. -/
theorem conditionalBranches : Obligations.ConditionalBranches := by
  unfold Obligations.ConditionalBranches
  intro s h p neg off syl ready
  simp only [← branchTarget_eq_ofInt]
  have readyP : Ready s h [] [p] := ready.mono (List.nil_subset _) (List.Subset.refl _)
  split
  · next passed => exact ⟨br_passes readyP passed, brl_passes ready passed⟩
  · next taken => exact ⟨br_branches readyP taken, brl_links ready taken⟩

/-- Settles O16: the target is read at issue, so before CALL writes `gD`. -/
theorem registerBranches : Obligations.RegisterBranches := by
  unfold Obligations.RegisterBranches
  intro s h d a ready
  have readyA : Ready s h [a] [] := ready.mono (by simp) (List.Subset.refl _)
  exact ⟨jmpr_branches readyA, ret_branches readyA, call_links ready⟩

/-- Settles O17: by whether the count is zero, goes down to zero, or goes down to another. -/
theorem loopCounts : Obligations.LoopCounts := by
  unfold Obligations.LoopCounts
  intro s h c off syl ready
  simp only [← branchTarget_eq_ofInt]
  split
  · next zero => exact loop_zero ready zero
  · next nonzero =>
    split
    · next one =>
      have last : s.rg c - 1 = 0 := by rw [one]; rfl
      rw [← last]
      exact loop_last ready nonzero last
    · next notOne =>
      have more : s.rg c - 1 ≠ 0 := by bv_omega
      have count : BitVec.ofNat 64 ((s.rg c).toNat - 1) = s.rg c - 1 := by bv_omega
      rw [count]
      exact loop_again ready nonzero more

end Sys2Proof

/-! The proofs of O21 and O22. The user handler: the way in by TRAP, the way out by ERET, and BREAK. -/

namespace Sys2Proof

open Machine

/-! ### The fields of `%fault.info` (R177) -/

theorem or_eq_add_of_lt {u k : Nat} (v : Nat) (h : u < 2 ^ k) : u ||| v * 2 ^ k = u + v * 2 ^ k := by
  rw [Nat.or_comm, Nat.mul_comm, ← Nat.two_pow_add_eq_or_of_lt h, Nat.add_comm]

theorem toNat_fieldAt {w k : Nat} (x : BitVec w) (fits : w + k ≤ 64) : (x.setWidth 64 <<< k).toNat = x.toNat * 2 ^ k := by
  have small : x.toNat * 2 ^ k < 2 ^ 64 := calc
    x.toNat * 2 ^ k < 2 ^ w * 2 ^ k := Nat.mul_lt_mul_of_pos_right x.isLt (Nat.two_pow_pos k)
    _ = 2 ^ (w + k) := (Nat.pow_add 2 w k).symm
    _ ≤ 2 ^ 64 := Nat.pow_le_pow_right (by decide) fits
  have narrow : x.toNat < 2 ^ 64 := Nat.lt_of_le_of_lt (Nat.le_mul_of_pos_right _ (Nat.two_pow_pos k)) small
  rw [BitVec.toNat_shiftLeft, BitVec.toNat_setWidth, Nat.mod_eq_of_lt narrow, Nat.shiftLeft_eq, Nat.mod_eq_of_lt small]

/-- The fields of `%fault.info` lie side by side. -/
theorem toNat_faultInfo (t : Trap) : (faultInfo t).toNat =
    t.reason.toNat + t.source.toNat * 2 ^ 8 + t.async.toNat * 2 ^ 11 + t.code.toNat * 2 ^ 16 + t.itag.toNat * 2 ^ 32 := by
  have reason : t.reason.toNat < 2 ^ 8 := t.reason.isLt
  have source : t.source.toNat < 2 ^ 3 := t.source.isLt
  have code : t.code.toNat < 2 ^ 16 := t.code.isLt
  have async : t.async.toNat ≤ 1 := Bool.toNat_le _
  have asyncBit : ((if t.async then 1 else 0 : Word) <<< 11).toNat = t.async.toNat * 2 ^ 11 := by cases t.async <;> rfl
  have reasonBits : (t.reason.setWidth 64).toNat = t.reason.toNat := by
    rw [BitVec.toNat_setWidth, Nat.mod_eq_of_lt (by omega)]
  rw [faultInfo, BitVec.toNat_or, BitVec.toNat_or, BitVec.toNat_or, BitVec.toNat_or, reasonBits, asyncBit,
    toNat_fieldAt _ (by decide), toNat_fieldAt _ (by decide), toNat_fieldAt _ (by decide),
    or_eq_add_of_lt t.source.toNat reason, or_eq_add_of_lt t.async.toNat (by omega), or_eq_add_of_lt t.code.toNat (by omega),
    or_eq_add_of_lt t.itag.toNat (by omega)]

/-- Each field of `%fault.info` reads back. -/
theorem faultInfo_fields (t : Trap) : (faultInfo t).extractLsb' 0 8 = t.reason ∧ (faultInfo t).extractLsb' 8 3 = t.source ∧
    (faultInfo t).getLsbD 11 = t.async ∧ (faultInfo t).extractLsb' 16 16 = t.code ∧ (faultInfo t).extractLsb' 32 8 = t.itag := by
  have info := toNat_faultInfo t
  have reason : t.reason.toNat < 2 ^ 8 := t.reason.isLt
  have source : t.source.toNat < 2 ^ 3 := t.source.isLt
  have code : t.code.toNat < 2 ^ 16 := t.code.isLt
  have itag : t.itag.toNat < 2 ^ 8 := t.itag.isLt
  have async : t.async.toNat ≤ 1 := Bool.toNat_le _
  refine ⟨?_, ?_, ?_, ?_, ?_⟩
  · apply BitVec.eq_of_toNat_eq
    rw [BitVec.extractLsb'_toNat, Nat.shiftRight_eq_div_pow]
    omega
  · apply BitVec.eq_of_toNat_eq
    rw [BitVec.extractLsb'_toNat, Nat.shiftRight_eq_div_pow]
    omega
  · rw [BitVec.getLsbD, Nat.testBit_eq_decide_div_mod_eq]
    have bit : (faultInfo t).toNat / 2 ^ 11 % 2 = t.async.toNat := by omega
    rw [bit]
    cases t.async <;> rfl
  · apply BitVec.eq_of_toNat_eq
    rw [BitVec.extractLsb'_toNat, Nat.shiftRight_eq_div_pow]
    omega
  · apply BitVec.eq_of_toNat_eq
    rw [BitVec.extractLsb'_toNat, Nat.shiftRight_eq_div_pow]
    omega

/-! ### Into the handler (R170, R171) -/

/-- A slot that stops waiting withdraws its arrivals, which changes synchronisation objects alone. -/
theorem withdraw_onlySync (s : State) (slot : Nat) : OnlySync s (s.withdraw slot) := by
  unfold State.withdraw
  refine OnlySync.foldl (fun t e => ?_) _ _
  split
  · exact (show OnlySync t (t.setGroup _ _) from rfl).trans (showGroup_onlySync _ _)
  · rfl

/-- A fault of A-seq that is routed is delivered to the user handler (R170). -/
theorem issueFault_a_handled {s : State} (ha : s.cur.st = .a) (b : Bad) (code : BitVec 16) (ret : Word)
    (routed : s.me.routes b.cause = true) :
    Handled s (s.issueFault b code ret)
      { cause := b.cause, reason := b.reason, addr := b.addr, pc := s.cur.pc, source := 0, code := code } ret := by
  let tr : Trap := { cause := b.cause, reason := b.reason, addr := b.addr, pc := s.cur.pc, source := 0, code := code }
  let left : State := (s.leaveWaits s.cur.slot).withdraw s.cur.slot
  have sync : OnlySync s left := (show OnlySync s (s.leaveWaits _) from rfl).trans (withdraw_onlySync _ _)
  have taken : s.issueFault b code ret = (left.updSlot s.cur.slot fun k => k.enterHandler tr ret).faulted := by
    simp only [State.issueFault, ha]
    exact congrArg State.faulted (takeFault_routed s s.cur.slot tr ret routed)
  have slot : (s.issueFault b code ret).slotOf s = s.me.enterHandler tr ret := by
    have same : left.slotAt s.cur.slot = s.me := congrArg (fun k => SMap.get k ({} : Slot) s.cur.slot) sync.slots
    rw [taken]
    refine (State.slotAt_updSlot_same left s.cur.slot fun k => k.enterHandler tr ret).trans ?_
    rw [same]
  obtain ⟨fault, entry, held⟩ := enterHandler_saves s.me tr ret
  obtain ⟨ag, ap, x, -⟩ := enterHandler_keeps s.me tr ret
  obtain ⟨reason, source, async, trapCode, itag⟩ := faultInfo_fields tr
  rw [← slot] at fault entry held ag ap x
  have mem : left.mem = s.mem := congrArg (·.mem) sync
  have host : left.host = s.host := congrArg (·.host) sync
  have cores : left.cores = s.cores := congrArg (·.cores) sync
  refine ⟨by rw [taken]; rfl, by rw [fault], by rw [fault], by rw [fault], by rw [fault, reason], by rw [fault, source],
    by rw [fault, async], by rw [fault, trapCode], by rw [fault, itag], by rw [fault], by rw [fault], held, entry,
    fun st r => ?_, fun st r => ?_, by rw [taken]; exact ⟨mem, host, cores⟩⟩
  · cases st with
    | a => exact rd_congr ag r
    | x => exact congrArg (·.rd r) x
  · cases st with
    | a => exact rdP_congr ap r
    | x => exact congrArg (·.rdP r) x

theorem exec_trap {s : State} {h : Hdr} {code : BitVec 16} (ready : Ready s h [] []) :
    exec (.trap h code) s = .next (s.issueFault ⟨cTRAP, 0, 0⟩ code s.cur.next) := by
  change execTrap h code s = _
  rw [execTrap, gate_open ready]

/-- Settles O21: TRAP raises its cause at issue, with Next as the address of return. -/
theorem trapEntersHandler : Obligations.TrapEntersHandler := by
  unfold Obligations.TrapEntersHandler
  intro s h code ready ha routed
  exact ⟨_, exec_trap ready, issueFault_a_handled ha ⟨cTRAP, 0, 0⟩ code s.cur.next routed⟩

/-! ### Out of the handler, and BREAK (R172, R173) -/

theorem leaveHandler_tok (k : Slot) : k.leaveHandler.tok = k.tok := by
  unfold Slot.leaveHandler Slot.returnAside
  dsimp only
  (repeat' split) <;> rfl

theorem leaveHandler_seq (k : Slot) (st : Stream) : k.leaveHandler.seq st = k.seq st := by
  obtain ⟨-, a, x⟩ := leaveHandler_fault k
  cases st with
  | a => exact a
  | x => exact x

/-- A fault of source `src` is pending. -/
def Machine.Slot.pends (k : Slot) (src : BitVec 3) : Bool := k.pending.any fun t => t.source == src

/-- Each engine's entries return behind its queue, unless a fault of that engine is pending (R52). -/
theorem leaveHandler_queues (k : Slot) :
    k.leaveHandler.cq = (if k.pends 2 then k.cq else k.cq ++ k.cAside) ∧
    k.leaveHandler.mq = (if k.pends 3 then k.mq else k.mq ++ k.mAside) ∧
    k.leaveHandler.vq = (if k.pends 4 then k.vq else k.vq ++ k.vAside) := by
  unfold Slot.leaveHandler Slot.returnAside Slot.pends
  dsimp only
  refine ⟨?_, ?_, ?_⟩ <;> split_ifs <;> rfl

theorem eret_returns {s : State} {h : Hdr} (ready : Ready s h [] []) (mode : s.me.fault.handler = true) :
    CompletesAs s (.eret h) h s.me.fault.ret none none s.me.leaveHandler := by
  have left := wrote_updMe s (f := Slot.leaveHandler) (leaveHandler_tok _) (leaveHandler_seq _ _)
  change ∃ t, execEret h s = .next t ∧ _
  unfold execEret
  refine issueSeq_done (u := (s.updMe Slot.leaveHandler).branch s.me.fault.ret) ready ?_ (left.andThen (wrote_branch _ _))
    ((slotAs_updMe s Slot.leaveHandler).trans (onlyIssuer_branch _ _) rfl rfl)
  exact if_pos mode

theorem eret_faults {s : State} {h : Hdr} (ready : Ready s h [] []) (mode : s.me.fault.handler = false) :
    Faults s (.eret h) cILLEGAL 0x0D s.cur.pc := by
  change execEret h s = _
  unfold execEret
  refine issueSeq_bad (b := badState s.cur.pc) ready ?_
  exact if_neg (by rw [mode]; decide)

theorem brk_raises {s : State} {h : Hdr} {code : BitVec 16} (ready : Ready s h [] []) :
    CompletesAs s (.brk h code) h s.cur.next none none { s.me with
      pending := s.me.pending ++ [{ cause := cBREAK, pc := s.cur.pc, source := srcOf s.cur.st, code := code }] } := by
  change ∃ t, execBrk h code s = .next t ∧ _
  unfold execBrk
  refine issueSeq_updMe (f := fun k => { k with
    pending := k.pending ++ [{ cause := cBREAK, pc := s.cur.pc, source := srcOf s.cur.st, code := code }] }) ready rfl rfl ?_
  unfold State.mySeq
  cases s.cur.st <;> rfl

/-- Settles O22: ERET by whether the task is in handler mode; BREAK raises its fault as it retires. -/
theorem returnFromHandler : Obligations.ReturnFromHandler := by
  unfold Obligations.ReturnFromHandler
  intro s h code ready
  dsimp only
  refine ⟨fun mode => ?_, eret_faults ready, ?_⟩
  · obtain ⟨t, runs, retired, frame⟩ := eret_returns ready mode
    obtain ⟨copy, matrix, vector⟩ := leaveHandler_queues s.me
    obtain ⟨fault, -, -⟩ := leaveHandler_fault s.me
    exact ⟨t, runs, retired, frame.toOnlySlot, (congrArg (·.fault) frame.slot).trans fault, congrArg (·.xHeld) frame.slot,
      (frame.queue .copy).trans copy, (frame.queue .matrix).trans matrix, (frame.queue .vector).trans vector⟩
  · exact brk_raises ready

end Sys2Proof

/-! The proof of O51. Where an instruction of the sequencer chapter has not faulted, nothing outside its slot has changed. -/

namespace Sys2Proof

open Machine

/-! ### States that differ in the slot in issue alone -/

/-- Only the slot in issue has changed since `s`, and it is still the one in issue. -/
structure InSlot (s t : State) : Prop extends OnlySlot s t where
  same : t.cur.slot = s.cur.slot

theorem InSlot.refl (s : State) : InSlot s s := ⟨⟨rfl, fun _ _ => rfl⟩, rfl⟩

theorem InSlot.updMe {s t : State} (o : InSlot s t) (f : Slot → Slot) : InSlot s (t.updMe f) :=
  ⟨o.toOnlySlot.updMe f o.same, o.same⟩

theorem InSlot.updSeq {s t : State} (o : InSlot s t) (f : Seq → Seq) : InSlot s (t.updSeq t.cur.slot t.cur.st f) :=
  o.updMe fun k => k.updSeq t.cur.st f

theorem InSlot.wg {s t : State} (o : InSlot s t) (d : Reg) (v : Word) : InSlot s (t.wg d v) := o.updSeq _

theorem InSlot.wp {s t : State} (o : InSlot s t) (p : PReg) (b : Bool) : InSlot s (t.wp p b) := o.updSeq _

theorem InSlot.jump {s t : State} (o : InSlot s t) (target : Word) : InSlot s (t.jump target) :=
  ⟨⟨o.package, o.slots⟩, o.same⟩

theorem InSlot.branch {s t : State} (o : InSlot s t) (target : Word) : InSlot s (t.branch target) :=
  (o.updSeq Seq.cutLoop).jump target

theorem InSlot.ite {s t u : State} {c : Prop} [Decidable c] (o : InSlot s t) (o' : InSlot s u) : InSlot s (if c then t else u) := by
  split
  · exact o
  · exact o'

/-! ### Bodies and outcomes -/

/-- Where the instruction answers a state and has not faulted, only its slot has changed. -/
structure StaysInSlot (s : State) (o : Out) : Prop where
  only : ∀ t, o = .next t → t.cur.went ≠ .faulted → OnlySlot s t

/-- Where a body lets its instruction retire or wait, only the slot in issue has changed. -/
def BodyInSlot (s : State) : Body → Prop
  | .done t | .served t | .stall t => InSlot s t
  | .bad _ | .badWith _ _ | .void _ => True

theorem BodyInSlot.ite {s : State} {a b : Body} {c : Prop} [Decidable c] (ha : BodyInSlot s a) (hb : BodyInSlot s b) :
    BodyInSlot s (if c then a else b) := by
  split
  · exact ha
  · exact hb

theorem issueFault_went (s : State) (b : Bad) (code : BitVec 16) (ret : Word) : (s.issueFault b code ret).cur.went = .faulted := by
  unfold State.issueFault
  split <;> rfl

theorem fault_stays (s u : State) (b : Bad) (code : BitVec 16) (ret : Word) :
    StaysInSlot s (.next (u.issueFault b code ret)) := by
  refine ⟨fun t ran unfaulted => ?_⟩
  cases ran
  exact absurd (issueFault_went u b code ret) unfaulted

/-- The instruction in issue retires or waits: `cur` is the model's own record of it. -/
theorem InSlot.stays_cur {s u : State} (o : InSlot s u) (cur : Cur) : StaysInSlot s (.next { u with cur := cur }) := by
  refine ⟨fun t ran _ => ?_⟩
  cases ran
  exact ⟨o.package, o.slots⟩

/-- What the gates answer and what becomes of the body keep to the slot, if the body does. -/
theorem issueSeq_stays {s : State} {h : Hdr} {gs : List Reg} {ps : List PReg} {body : State → Body}
    (hb : BodyInSlot s (body s)) : StaysInSlot s (s.issueSeq h gs ps body) := by
  unfold State.issueSeq
  split
  · exact fault_stays s s _ _ _
  · exact (InSlot.refl s).stays_cur _
  · cases e : body s with rw [e] at hb
    | done u =>
      refine ⟨fun t ran _ => ?_⟩
      cases ran
      exact retire_onlySlot h hb.toOnlySlot hb.same
    | served u => exact hb.stays_cur _
    | stall u => exact hb.stays_cur _
    | bad b => exact fault_stays s s b _ _
    | badWith u b => exact fault_stays s u b _ _
    | void pa => exact ⟨fun t ran _ => nomatch ran⟩

theorem issuePure_stays {s : State} {h : Hdr} {gs : List Reg} {ps : List PReg} {f : State → State} (hf : InSlot s (f s)) :
    StaysInSlot s (s.issuePure h gs ps f) := issueSeq_stays hf

theorem alu_stays (s : State) (h : Hdr) (d a b : Reg) (op : Word → Word → Word) : StaysInSlot s (s.alu h d a b op) :=
  issuePure_stays ((InSlot.refl s).wg d _)

theorem alu1_stays (s : State) (h : Hdr) (d a : Reg) (op : Word → Word) : StaysInSlot s (s.alu1 h d a op) :=
  issuePure_stays ((InSlot.refl s).wg d _)

theorem plu_stays (s : State) (h : Hdr) (d a b : PReg) (op : Bool → Bool → Bool) : StaysInSlot s (s.plu h d a b op) :=
  issuePure_stays ((InSlot.refl s).wp d _)

/-! ### Instructions whose bodies look at a queue or at the state of the slot -/

section

variable (s : State) (h : Hdr)

theorem execDqpop_stays (d : Reg) : StaysInSlot s (execDqpop h d s) := by
  refine issueSeq_stays ?_
  split
  · exact InSlot.refl s
  · exact ((InSlot.refl s).updMe _).wg d _

theorem execBrq_stays (p : PReg) (neg : Bool) (off : BitVec 13) (syl : BitVec 4) : StaysInSlot s (execBrq h p neg off syl s) := by
  refine issueSeq_stays ?_
  split
  · exact InSlot.refl s
  · next o r _ =>
    have popped : InSlot s ((s.updMe fun k => k.setBqIn s.cur.st r).wp p o) := ((InSlot.refl s).updMe _).wp p o
    exact (popped.branch _).ite popped

theorem execRdv_stays : StaysInSlot s (execRdv h s) := by
  refine issueSeq_stays ?_
  have alone : InSlot s s := InSlot.refl s
  have met : ∀ st, InSlot s (s.rdvMet st) := fun st => (alone.updMe _).updMe _
  dsimp only
  split
  · exact alone
  · exact alone.updMe _
  · exact BodyInSlot.ite (met .x) (alone.updMe _)
  · exact alone.updMe _
  · exact met .a
  · exact alone

theorem execSysrd_stays (d : Reg) (idx : BitVec 12) : StaysInSlot s (execSysrd h d idx s) := by
  unfold execSysrd
  split
  · exact fault_stays s s _ _ _
  · refine issueSeq_stays ?_
    split
    · exact trivial
    · exact (InSlot.refl s).wg d _

end

/-- The instructions of the sequencer chapter that O51 speaks of, BRMZ among them. -/
def Instr.ofSequencer : Instr → Prop
  | .add .. | .sub .. | .mul .. | .mulh .. | .mulhu .. | .div .. | .divu .. | .rem .. | .remu .. | .and .. | .or .. | .xor ..
  | .andn .. | .shl .. | .shr .. | .sar .. | .rot .. | .min .. | .max .. | .minu .. | .maxu .. | .sel .. | .addi .. | .andi ..
  | .ori .. | .xori .. | .shli .. | .shri .. | .sari .. | .roti .. | .cmpi .. | .clz .. | .popc .. | .sext .. | .zext .. | .bfx ..
  | .bfi .. | .cmp .. | .pand .. | .por .. | .pxor .. | .pnot .. | .pmov .. | .li .. | .br .. | .brl .. | .jmpr .. | .call ..
  | .ret .. | .loop .. | .dqpush .. | .dqpop .. | .bqpush .. | .brq .. | .fork .. | .rdv .. | .exit .. | .nop .. | .qcancel ..
  | .eret .. | .brk .. | .sysrd .. | .shape .. | .brmz .. => True
  | _ => False

theorem exec_staysInSlot (s : State) (i : Instr) (listed : Instr.ofSequencer i) : StaysInSlot s (exec i s) := by
  have kept : InSlot s s := InSlot.refl s
  cases i with dsimp only [exec]
  | add | sub | mul | mulh | mulhu | div | divu | rem | remu | and | or | xor | andn | shl | shr | sar | rot | min | max | minu
  | maxu | bfx => exact alu_stays ..
  | addi | andi | ori | xori | shli | shri | sari | roti | clz | popc | sext | zext => exact alu1_stays ..
  | pand | por | pxor => exact plu_stays ..
  | sel | bfi | li => exact issuePure_stays (kept.wg _ _)
  | cmpi | cmp | pnot | pmov => exact issuePure_stays (kept.wp _ _)
  | br => exact issuePure_stays ((kept.branch _).ite kept)
  | brl => exact issuePure_stays (((kept.wg _ _).branch _).ite kept)
  | jmpr | ret => exact issuePure_stays (kept.branch _)
  | call => exact issuePure_stays ((kept.wg _ _).branch _)
  | loop => exact issuePure_stays ((kept.updSeq _).ite (((kept.wg _ _).updSeq _).ite (((kept.wg _ _).updSeq _).jump _)))
  | nop => exact issuePure_stays kept
  | qcancel => exact issuePure_stays ((kept.updMe _).wg _ _)
  | brk => exact issuePure_stays (kept.updMe _)
  | dqpush | bqpush => exact issueSeq_stays (BodyInSlot.ite (kept.updMe _) kept)
  | fork | exit => exact issueSeq_stays (BodyInSlot.ite (kept.updMe _) trivial)
  | eret => exact issueSeq_stays (BodyInSlot.ite ((kept.updMe _).branch _) trivial)
  | shape => exact issueSeq_stays (BodyInSlot.ite ((kept.updMe _).wg _ _) (kept.updMe _))
  | brmz => exact issueSeq_stays (BodyInSlot.ite kept (BodyInSlot.ite (kept.branch _) kept))
  | dqpop => exact execDqpop_stays ..
  | brq => exact execBrq_stays ..
  | rdv => exact execRdv_stays ..
  | sysrd => exact execSysrd_stays ..
  | _ => exact False.elim listed

/-- Settles O51: what changes lies in the slot in issue, which holds no byte of memory and no data cache. -/
theorem sequencerInstructionsTouchNoMemory : Obligations.SequencerInstructionsTouchNoMemory := by
  unfold Obligations.SequencerInstructionsTouchNoMemory
  intro s t i listed ran unfaulted
  have frame : OnlySlot s t := (exec_staysInSlot s i listed).only t ran unfaulted
  exact ⟨fun l _ => frame.package.homeByte l, fun c => by rw [frame.package.coreAt c], frame.slots⟩

end Sys2Proof

/-! The proof of O54. The operations of the mailbox: translations and pins, descriptor caches, holds, saved tasks, and the
fleet (R314, R322, R355, R356, R358). -/

namespace Sys2Proof

open Machine

/-! ### Selectors (R198) -/

theorem selAsid_eq (b : Word) : selAsid b = b.toNat % 4096 := bits_zero _ _

theorem sizeBits_eq (z : Nat) : sizeBits z = if z = 0 then 16 else if z = 1 then 21 else 30 := by
  match z with
  | 0 => rfl
  | 1 => rfl
  | _ + 2 => rfl

theorem badSelector_of_size_three {b : Word} (reserved : selSize b = 3) (all : Bool) : badSelector all b = true := by
  simp [badSelector, reserved]

/-- XINV may have ALL set. -/
theorem badSelector_all_iff (b : Word) : badSelector true b = true ↔ selSize b = 3 := by simp [badSelector]

/-! ### XINV (R199) -/

theorem writeBack_pins (s : State) (core key : Nat) : (s.writeBack core key).pins = s.pins := by
  have kept := congrArg State.pins (cacheFrame_writeBack s core key).package
  exact kept

theorem flushPage_pins (s : State) (l : Leaf) : (s.flushPage l).pins = s.pins :=
  foldl_keeps State.pins (fun t _ => foldl_keeps State.pins (fun u _ => writeBack_pins u _ _) _ t) _ s

section

variable {s : State} {i : InvSel} {force : Bool}

theorem xinv_busy (pinned : s.pins.any i.pinNamed = true) : s.xinv i false = some (s, stBUSY) := by
  simp [State.xinv, pinned]

/-- What an XINV that has nothing to wait for leaves: nothing that it names is held or pinned, and the other pins are kept. -/
theorem xinv_removes (free : force = true ∨ s.pins.any i.pinNamed = false) (ready : s.invWaits i = false) :
    ∃ t, s.xinv i force = some (t, stDONE) ∧ t.named i = [] ∧ t.pins = s.pins.filter fun p => !i.pinNamed p := by
  have notBusy : ¬ (!force && s.pins.any i.pinNamed) = true := by
    rcases free with h | h <;> simp [h]
  unfold State.xinv
  rw [if_neg notBusy, if_neg (ne_true_of_eq_false ready)]
  refine ⟨_, rfl, ?_, congrArg (List.filter _) (foldl_keeps State.pins (fun t e => ?_) (s.named i) s)⟩
  · simp [State.named, List.filter_filter]
  · split
    · exact flushPage_pins t _
    · rfl

theorem filter_pins_of_none_named (unpinned : s.pins.any i.pinNamed = false) :
    (s.pins.filter fun p => !i.pinNamed p) = s.pins := by
  rw [List.filter_eq_self]
  intro p hp
  simpa using List.any_eq_false.1 unpinned p hp

end

/-! ### XPIN and XUNPIN (R199) -/

section

variable {s : State} {asid sh va : Nat}

theorem xpin_pins {l : Leaf} (walked : s.walk asid va = .ok l) (size : l.bits = sh) (unpinned : (asid, sh, va / 2 ^ sh) ∉ s.pins)
    (room : s.pins.length < 1024) :
    s.xpin asid sh va = ({ s.hold asid va l with pins := s.pins ++ [(asid, sh, va / 2 ^ sh)] }, stDONE) := by
  simp [State.xpin, walked, size, unpinned, room]

theorem xunpin_unpins (pinned : (asid, sh, va / 2 ^ sh) ∈ s.pins) :
    s.xunpin asid sh va = ({ s with pins := s.pins.erase (asid, sh, va / 2 ^ sh) }, stDONE) := by
  simp [State.xunpin, pinned]

end

/-! ### The descriptor caches of every core (R203) -/

theorem get_of_not_listed {α : Type} {m : SMap α} {d : α} {k : Nat} (h : k ∉ m.map Prod.fst) : SMap.get m d k = d := by
  induction m with
  | nil => rfl
  | cons e r ih =>
    obtain ⟨ne, rest⟩ := not_or.1 (mt List.mem_cons.2 h)
    exact (if_neg (Ne.symm ne)).trans (ih rest)

/-- A change made at every core of a list, which made twice is made once. -/
theorem coreAt_foldl_updCore {f : Core → Core} (idem : ∀ c, f (f c) = f c) (l : List (Nat × Core)) (s : State) (c : Nat) :
    (l.foldl (fun t e => t.updCore e.1 f) s).coreAt c = if c ∈ l.map Prod.fst then f (s.coreAt c) else s.coreAt c := by
  induction l generalizing s with
  | nil => simp
  | cons e r ih =>
    rw [List.foldl_cons, ih, State.coreAt_updCore, List.map_cons]
    by_cases same : c = e.1
    · simp [same, idem]
    · simp only [List.mem_cons, same, if_false, false_or]

/-- A core that is not listed reads as an empty one, which the change leaves. -/
theorem coreAt_foldl_cores {f : Core → Core} (idem : ∀ c, f (f c) = f c) (empty : f {} = {}) (s : State) (c : Nat) :
    (s.cores.foldl (fun t e => t.updCore e.1 f) s).coreAt c = f (s.coreAt c) := by
  rw [coreAt_foldl_updCore idem]
  split
  · rfl
  · next unlisted =>
    have unread : s.coreAt c = {} := get_of_not_listed unlisted
    rw [unread, empty]

/-! ### Operations on translations, holds and descriptors (R314) -/

/-- The operation ends with a status, in a state of which `P` holds, and the mailbox is free again. -/
def MailboxEnds (s : State) (i : Instr) (st : BitVec 3) (P : State → Prop) : Prop :=
  ∃ t : State, exec i s = .next t ∧ t.boot.mbBusy = false ∧ t.boot.mbStat = st ∧ P t

section

variable {s t : State} {a b : Word}

theorem mailboxEnds_of_done {i : Instr} {st : BitVec 3} {P : State → Prop} (runs : exec i s = .next (t.mbDone st))
    (holds : P (t.mbDone st)) : MailboxEnds s i st P := ⟨_, runs, rfl, rfl, holds⟩

theorem mailInv_done {force : Bool} {st : Nat} (size : selSize b ≠ 3) (done : s.xinv (invSel a b) force = some (t, st)) :
    s.mailInv a b force = t.mbDone (BitVec.ofNat 3 st) := by
  unfold State.mailInv
  rw [if_neg (mt (badSelector_all_iff b).1 size), done]

theorem mailPin_done {f : State → Nat → Nat → Nat → State × Nat} {st : Nat} (fit : badSelector false b = false)
    (done : f s (b.toNat % 4096) (if selSize b = 0 then 16 else if selSize b = 1 then 21 else 30) a.toNat = (t, st)) :
    s.mailPin a b f = t.mbDone (BitVec.ofNat 3 st) := by
  rw [← sizeBits_eq, ← selAsid_eq] at done
  unfold State.mailPin
  rw [if_neg (ne_true_of_eq_false fit), done]

theorem mailbox_refuses_size_three (reserved : selSize b = 3) :
    s.mailInv a b false = s.mbDone 7 ∧ s.mailInv a b true = s.mbDone 7 ∧ (∀ f, s.mailPin a b f = s.mbDone 7) ∧
      execDescinv a b s = .next (s.mbDone 7) ∧ execHold a b s = .next (s.mbDone 7) ∧ execRelease a b s = .next (s.mbDone 7) := by
  have bad : ∀ all, badSelector all b = true := badSelector_of_size_three reserved
  exact ⟨if_pos (bad true), if_pos (bad true), fun _ => if_pos (bad false), if_pos reserved, if_pos (bad false), if_pos (bad false)⟩

theorem mailboxXinv_removes (size : selSize b ≠ 3) (ready : s.invWaits (invSel a b) = false)
    (unpinned : s.pins.any (invSel a b).pinNamed = false) :
    MailboxEnds s (.mailboxXinv a b) 0 fun t => t.named (invSel a b) = [] ∧ t.pins = s.pins := by
  obtain ⟨t, done, unheld, pins⟩ := xinv_removes (force := false) (.inr unpinned) ready
  exact mailboxEnds_of_done (congrArg _ (mailInv_done size done)) ⟨unheld, pins.trans (filter_pins_of_none_named unpinned)⟩

theorem mailboxXinvForced_removes (size : selSize b ≠ 3) (ready : s.invWaits (invSel a b) = false) :
    MailboxEnds s (.mailboxXinvForced a b) 0 fun t =>
      t.named (invSel a b) = [] ∧ t.pins = s.pins.filter fun p => !(invSel a b).pinNamed p := by
  obtain ⟨t, done, unheld, pins⟩ := xinv_removes (force := true) (.inl rfl) ready
  exact mailboxEnds_of_done (congrArg _ (mailInv_done size done)) ⟨unheld, pins⟩

theorem hold_keeps (fit : badSelector false b = false) : exec (.hold a b) s = .next (State.mbDone
    { s with holds := if s.holds.contains (b.toNat % 4096, a.toNat) then s.holds else s.holds ++ [(b.toNat % 4096, a.toNat)] } 0) := by
  rw [← selAsid_eq]
  exact if_neg (ne_true_of_eq_false fit)

theorem release_lifts (fit : badSelector false b = false) : exec (.release a b) s = .next (State.mbDone
    { s with holds := s.holds.filter fun h => !(h.1 == b.toNat % 4096 &&
        h.2 / 2 ^ s.pageBits (b.toNat % 4096) a.toNat == a.toNat / 2 ^ s.pageBits (b.toNat % 4096) a.toNat) } 0) := by
  rw [← selAsid_eq]
  exact if_neg (ne_true_of_eq_false fit)

theorem descinv_empties (size : selSize b ≠ 3) : MailboxEnds s (.descinv a b) 0 fun t => ∀ c,
    (t.coreAt c).desc = (s.coreAt c).desc.filter fun d =>
      !(d.1 / 65536 == b.toNat % 4096 && (selAll b || d.1 % 65536 == a.toNat % 65536)) := by
  rw [← selAsid_eq, ← show bits a.toNat 0 16 = a.toNat % 65536 from bits_zero _ _]
  refine mailboxEnds_of_done (if_neg size) fun c => ?_
  exact congrArg Core.desc (coreAt_foldl_cores (fun c => by simp [List.filter_filter]) rfl s c)

end

/-! ### Pre-emption and saved tasks (R321, R322, R324) -/

/-- A slot with a request from the mailbox that becomes full after a time (R324). -/
def Machine.State.askPreempt (s : State) (slot ns : Nat) : State :=
  s.updSlot slot fun k => { k with pre := some { deadline := s.time + BitVec.ofNat 64 ns, mailbox := true } }

theorem askPreempt_runs (s : State) (slot ns : Nat) : ((s.askPreempt slot ns).slotAt slot).st.runs = (s.slotAt slot).st.runs := by
  unfold State.askPreempt
  rw [State.slotAt_updSlot_same]

section

variable {s : State} {a b : Word}

section

variable (slot : a.toNat % 1024 < 768) (savable : (s.slotAt (a.toNat % 1024)).st.savable = true)
  (runs : (s.slotAt (a.toNat % 1024)).st.runs = true)

include slot savable runs

/-- PREEMPT with a mode that is assigned, of a slot that may be saved and runs. -/
theorem preempt_asks (mode : a.toNat / 4096 % 4 = 1 ∨ a.toNat / 4096 % 4 = 2) :
    let ns := if a.toNat / 4096 % 4 = 2 then 1000 * (a.toNat / 65536 % 2 ^ 24) else 0
    let t := s.askPreempt (a.toNat % 1024) ns
    exec (.preempt a b) s = if ns = 0 then .next (t.preemptNow (a.toNat % 1024)) else .next t := by
  intro ns t
  have assigned : ¬ (a.toNat / 4096 % 4 = 0 ∨ a.toNat / 4096 % 4 = 3) := by omega
  have present : ¬ (Config.slots ≤ a.toNat % 1024 ∨ (!(s.slotAt (a.toNat % 1024)).st.savable) = true) := by
    rw [savable]
    exact not_or.2 ⟨Nat.not_le.2 slot, by simp⟩
  have atOnce : ns = 0 ∧ (t.slotAt (a.toNat % 1024)).st.runs = true ↔ ns = 0 :=
    and_iff_left ((congrArg (· = true) (askPreempt_runs s _ ns)).mpr runs)
  change execPreempt a b s = _
  unfold execPreempt
  rw [show bits a.toNat 0 10 = a.toNat % 1024 from bits_zero _ _]
  exact (if_neg assigned).trans ((if_neg present).trans (if_congr atOnce rfl rfl))

theorem preempt_now (mode : a.toNat / 4096 % 4 = 1) :
    exec (.preempt a b) s = .next ((s.askPreempt (a.toNat % 1024) 0).preemptNow (a.toNat % 1024)) := by
  simpa [mode] using preempt_asks (b := b) slot savable runs (.inl mode)

theorem preempt_after (mode : a.toNat / 4096 % 4 = 2) (delay : a.toNat / 65536 % 2 ^ 24 ≠ 0) :
    exec (.preempt a b) s = .next (s.askPreempt (a.toNat % 1024) (1000 * (a.toNat / 65536 % 2 ^ 24))) := by
  have asks := preempt_asks (b := b) slot savable runs (.inr mode)
  rw [if_pos mode] at asks
  exact asks.trans (if_neg (Nat.mul_ne_zero (by decide) delay))

end

/-- A saved set is marked by the mask of dies that RESUME gives, in its place in the order. -/
def Machine.State.markResumed (s : State) (area : Nat) (v : Saved) (dies : BitVec 4) : State :=
  { s with
    saved := SMap.set s.saved none area (some { v with resume := some dies, order := s.nextOrder })
    nextOrder := s.nextOrder + 1 }

theorem resume_marks {v : Saved} (saved : SMap.get s.saved none a.toNat = some v) (head : v.head = true)
    (unmarked : v.resume = none) : exec (.resume a b) s = .next ((s.markResumed a.toNat v (b.extractLsb' 0 4)).mbDone 0) := by
  change execResume a b s = _
  unfold execResume
  rw [saved]
  exact if_pos (by simp [head, unmarked])

theorem drop_discards {v : Saved} (saved : SMap.get s.saved none a.toNat = some v) : exec (.drop a b) s = .next
    ((((s.discardSaved a.toNat v).failJob v.task.job (if v.kind = 3 then cBREAK else cPREEMPT) 0).jobCheck v.task.job).mbDone 0) := by
  change execDrop a b s = _
  unfold execDrop
  rw [saved]

theorem tenAt_pushPool_same (s : State) (t area : Nat) : (s.pushPool t area).tenAt t = { s.tenAt t with savePool := area } :=
  State.tenAt_updTen_same (s.wrPhys area 8 (s.tenAt t).savePool) t _

theorem tenAt_pushPool_ne (s : State) {t x : Nat} (area : Nat) (hx : x ≠ t) : (s.pushPool t area).tenAt x = s.tenAt x :=
  State.tenAt_updTen_ne (s.wrPhys area 8 (s.tenAt t).savePool) _ hx

theorem pushsave_pushes (aligned : a.toNat % 65536 = 0)
    (inside : a.toNat + (s.tenAt (b.toNat % 64)).saveSize ≤ 3 * 2 ^ 40) :
    MailboxEnds s (.pushsave a b) 0 fun r =>
      r.mem = writeBytes s.mem a.toNat (leBytes 8 (s.tenAt (b.toNat % 64)).savePool) ∧
        r.tenAt (b.toNat % 64) = { s.tenAt (b.toNat % 64) with savePool := a.toNat } ∧
        ∀ x, x ≠ b.toNat % 64 → r.tenAt x = s.tenAt x := by
  rw [← show bits b.toNat 0 6 = b.toNat % 64 from bits_zero _ _] at *
  refine mailboxEnds_of_done (if_neg (not_or.2 ⟨not_not.2 aligned, Nat.not_lt.2 inside⟩)) ⟨rfl, ?_, fun x hx => ?_⟩
  · exact tenAt_pushPool_same s _ _
  · exact tenAt_pushPool_ne s _ hx

end

/-! ### The fleet (R355, R356, R358) -/

section

variable {s : State} {a b : Word}

theorem adopt_counts (dead : s.isDead (a.toNat % 512) = true) (opened : (s.queueAt (a.toNat / 4096 % 4096)).opened = true)
    (device : (s.queueAt (a.toNat / 4096 % 4096)).device = true) :
    MailboxEnds s (.adopt a b) 0 fun t => t.boot.mbb =
      BitVec.ofNat 64 (s.adoptable (a.toNat % 512) (s.queueAt (a.toNat / 4096 % 4096)).owner).length := by
  rw [← show bits a.toNat 0 9 = a.toNat % 512 from bits_zero _ _] at *
  have able : ¬ (!(s.isDead (bits a.toNat 0 9) && (s.queueAt (a.toNat / 4096 % 4096)).opened &&
      (s.queueAt (a.toNat / 4096 % 4096)).device)) = true := by simp [dead, opened, device]
  exact mailboxEnds_of_done (if_neg able) rfl

theorem quarantineRelease_releases (quarantined : (s.coreAt a.toNat).health = 2) :
    MailboxEnds s (.quarantineRelease a b) 0 fun t => (t.coreAt a.toNat).health = 0 ∧
      t.quarantined = s.quarantined.filter (· != a.toNat) ∧ ∀ c, c ≠ a.toNat → t.coreAt c = s.coreAt c := by
  have core := fun n => State.coreAt_updCore s a.toNat n fun c => { c with health := 0 }
  refine mailboxEnds_of_done (if_neg (not_not.2 quarantined)) ⟨?_, rfl, fun c hc => (core c).trans (if_neg hc)⟩
  exact congrArg Core.health ((core _).trans (if_pos rfl))

theorem signReport_writes (aligned : a.toNat % 64 = 0) (inside : a.toNat + 36304 ≤ 3 * 2 ^ 40) :
    let report := s.report ((upto 32 a.toNat).map fun x => SMap.get s.mem 0 x)
    exec (.signReport a b) s = .next (State.mbDone
      { s with mem := writeBytes s.mem (a.toNat + 64) (report ++ (upto 35664 0).map (Config.signature report)) } 0) :=
  if_neg (not_or.2 ⟨not_not.2 aligned, by unfold Config.moduleBytes signatureBytes; omega⟩)

end

/-- Settles O54: one operation at a time, and the refusal of a reserved selector. -/
theorem mailboxOperations : Obligations.MailboxOperations := by
  unfold Obligations.MailboxOperations
  intro s a b op
  refine ⟨fun size ready => ?xinv, fun size pinned => ?busy, fun reserved => ?reserved, fun fit => ?selected,
    fun size => descinv_empties size, fun slot savable runs => ?preempt, fun v saved => ?saved,
    fun aligned inside => pushsave_pushes aligned inside, fun dead opened device => adopt_counts dead opened device,
    fun quarantined => quarantineRelease_releases quarantined, fun aligned inside => signReport_writes aligned inside, rfl⟩
  case xinv => exact ⟨fun unpinned => mailboxXinv_removes size ready unpinned, mailboxXinvForced_removes size ready⟩
  case busy => exact congrArg _ (mailInv_done size (xinv_busy pinned))
  case reserved =>
    obtain ⟨xinv, forced, pin, descinv, hold, release⟩ := mailbox_refuses_size_three (s := s) (a := a) reserved
    exact ⟨congrArg _ xinv, congrArg _ forced, congrArg _ (pin _), congrArg _ (pin _), descinv, hold, release⟩
  case selected =>
    refine ⟨fun l walked size unpinned room => ?_, fun pinned => ?_, hold_keeps fit, release_lifts fit⟩
    · exact mailboxEnds_of_done (congrArg _ (mailPin_done fit (xpin_pins walked size unpinned room))) rfl
    · exact congrArg _ (mailPin_done fit (xunpin_unpins pinned))
  case preempt =>
    exact ⟨fun mode => preempt_now slot savable runs mode, fun mode delay => preempt_after slot savable runs mode delay⟩
  case saved => exact ⟨fun head unmarked => resume_marks saved head unmarked, drop_discards saved⟩

end Sys2Proof

/-! The proof of O34. The issue of FRED, which reads its descriptor behind a write-back of the lines the descriptor lies in. -/

namespace Sys2Proof

open Machine

/-! ### The issue of a copy behind a write-back, and its faults (R119, R201) -/

section

variable {s u : State} {h : Hdr} {i : Instr} {gs ws : List Reg} {mk : State → Pushed}

/-- As `copy_queued`, where what is done at issue before the push changes counters of the slots. -/
theorem copy_queued_behind (ready : EngReady s .copy h (gs ++ ws) []) {ops : List Word} {td : TDesc}
    {foot rd : Option (List (Nat × Nat))} (e : exec i s = s.issueCopy i h gs mk) (out : Writing i ws)
    (counted : Recounts s u) (made : mk s = u.pushCopy i ops td foot rd)
    (free : u.me.tagsFull (u.me.tagsFor foot) = false) : QueuesCopy s i ops ws := by
  unfold QueuesCopy
  rw [e]
  unfold State.issueCopy
  dsimp only
  rw [out.1, out.2]
  obtain ⟨v, c, pushes, recounted, entry⟩ := pushCopy_makes u i ops td foot rd free
  have mine : EntryOf s c i ops := ⟨entry.instr, by rw [entry.pc, counted.cur], entry.ops, entry.started⟩
  exact issueEng_queued_behind ready (made.trans pushes) (counted.trans recounted) mine

theorem copy_faults (ready : EngReady s .copy h (gs ++ ws) []) {cause reason : BitVec 8} {addr : Word}
    (e : exec i s = s.issueCopy i h gs mk) (out : Writing i ws) (found : mk s = .bad ⟨cause, reason, addr⟩) :
    Faults s i cause reason addr := by
  unfold Faults
  rw [e]
  unfold State.issueCopy
  dsimp only
  rw [out.1, out.2]
  exact issueEng_bad ready found

/-- Of what is made at issue, only what it makes of the state in issue counts. -/
theorem issueCopy_congr {mk' : State → Pushed} (same : mk s = mk' s) : s.issueCopy i h gs mk = s.issueCopy i h gs mk' := by
  unfold State.issueCopy State.issueEng
  dsimp only
  rw [same]

end

/-! ### FRED (R225) -/

/-- The state in which FRED reads its descriptor: the lines it lies in are written back (R119). -/
def fredReader (s : State) (a : Reg) : State := s.pushWriteBack s.cur.slot [((s.rg a).toNat, 128)]

/-- The descriptor that `gA` names is aligned, and its words as read at issue are `w`. -/
structure FredDescriptor (s : State) (a : Reg) (w : List Nat) : Prop where
  aligned : (s.rg a).toNat % 64 = 0
  words : (fredReader s a).fredWords (fredReader s a).me.task.asid (s.rg a).toNat = .ok w

/-- A FORMAT that FRED does not reduce in. -/
abbrev RefusedFormat (fmt : Nat) : Prop := fmt ≠ 1 ∧ fmt ≠ 2 ∧ fmt ≠ 7

/-- FRED's footprint: its descriptor, its contribution and its status record (R115). -/
def fredFoot (va : Nat) (w : List Nat) : List (Nat × Nat) := [(va, 128), (w.getD 1 0, w.getD 2 0), (w.getD 6 0, 64)]

theorem recounts_fredReader (s : State) (a : Reg) : Recounts s (fredReader s a) := recounts_writeBackWhere s _ _

section

variable {s : State} {h : Hdr} {a : Reg} {cg : BitVec 3} {cgv : Bool} {w : List Nat}

theorem exec_fred_misaligned (off : (s.rg a).toNat % 64 ≠ 0) : exec (.fred h a cg cgv) s =
    s.issueCopy (.fred h a cg cgv) h [a] fun _ => .bad ⟨cALIGN, 2, s.rg a⟩ := by
  change execFred h a cg cgv s = _
  unfold execFred
  exact issueCopy_congr (if_pos off)

/-- With a descriptor that can be read, FRED looks at its FORMAT alone before it is pushed. -/
theorem exec_fred_of_descriptor (read : FredDescriptor s a w) : exec (.fred h a cg cgv) s =
    s.issueCopy (.fred h a cg cgv) h [a] fun _ =>
      if RefusedFormat (bits (w.getD 0 0) 32 4) then .bad ⟨cFORMAT, 1, s.rg a⟩
      else (fredReader s a).pushCopy (.fred h a cg cgv) [s.rg a] {} (some (fredFoot (s.rg a).toNat w))
        (some [(w.getD 1 0, w.getD 2 0)]) := by
  obtain ⟨aligned, words⟩ := read
  unfold fredReader at words
  change execFred h a cg cgv s = _
  unfold execFred
  refine issueCopy_congr ?_
  dsimp only
  rw [if_neg (not_not.2 aligned), words]
  rfl

theorem fred_misaligned (ready : EngReady s .copy h [a] []) (off : (s.rg a).toNat % 64 ≠ 0) :
    Faults s (.fred h a cg cgv) cALIGN 2 (s.rg a) :=
  copy_faults ready (exec_fred_misaligned off) ⟨rfl, rfl⟩ rfl

theorem fred_badFormat (ready : EngReady s .copy h [a] []) (read : FredDescriptor s a w)
    (refused : RefusedFormat (bits (w.getD 0 0) 32 4)) : Faults s (.fred h a cg cgv) cFORMAT 1 (s.rg a) :=
  copy_faults ready (exec_fred_of_descriptor read) ⟨rfl, rfl⟩ (if_pos refused)

theorem fred_queued (ready : EngReady s .copy h [a] []) (read : FredDescriptor s a w)
    (reducible : ¬ RefusedFormat (bits (w.getD 0 0) 32 4))
    (free : (fredReader s a).me.tagsFull ((fredReader s a).me.tagsOf (fredFoot (s.rg a).toNat w)) = false) :
    QueuesCopy s (.fred h a cg cgv) [s.rg a] [] :=
  copy_queued_behind ready (foot := some _) (exec_fred_of_descriptor read) ⟨rfl, rfl⟩ (recounts_fredReader s a)
    (if_neg reducible) free

end

/-- Settles O34: by the alignment and, with a descriptor that can be read, by its FORMAT. -/
theorem fredIssue : Obligations.FredIssue := by
  unfold Obligations.FredIssue
  intro s h a cg cgv w ready
  refine ⟨fred_misaligned ready, fun aligned words => ?_⟩
  have read : FredDescriptor s a w := ⟨aligned, words⟩
  refine ⟨fun not1 not2 not7 => fred_badFormat ready read ⟨not1, not2, not7⟩, fun format free => ?_⟩
  have reducible : ¬ RefusedFormat (w.getD 0 0 / 2 ^ 32 % 16) := by omega
  exact fred_queued ready read reducible free

end Sys2Proof

/-! The proof of O56. The blocks of the control window and the host's writes in them, the mailbox, the aperture, the mark key,
module reset, the boot stages and the measurements (R299 to R302, R309, R313 to R316, R357, R358). -/

namespace Sys2Proof

open Machine

/-! ### Blocks of the control window (R299) -/

section

variable {base k n off : Nat}

theorem inBlocks_block {b o : Nat} (block : b < n) (inside : o < k) : inBlocks (base + k * b + o) base k n = some (b, o) := by
  have within : k * b + o < k * n :=
    calc k * b + o < k * b + k := Nat.add_lt_add_left inside _
      _ = k * (b + 1) := (Nat.mul_succ k b).symm
      _ ≤ k * n := Nat.mul_le_mul_left k block
  have distance : base + k * b + o - base = k * b + o := by omega
  have positive : 0 < k := Nat.zero_lt_of_lt inside
  unfold inBlocks
  rw [if_pos (by omega), distance, Nat.mul_add_div positive, Nat.div_eq_of_lt inside, Nat.mul_add_mod, Nat.mod_eq_of_lt inside,
    Nat.add_zero]

theorem inBlocks_outside (outside : off < base ∨ base + k * n ≤ off) : inBlocks off base k n = none := if_neg (by omega)

end

section

variable {s : State} {off n o : Nat} {v : Word}

theorem ready_of_stage (started : s.boot.stage = 4) : s.boot.ready = true := beq_iff_eq.2 started

/-- Below the blocks of the queues stand the global registers. -/
theorem writeReg_global (below : off < 0x100000) : s.writeReg off v = s.writeGlobal off v := by
  unfold State.writeReg
  rw [inBlocks_outside (by omega), inBlocks_outside (by omega), inBlocks_outside (by omega), inBlocks_outside (by omega)]

theorem writeReg_queue (started : s.boot.stage = 4) (queue : n < 4096) (inside : o < 64) :
    s.writeReg (0x100000 + 64 * n + o) v = s.writeQueue n o v := by
  unfold State.writeReg
  rw [inBlocks_block queue inside]
  exact if_pos (ready_of_stage started)

theorem writeReg_tenant (started : s.boot.stage = 4) (tenant : n < 64) (inside : o < 64) :
    s.writeReg (0x200000 + 64 * n + o) v = s.writeTenant n o v := by
  unfold State.writeReg
  rw [inBlocks_outside (by omega), inBlocks_block tenant inside]
  exact if_pos (ready_of_stage started)

end

/-! ### The mailbox (R301, R313) -/

section

variable {s : State} {v : Word}

theorem mailboxGo_busy (busy : s.boot.mbBusy = true) : s.mailboxGo v = s := if_pos busy

theorem mailboxGo_free (free : s.boot.mbBusy = false) (go : v.getLsbD 31 = true) :
    let b := { s.boot with mbOp := v.extractLsb' 0 4, mbBusy := true }
    s.mailboxGo v = { s with boot := b, agenda := .event b.operation :: s.agenda } := by
  unfold State.mailboxGo
  rw [if_neg (ne_true_of_eq_false free), go]
  rfl

end

/-! ### The aperture (R299, R312) -/

section

variable {s : State} {off : Nat} {v : Word}

/-- Eight bytes that the window and the module reach, and no link holds. -/
theorem exec_apertureAccess (window : off + 8 ≤ 2 ^ 36) (inside : s.boot.memWin + off + 8 ≤ 3 * 2 ^ 40)
    (reached : s.apertureHeld (s.boot.memWin + off) = false) (wr : Bool) : exec (.apertureAccess wr off v) s =
      if wr then .next (s.aperturePut (s.boot.memWin + off) (leBytes 8 v.toNat))
      else .next { s with lastRead := BitVec.ofNat 64 (leNat ((upto 8 (s.boot.memWin + off)).map s.apertureByte)) } := by
  change execApertureAccess wr off v s = _
  unfold execApertureAccess
  exact (if_neg (Nat.not_lt.2 window)).trans ((if_neg (Nat.not_lt.2 inside)).trans (if_neg (ne_true_of_eq_false reached)))

/-- Where no frame is DEVONLY the host reads the bytes of module memory. -/
theorem map_apertureByte {pa n : Nat} (hostReads : ∀ i, i < n → s.devOnlyFrame (pa + i) = false) :
    (upto n pa).map s.apertureByte = (upto n pa).map fun a => SMap.get s.mem 0 a := by
  rw [upto_eq_map_range]
  refine List.map_congr_left fun a ha => ?_
  obtain ⟨i, hi, rfl⟩ := List.mem_map.1 ha
  exact if_neg (ne_true_of_eq_false (hostReads i (List.mem_range.1 hi)))

end

/-! ### The mark key (R357) -/

/-- A word of 64 bits is put over a field of a key, and no other word of it changes. -/
theorem extractLsb'_putWord (key : BitVec 256) (v : Word) {i j : Nat} (hi : i < 4) (hj : j < 4) :
    ((key &&& ~~~((BitVec.allOnes 64).setWidth 256 <<< (64 * i))) ||| (v.setWidth 256 <<< (64 * i))).extractLsb' (64 * j) 64 =
      if j = i then v else key.extractLsb' (64 * j) 64 := by
  refine BitVec.eq_of_getLsbD_eq fun b hb => ?_
  have wide : 64 * j + b < 256 := by omega
  simp only [BitVec.getLsbD_extractLsb', BitVec.getLsbD_or, BitVec.getLsbD_and, BitVec.getLsbD_not, BitVec.getLsbD_shiftLeft,
    BitVec.getLsbD_setWidth, BitVec.getLsbD_allOnes, hb, wide, decide_true, Bool.true_and]
  rcases Nat.lt_trichotomy j i with below | same | above
  · have low : 64 * j + b < 64 * i := by omega
    simp [low, below.ne, hb]
  · have narrow : b < 256 := by omega
    subst same
    simp [hb, narrow]
  · have outside : ¬ 64 * j + b - 64 * i < 64 := by omega
    rw [if_neg above.ne', BitVec.getLsbD_of_ge v _ (Nat.not_lt.1 outside)]
    simp [outside, hb]

section

variable {e : Ten} {i j : Nat} {v : Word}

theorem putKey_incomplete (incomplete : e.keyWords ≠ 15) (hi : i < 4) : e.putKey i v =
    { e with
      key := (e.key &&& ~~~((BitVec.allOnes 64).setWidth 256 <<< (64 * i))) ||| (v.setWidth 256 <<< (64 * i))
      keyWords := e.keyWords ||| BitVec.twoPow 4 i } := if_neg (not_or.2 ⟨incomplete, Nat.not_le.2 hi⟩)

theorem putKey_key (incomplete : e.keyWords ≠ 15) (hi : i < 4) (hj : j < 4) :
    (e.putKey i v).key.extractLsb' (64 * j) 64 = if j = i then v else e.key.extractLsb' (64 * j) 64 := by
  rw [putKey_incomplete incomplete hi]
  exact extractLsb'_putWord e.key v hi hj

theorem putKey_keyWords (incomplete : e.keyWords ≠ 15) (hi : i < 4) (hj : j < 4) :
    (e.putKey i v).keyWords.getLsbD j = if j = i then true else e.keyWords.getLsbD j := by
  rw [putKey_incomplete incomplete hi]
  by_cases same : j = i
  · subst same
    simp [hj]
  · simp [same, Ne.symm same]

end

section

variable {s : State} {n i : Nat} {v : Word}

theorem markKey_puts (tenant : n < 64) : exec (.markKey n i v) s = .next (s.updTen n fun e => e.putKey i v) :=
  congrArg Host.Outcome.next (if_pos tenant)

theorem clear_clears (tenant : n < 64) : exec (.clear n) s = .next (s.updTen n Ten.clearKey) :=
  congrArg Host.Outcome.next (if_pos tenant)

/-- MARK_KEY of a key that is not complete: one of its words, and nothing outside the tenant's record. -/
theorem markKey_writes (tenant : n < 64) (hi : i < 4) (incomplete : (s.tenAt n).keyWords ≠ 15) :
    ∃ t, exec (.markKey n i v) s = .next t ∧
      (t.tenAt n).key.extractLsb' (64 * i) 64 = v ∧ (t.tenAt n).keyWords.getLsbD i = true ∧
      (∀ j, j < 4 → j ≠ i → (t.tenAt n).key.extractLsb' (64 * j) 64 = (s.tenAt n).key.extractLsb' (64 * j) 64 ∧
        (t.tenAt n).keyWords.getLsbD j = (s.tenAt n).keyWords.getLsbD j) ∧
      { t with tens := s.tens } = s := by
  refine ⟨_, markKey_puts tenant, ?_⟩
  rw [State.tenAt_updTen_same]
  have key := fun j => putKey_key (v := v) (j := j) incomplete hi
  have words := fun j => putKey_keyWords (v := v) (j := j) incomplete hi
  refine ⟨(key i hi).trans (if_pos rfl), (words i hi).trans (if_pos rfl), fun j hj other => ⟨?_, ?_⟩, rfl⟩
  · exact (key j hj).trans (if_neg other)
  · exact (words j hj).trans (if_neg other)

end

/-! ### Measurements (R358) -/

/-- Register `i` of the measurements has been extended with `m`, and the others are as in `s`. -/
def MeasureExtended (s : State) (m : List Byte) (t : State) (i : Nat) : Prop :=
  SMap.get t.meas 0 i = BitVec.ofNat 512 (leNat (shake256 (leBytes 64 (SMap.get s.meas 0 i).toNat ++ m) 64)) ∧
    ∀ j, j ≠ i → SMap.get t.meas 0 j = SMap.get s.meas 0 j

section

variable {s : State} {m : List Byte} {n : Nat}

theorem measureExtended_of_meas {t : State} (e : t.meas = (s.measure n m).meas) : MeasureExtended s m t n := by
  unfold MeasureExtended
  rw [e]
  exact ⟨SMap.get_set_same _ _ _ _, fun j other => SMap.get_set_ne _ _ _ other⟩

theorem measurementExtend_extends (low : 3 ≤ n) (high : n ≤ 7) :
    ∃ t, exec (.measurementExtend n m) s = .next t ∧ MeasureExtended s m t n ∧ { t with meas := s.meas } = s :=
  ⟨_, if_pos ⟨low, high⟩, measureExtended_of_meas rfl, rfl⟩

end

/-! ### Boot stages (R316) -/

/-- STAGE shows `n`. -/
def Machine.State.inStage (s : State) (n : Nat) : State := { s with boot := { s.boot with stage := n } }

theorem reapplyAll_of_none {s : State} (retired : s.retired = []) (quarantined : s.quarantined = []) : s.reapplyAll = s := by
  unfold State.reapplyAll
  rw [retired, quarantined]
  rfl

theorem loadService_meas (s : State) (b : List Byte) : (s.loadService b).meas = s.meas := by
  unfold State.loadService
  split <;> rfl

section

variable {s : State} {m : List Byte}

theorem bootStage_zero (stage : s.boot.stage = 0) (ok : Bool) : exec (.bootStage ok m) s = .next (s.inStage 1) := by
  change execBootStage ok m s = _
  unfold execBootStage
  rw [stage]
  rfl

theorem bootStage_one (stage : s.boot.stage = 1) (ok : Bool) :
    exec (.bootStage ok m) s = .next ((s.measure 0 m).inStage (if ok then 2 else 15)) := by
  change execBootStage ok m s = _
  unfold execBootStage
  rw [stage]
  rfl

theorem bootStage_two (stage : s.boot.stage = 2) (ok : Bool) :
    exec (.bootStage ok m) s = .next ((s.reapplyAll.measure 1 m).inStage (if ok then 3 else 15)) := by
  change execBootStage ok m s = _
  unfold execBootStage
  rw [stage]
  rfl

theorem bootStage_three (stage : s.boot.stage = 3) (ok : Bool) :
    exec (.bootStage ok m) s = .next (((s.measure 2 m).loadService m).inStage 4) := by
  change execBootStage ok m s = _
  unfold execBootStage
  rw [stage]
  rfl

/-- A boot stage that has measured its image into register `i`. -/
theorem bootStage_measures {ok : Bool} {t : State} {k i : Nat} (runs : exec (.bootStage ok m) s = .next (t.inStage k))
    (e : t.meas = (s.measure i m).meas) :
    ∃ t, exec (.bootStage ok m) s = .next t ∧ t.boot.stage = k ∧ MeasureExtended s m t i :=
  ⟨_, runs, rfl, measureExtended_of_meas e⟩

/-- Stage 2 measures its image where nothing is to be put out of service again. -/
theorem bootStage_two_measures (stage : s.boot.stage = 2) (retired : s.retired = []) (quarantined : s.quarantined = [])
    (ok : Bool) :
    ∃ t, exec (.bootStage ok m) s = .next t ∧ t.boot.stage = (if ok then 3 else 15) ∧ MeasureExtended s m t 1 := by
  refine bootStage_measures (bootStage_two stage ok) ?_
  rw [reapplyAll_of_none retired quarantined]

end

/-- Settles O56: registers by the block they lie in, the aperture, the mark key, the reset state with what outlives it, and the
boot stages by what each measures. -/
theorem controlWindow : Obligations.ControlWindow := by
  unfold Obligations.ControlWindow
  intro s v n m
  have written : ∀ {off : Nat} {t : State}, s.writeReg off v = t → exec (.registerWrite off v) s = .next t :=
    congrArg Host.Outcome.next
  have global : ∀ {off : Nat}, off < 0x100000 → s.writeReg off v = s.writeGlobal off v := writeReg_global
  refine ⟨written (global (by decide)), written (global (by decide)), written (global (by decide)),
    fun free go => written ((global (by decide)).trans (mailboxGo_free free go)),
    fun busy => written ((global (by decide)).trans (mailboxGo_busy busy)),
    fun started queue => written (writeReg_queue started queue (by decide)),
    fun started tenant => written (writeReg_tenant (o := 0) started tenant (by decide)),
    fun window inside reached => ⟨fun hostReads => ?read, exec_apertureAccess window inside reached true⟩,
    fun tenant => ⟨clear_clears tenant, fun i hi incomplete => markKey_writes tenant hi incomplete⟩,
    ?moduleReset,
    fun ok stage => ⟨_, bootStage_zero stage ok, rfl, rfl⟩,
    fun stage => bootStage_measures (bootStage_one stage true) rfl,
    fun stage => bootStage_measures (bootStage_one stage false) rfl,
    fun stage => bootStage_measures (bootStage_three stage true) (loadService_meas _ m),
    fun retired quarantined => ⟨fun stage => bootStage_two_measures stage retired quarantined true,
      fun stage => bootStage_two_measures stage retired quarantined false⟩, measurementExtend_extends⟩
  case read =>
    have runs := exec_apertureAccess (v := v) window inside reached false
    rw [map_apertureByte hostReads] at runs
    exact runs
  case moduleReset => exact ⟨_, rfl, rfl, rfl, rfl, rfl, rfl, rfl, rfl, rfl, rfl, rfl, rfl, rfl, rfl, rfl, rfl⟩

end Sys2Proof
